-- ==== Sys2Proof/Word.lean ====
section
/-! DEFINITION. The word types of the machine and their plainest arithmetic. -/

namespace Sys2Proof

/-- A byte of memory. -/
abbrev Byte := BitVec 8

/-- A 64-bit register, address or program counter (R16, R53). -/
abbrev Word := BitVec 64

/-- One 32-bit lane of a vector register (R12). -/
abbrev Lane := BitVec 32

/-- A vector register: 64 lanes of 32 bits (R16). -/
abbrev VReg := Vector Lane 64

/-- A tile register: 4,096 bytes taken as one little-endian number of 32,768 bits (R21). -/
abbrev Tile := BitVec 32768

/-- A 96-bit instruction word (R50). -/
abbrev IWord := BitVec 96

/-- The vector register whose every lane is zero. -/
abbrev VReg.zero : VReg := Vector.replicate 64 0

end Sys2Proof
end

