-- ==== Sys2Proof/Config.lean ====
section
/-! DEFINITION. What an implementation fixes, and the free values: constants without a body, so that nothing proved
here can rest on what they are (log 9). -/

namespace Sys2Proof

/-- The n-th free 64-bit value drawn in a run: what a rule states no value for (log 9). -/
opaque Config.freeWord : Nat → BitVec 64

/-- The 114-byte Ed448 signature of a message by the device identity key (R385, R386; log 9). -/
opaque Config.ed448 : List Byte → BitVec 912

/-- The 64-byte SHAKE256 digest of a firmware image (R377, R386; log 9). -/
opaque Config.imageDigest : List Byte → BitVec 512

/-- Bytes of a firmware image at FWIMG (R377; log 9). -/
opaque Config.imageBytes : Nat

/-- Byte `i` of the 8 KiB at BAR 0 offset 0x3D_0000: the Varzin certificate chain for the identity key (R386; log 9). -/
opaque Config.certificate : Nat → Byte

/-- The check value of a saved record, over its core record and annex (R345; log 9). -/
opaque Config.checkValue : List Byte → BitVec 512

/-- Byte `i` of the entries of the n-th annex that the device writes: its layout is the device's own (R345; log 9). -/
opaque Config.annexByte : Nat → Nat → Byte

/-- Whether the signature and digest of an image check against the Varzin key, and whether its state-table major version is
accepted (R377; log 9). -/
opaque Config.imageVerdict : List Byte → Bool × Bool

/-- The version of the state table of an image (FWVER, R375; log 9). -/
opaque Config.imageVersion : List Byte → BitVec 16

/-- One less than the page requests that the host lets the device have outstanding at once (R331; log 45). -/
opaque Config.spareRequests : Nat

/-- Bytes of one scratchpad (R12). -/
def Config.spBytes : Nat := 131072
/-- First byte of the undo log of a scratchpad (R361). -/
def Config.undoBase : Nat := 114688
/-- Clocks in one microsecond at the nominal 1.05 GHz (R1). -/
def Config.clkPerUs : Nat := 1050
/-- GRADE of the 9064 (Table 25-1, log 4). -/
def Config.grade : BitVec 16 := 0x2368
/-- Sustained package power of the 9064 in W (Table 0-1). -/
def Config.gradePower : Nat := 3200
/-- Live sites of each die of a 9064 (R387, log 4). -/
def Config.live : Word := 0xFFFFFFFFFFFFFFFF
/-- DRAM capacity of a die (Table 0-1): 128 GB, 96 GB on a 9047, a GB being 10^9 bytes (R5, log 51). -/
def Config.dramBytes (grade : BitVec 16) : Nat := if grade = 0x2357 then 96 * 10 ^ 9 else 128 * 10 ^ 9

/-! The flat numbering of every byte that the part reaches (log 7). -/

/-- Where host memory starts in the flat numbering (log 7). -/
def Config.hostBase : Nat := 2 ^ 64
/-- Where the side bytes of DRAM start (log 7, log 50). -/
def Config.sideBase : Nat := 2 ^ 69
/-- Side byte `k` of the burst that holds the DRAM byte at a location (R308). -/
def Config.sideLoc (loc k : Nat) : Nat := 2 ^ 69 + loc / 32 * 4 + k
/-- Where the scratchpads start (log 7). -/
def Config.spBase : Nat := 2 ^ 70
/-- Where the lane slices start (log 7). -/
def Config.laneBase : Nat := 2 ^ 71
/-- Where the chip scratchpads start (log 7). -/
def Config.chipBase : Nat := 2 ^ 72
/-- Where the v or t register of a number of a core stands among what may read as uncorrectable (R360, log 7). -/
def Config.regLoc (core reg : Nat) : Nat := 2 ^ 73 + core * 256 + reg
/-- Where the stage of a wire at a core stands among it (R360, log 7). -/
def Config.wireLoc (core wire : Nat) : Nat := 2 ^ 74 + core * 1024 + wire
/-- Byte `off` of the scratchpad of a core. -/
def Config.spLoc (core off : Nat) : Nat := 2 ^ 70 + core * 131072 + off
/-- Byte `off` of a lane's slice in a core. -/
def Config.laneLoc (core lane off : Nat) : Nat := 2 ^ 71 + core * 16384 + 256 * lane + off
/-- Byte `off` of the chip-scratchpad segment of a site of a die. -/
def Config.chipLoc (die site off : Nat) : Nat := 2 ^ 72 + (die * 64 + site) * 1048576 + off

end Sys2Proof
end

