-- ==== Sys2Proof/Syntax.lean ====
section
/-! DEFINITION. The syntax: the fields of the six instruction formats, and the inductive type of all steps. -/

namespace Sys2Proof

/-- Format Q of Table 3-4 for the scalar, predicate and branch opcodes (bits [34:0] reserved). -/
structure FQ where
  g : BitVec 3
  gn : BitVec 1
  var : BitVec 2
  d : BitVec 8
  a : BitVec 8
  b : BitVec 8
  c : BitVec 8
  t1 : BitVec 4
  t2 : BitVec 4
  rm : BitVec 2
  sat : BitVec 1
  na : BitVec 1
  nc : BitVec 1
  deriving DecidableEq, Repr

/-- The vector form (R65, R96): format Q under VAR 00 and 01, format I under VAR 10, whose SH keeps the
Q layout (R63); `imm` is zero except under VAR 10, where `b` and `c` are zero. -/
structure FV where
  g : BitVec 3
  gn : BitVec 1
  var : BitVec 2
  d : BitVec 8
  a : BitVec 8
  b : BitVec 8
  c : BitVec 8
  t1 : BitVec 4
  t2 : BitVec 4
  rm : BitVec 2
  sat : BitVec 1
  na : BitVec 1
  nc : BitVec 1
  imm : BitVec 32
  deriving DecidableEq, Repr

/-- Format I of Table 3-4 (bits [55:48] reserved). -/
structure FI where
  g : BitVec 3
  gn : BitVec 1
  var : BitVec 2
  d : BitVec 8
  a : BitVec 8
  b : BitVec 8
  t1 : BitVec 4
  t2 : BitVec 4
  sh : BitVec 8
  imm : BitVec 32
  deriving DecidableEq, Repr

/-- Format T of Table 3-4; the C field is reserved in every tile instruction (R143). -/
structure FT where
  g : BitVec 3
  gn : BitVec 1
  var : BitVec 2
  d : BitVec 8
  a : BitVec 8
  b : BitVec 8
  ta : BitVec 4
  tb : BitVec 4
  tc : BitVec 4
  kb : BitVec 4
  deriving DecidableEq, Repr

/-- Format E of Table 3-4. -/
structure FE where
  g : BitVec 3
  gn : BitVec 1
  var : BitVec 2
  d : BitVec 8
  a : BitVec 8
  b : BitVec 8
  c : BitVec 8
  sub : BitVec 8
  flg : BitVec 8
  imm : BitVec 32
  deriving DecidableEq, Repr

/-- Format M of Table 3-5 (bits [36:32] reserved). -/
structure FM where
  g : BitVec 3
  gn : BitVec 1
  var : BitVec 2
  v : BitVec 8
  base : BitVec 8
  idx : BitVec 8
  am : BitVec 3
  w : BitVec 3
  col : BitVec 3
  scp : BitVec 3
  vw : BitVec 2
  ch : BitVec 2
  shx : BitVec 3
  disp : BitVec 32
  deriving DecidableEq, Repr

/-- Format B of Table 3-6 (bits [67:64] and [55:35] reserved). -/
structure FB where
  g : BitVec 3
  gn : BitVec 1
  var : BitVec 2
  c : BitVec 8
  cc : BitVec 4
  l : BitVec 8
  tslot : BitVec 3
  dline : BitVec 32
  deriving DecidableEq, Repr

/-- What the energy meters and event counters give for one interval (R383, Tables 25-4 and 25-5), in µJ and
counts: the energy of the core rail of each cluster less its static share, and that of it which went into zeroing the cluster
(R350), by package cluster number; the energy of the work that firmware, the in-field test and the save did for each
partition; the shared, static and host-link energy, each partition's counts of the seven events of Table 25-5 (DRAM accesses of sector, line and gang
granule, Ridgeline flits, L2 accesses, router hops, die-bridge crossings), and the bytes it moved; and the table of weights
that firmware sets for the intervals that follow, if it does (R384). -/
structure EnergyMeters where
  core : List (Nat × Nat) := []
  zeroing : List (Nat × Nat) := []
  work : List (Nat × Nat) := []
  shared : Nat := 0
  static : Nat := 0
  host : Nat := 0
  events : List (List Nat) := []
  bytes : List Nat := []
  weights : Option (Vector Nat 7) := none
  deriving DecidableEq, Repr

/-- The arguments of an event row: which of the agents it concerns, and what comes with it from outside. The
docstring of each event's constructor names the fields that it reads. -/
structure EventArgs where
  core : Nat := 0
  ctx : Fin 12 := 0
  gid : BitVec 16 := 0
  part : Nat := 0
  die : Nat := 0
  addr : Nat := 0
  index : Nat := 0
  count : Nat := 0
  word : Word := 0
  pasid : Option (BitVec 20) := none
  yes : Bool := false
  also : Bool := false
  meters : EnergyMeters := {}
  deriving DecidableEq, Repr


/-- One step of the part: an instruction of the opcode map with the fields of its format, or an event of
the hardware, the firmware or the host (spec/opcode_table.json, spec/95). One constructor per row of the table.
The arguments of an event are data of the turn that it takes (EventArgs; log 1). -/
inductive Instr where
  /-- NOP (R70). -/
  | nop (f : FQ)
  /-- ADD (R76). -/
  | add (f : FQ)
  /-- SUB (R76). -/
  | sub (f : FQ)
  /-- ADDI (R76). -/
  | addi (f : FI)
  /-- MUL (R76). -/
  | mul (f : FQ)
  /-- MULH (R75). -/
  | mulh (f : FQ)
  /-- MULHU (R75). -/
  | mulhu (f : FQ)
  /-- DIV (R77). -/
  | div (f : FQ)
  /-- DIVU (R77). -/
  | divu (f : FQ)
  /-- REM (R77). -/
  | rem (f : FQ)
  /-- REMU (R77). -/
  | remu (f : FQ)
  /-- AND (R75). -/
  | and (f : FQ)
  /-- OR (R75). -/
  | or (f : FQ)
  /-- XOR (R75). -/
  | xor (f : FQ)
  /-- ANDN (R75). -/
  | andn (f : FQ)
  /-- ANDI (R75). -/
  | andi (f : FI)
  /-- ORI (R75). -/
  | ori (f : FI)
  /-- XORI (R75). -/
  | xori (f : FI)
  /-- SHL (R75). -/
  | shl (f : FQ)
  /-- SHR (R75). -/
  | shr (f : FQ)
  /-- SRA (R75). -/
  | sra (f : FQ)
  /-- SHLI (R75). -/
  | shli (f : FI)
  /-- SHRI (R75). -/
  | shri (f : FI)
  /-- SRAI (R75). -/
  | srai (f : FI)
  /-- ROL (R75). -/
  | rol (f : FQ)
  /-- ROLI (R75). -/
  | roli (f : FI)
  /-- CLZ (R75). -/
  | clz (f : FQ)
  /-- CTZ (R75). -/
  | ctz (f : FQ)
  /-- POPC (R75). -/
  | popc (f : FQ)
  /-- MIN (R75). -/
  | min (f : FQ)
  /-- MAX (R75). -/
  | max (f : FQ)
  /-- MINU (R75). -/
  | minu (f : FQ)
  /-- MAXU (R75). -/
  | maxu (f : FQ)
  /-- SEXT (R78). -/
  | sext (f : FI)
  /-- ZEXT (R78). -/
  | zext (f : FI)
  /-- BFX (R78). -/
  | bfx (f : FI)
  /-- BFX.SX (R78). -/
  | bfxSx (f : FI)
  /-- BFI (R78). -/
  | bfi (f : FI)
  /-- SEL (R78). -/
  | sel (f : FQ)
  /-- CMP.cc.ty (R80). -/
  | cmp (f : FQ)
  /-- CMPI.cc.ty (R80). -/
  | cmpi (f : FI)
  /-- LI (R78). -/
  | li (f : FI)
  /-- LIH (R78). -/
  | lih (f : FI)
  /-- MOV (R78). -/
  | mov (f : FQ)
  /-- AADD (R79). -/
  | aadd (f : FQ)
  /-- AADDI (R79). -/
  | aaddi (f : FI)
  /-- MFC (R82). -/
  | mfc (f : FI)
  /-- MTC (R82). -/
  | mtc (f : FI)
  /-- PAND (R81). -/
  | pand (f : FQ)
  /-- POR (R81). -/
  | por (f : FQ)
  /-- PXOR (R81). -/
  | pxor (f : FQ)
  /-- PNOT (R81). -/
  | pnot (f : FQ)
  /-- BR.cc (R84). -/
  | br (f : FB)
  /-- J (R84). -/
  | j (f : FB)
  /-- JR (R84). -/
  | jr (f : FQ)
  /-- LOOP (R84). -/
  | loop (f : FB)
  /-- TRAP (R87). -/
  | trap (f : FI)
  /-- CHK.cc.ty (R88). -/
  | chk (f : FI)
  /-- SYSC (R92). -/
  | sysc (f : FI)
  /-- TRET (R91). -/
  | tret (f : FI)
  /-- HALT (R93). -/
  | halt (f : FI)
  /-- FENCE.I (R94). -/
  | fenceI (f : FI)
  /-- YIELD (R95). -/
  | yield (f : FI)
  /-- VADD.F32 (R101). -/
  | vadd (f : FV)
  /-- VSUB.F32 (R101). -/
  | vsub (f : FV)
  /-- VMUL.F32 (R101). -/
  | vmul (f : FV)
  /-- VFMA.F32 (R101). -/
  | vfma (f : FV)
  /-- VFMS.F32 (R101). -/
  | vfms (f : FV)
  /-- VDIV.F32 (R101). -/
  | vdiv (f : FV)
  /-- VSQRT.F32 (R101). -/
  | vsqrt (f : FV)
  /-- VRCPE.F32 (R104). -/
  | vrcpe (f : FV)
  /-- VRSQE.F32 (R104). -/
  | vrsqe (f : FV)
  /-- VEXP2.F32 (R105). -/
  | vexp2 (f : FV)
  /-- VLOG2.F32 (R105). -/
  | vlog2 (f : FV)
  /-- VMIN.F32 (R101). -/
  | vmin (f : FV)
  /-- VMAX.F32 (R101). -/
  | vmax (f : FV)
  /-- VABS (R102). -/
  | vabs (f : FV)
  /-- VNEG (R102). -/
  | vneg (f : FV)
  /-- VCMP.cc.ty (R106). -/
  | vcmp (f : FV)
  /-- VSEL (R106). -/
  | vsel (f : FV)
  /-- VCVT.ts.td (R107). -/
  | vcvt (f : FV)
  /-- VIADD.ty (R108). -/
  | viadd (f : FV)
  /-- VISUB.ty (R108). -/
  | visub (f : FV)
  /-- VIMUL.ty (R108). -/
  | vimul (f : FV)
  /-- VIMAD.ty (R108). -/
  | vimad (f : FV)
  /-- VIMIN.ty (R108). -/
  | vimin (f : FV)
  /-- VIMAX.ty (R108). -/
  | vimax (f : FV)
  /-- VAND (R108). -/
  | vand (f : FV)
  /-- VOR (R108). -/
  | vor (f : FV)
  /-- VXOR (R108). -/
  | vxor (f : FV)
  /-- VSHL.ty (R108). -/
  | vshl (f : FV)
  /-- VSHR.ty (R108). -/
  | vshr (f : FV)
  /-- VSRA.ty (R108). -/
  | vsra (f : FV)
  /-- VCLASS.ty (R106). -/
  | vclass (f : FV)
  /-- VMOVV (R110). -/
  | vmovv (f : FV)
  /-- VRSUM.F32 (R109). -/
  | vrsum (f : FV)
  /-- VRMAX.F32 (R109). -/
  | vrmax (f : FV)
  /-- VRMIN.F32 (R109). -/
  | vrmin (f : FV)
  /-- VSCAN.F32 (R109). -/
  | vscan (f : FV)
  /-- VBCAST (R110). -/
  | vbcast (f : FV)
  /-- VPERM (R110). -/
  | vperm (f : FV)
  /-- VSLIDE (R110). -/
  | vslide (f : FV)
  /-- VCOMP (R111). -/
  | vcomp (f : FV)
  /-- VEXPD (R111). -/
  | vexpd (f : FV)
  /-- VIOTA (R111). -/
  | viota (f : FV)
  /-- VGETL (R112). -/
  | vgetl (f : FV)
  /-- VSETL (R112). -/
  | vsetl (f : FV)
  /-- KPOPC (R113). -/
  | kpopc (f : FV)
  /-- KFIRST (R113). -/
  | kfirst (f : FV)
  /-- KAND (R113). -/
  | kand (f : FV)
  /-- KOR (R113). -/
  | kor (f : FV)
  /-- KXOR (R113). -/
  | kxor (f : FV)
  /-- KNOT (R113). -/
  | knot (f : FV)
  /-- KMOV (R113). -/
  | kmov (f : FV)
  /-- VNSEND.dir (R114). -/
  | vnsend (f : FV)
  /-- VNRECV.dir (R114). -/
  | vnrecv (f : FV)
  /-- VLMUL.ty (R116). -/
  | vlmul (f : FV)
  /-- VLSUM.ty (R117). -/
  | vlsum (f : FV)
  /-- VLPACK.ty (R118). -/
  | vlpack (f : FV)
  /-- VLUNPK.ty (R118). -/
  | vlunpk (f : FV)
  /-- LD.w (R125). -/
  | ld (f : FM)
  /-- ST.w (R125). -/
  | st (f : FM)
  /-- LDV.size (R128). -/
  | ldv (f : FM)
  /-- STV.size (R128). -/
  | stv (f : FM)
  /-- LDVS.w (R129). -/
  | ldvs (f : FM)
  /-- STVS.w (R129). -/
  | stvs (f : FM)
  /-- LDVX.w (R130). -/
  | ldvx (f : FM)
  /-- STVX.w (R130). -/
  | stvx (f : FM)
  /-- LDK.B64 (R125). -/
  | ldk (f : FM)
  /-- STK.B64 (R125). -/
  | stk (f : FM)
  /-- LDA.w.scope (R126). -/
  | lda (f : FM)
  /-- STRL.w.scope (R126). -/
  | strl (f : FM)
  /-- PREF (R132). -/
  | pref (f : FM)
  /-- AMOADD.w.scope (R134). -/
  | amoadd (f : FM)
  /-- AMOMIN.w.scope (R134). -/
  | amomin (f : FM)
  /-- AMOMAX.w.scope (R134). -/
  | amomax (f : FM)
  /-- AMOMINU.w.scope (R134). -/
  | amominu (f : FM)
  /-- AMOMAXU.w.scope (R134). -/
  | amomaxu (f : FM)
  /-- AMOAND.w.scope (R134). -/
  | amoand (f : FM)
  /-- AMOOR.w.scope (R134). -/
  | amoor (f : FM)
  /-- AMOXOR.w.scope (R134). -/
  | amoxor (f : FM)
  /-- AMOSWP.w.scope (R134). -/
  | amoswp (f : FM)
  /-- AMOCAS.w.scope (R134). -/
  | amocas (f : FM)
  /-- AMOFADD.B32.scope (R135). -/
  | amofadd (f : FM)
  /-- FENCE.scope (R136). -/
  | fence (f : FI)
  /-- FENCE.SS.scope (R136). -/
  | fenceSs (f : FI)
  /-- FENCE.LL.scope (R136). -/
  | fenceLl (f : FI)
  /-- FENCE.S (R137). -/
  | fenceS (f : FI)
  /-- CMO.CLEAN.scope (R138). -/
  | cmoClean (f : FM)
  /-- CMO.INVAL.core (R138). -/
  | cmoInval (f : FM)
  /-- CMO.FLUSH.scope (R138). -/
  | cmoFlush (f : FM)
  /-- CMO.ZERO.colour (R138). -/
  | cmoZero (f : FM)
  /-- WAITM.w (R139). -/
  | waitm (f : FM)
  /-- WAITM.CMP.w (R139). -/
  | waitmCmp (f : FM)
  /-- LDSEC.SEC (R131). -/
  | ldsec (f : FM)
  /-- STSEC.SEC (R131). -/
  | stsec (f : FM)
  /-- TSET.ty (R149). -/
  | tset (f : FI)
  /-- TGET (R149). -/
  | tget (f : FI)
  /-- TLD (R150). -/
  | tld (f : FM)
  /-- TST (R150). -/
  | tst (f : FM)
  /-- TZERO (R157). -/
  | tzero (f : FT)
  /-- TMOV (R157). -/
  | tmov (f : FT)
  /-- GISSUE (R152). -/
  | gissue (f : FE)
  /-- TMMA.ta.tb.tc (R154). -/
  | tmma (f : FT)
  /-- TMMAL.ta.tb.tc (R154). -/
  | tmmal (f : FT)
  /-- TSCALE.F32.F32.F32 (R156). -/
  | tscale (f : FT)
  /-- TADD.ty.ty.ty (R157). -/
  | tadd (f : FT)
  /-- TMUL.ty.ty.ty (R157). -/
  | tmul (f : FT)
  /-- TCVT.ts.td (R157). -/
  | tcvt (f : FT)
  /-- TTRANS.ty.ty (R157). -/
  | ttrans (f : FT)
  /-- TRSUM.F32 (R158). -/
  | trsum (f : FT)
  /-- TRMAX.F32 (R158). -/
  | trmax (f : FT)
  /-- TV2T.ty (R159). -/
  | tv2t (f : FT)
  /-- TT2V.ty (R159). -/
  | tt2v (f : FT)
  /-- TBCST.ty (R157). -/
  | tbcst (f : FT)
  /-- TSTAT (R148). -/
  | tstat (f : FI)
  /-- HSTART (R166). -/
  | hstart (f : FE)
  /-- HEND (R167). -/
  | hend (f : FE)
  /-- HJOIN (R168). -/
  | hjoin (f : FE)
  /-- HSTAT (R168). -/
  | hstat (f : FE)
  /-- GDETACH (R169). -/
  | gdetach (f : FE)
  /-- GDETACH.JOIN (R169). -/
  | gdetachJoin (f : FE)
  /-- GATTACH (R170). -/
  | gattach (f : FE)
  /-- GMERGE (R170). -/
  | gmerge (f : FE)
  /-- BARW.scope (R171). -/
  | barw (f : FE)
  /-- BARA.scope (R171). -/
  | bara (f : FE)
  /-- BARQ.scope (R171). -/
  | barq (f : FE)
  /-- BARQ.TEST.scope (R171). -/
  | barqTest (f : FE)
  /-- XPH (R173). -/
  | xph (f : FE)
  /-- XSEND (R173). -/
  | xsend (f : FE)
  /-- XMUX (R173). -/
  | xmux (f : FE)
  /-- XEND (R173). -/
  | xend (f : FE)
  /-- CPY.dam.sam (R175). -/
  | cpy (f : FE)
  /-- CPYN (R176). -/
  | cpyn (f : FE)
  /-- CPYC (R177). -/
  | cpyc (f : FE)
  /-- CPYR (R177). -/
  | cpyr (f : FE)
  /-- CPYCMB.ty.dam.sam (R177). -/
  | cpycmb (f : FE)
  /-- WMSET (R178). -/
  | wmset (f : FE)
  /-- WMCLR (R178). -/
  | wmclr (f : FE)
  /-- WMRD (R178). -/
  | wmrd (f : FE)
  /-- WMRD.ADDR (R178). -/
  | wmrdAddr (f : FE)
  /-- CRWAIT (R179). -/
  | crwait (f : FE)
  /-- CRPOP (R179). -/
  | crpop (f : FE)
  /-- CBINIT (R180). -/
  | cbinit (f : FE)
  /-- CBACQ.RD (R180). -/
  | cbacqRd (f : FE)
  /-- CBACQ.WR (R180). -/
  | cbacqWr (f : FE)
  /-- CBREL.RD (R180). -/
  | cbrelRd (f : FE)
  /-- CBREL.WR (R180). -/
  | cbrelWr (f : FE)
  /-- GATHER.w (R181). -/
  | gather (f : FE)
  /-- EVSET (R182). -/
  | evset (f : FE)
  /-- EVCLR (R182). -/
  | evclr (f : FE)
  /-- EVWAIT.ANY (R182). -/
  | evwaitAny (f : FE)
  /-- EVWAIT.ALL (R182). -/
  | evwaitAll (f : FE)
  /-- MPOST (R183). -/
  | mpost (f : FE)
  /-- MRECV (R183). -/
  | mrecv (f : FE)
  /-- MRECV.TEST (R183). -/
  | mrecvTest (f : FE)
  /-- WAITT (R184). -/
  | waitt (f : FE)
  /-- WAITT.ABS (R184). -/
  | waittAbs (f : FE)
  /-- TQPUT (R185). -/
  | tqput (f : FE)
  /-- HODQ (R186). -/
  | hodq (f : FE)
  /-- HODR (R186). -/
  | hodr (f : FE)
  /-- HODR.TEST (R186). -/
  | hodrTest (f : FE)
  /-- CELL.DEF (R287). -/
  | cellDef (f : FE)
  /-- CELL.BIND (R298). -/
  | cellBind (f : FE)
  /-- CELL.PUT (R290). -/
  | cellPut (f : FE)
  /-- CELL.GET (R123). -/
  | cellGet (f : FE)
  /-- CELL.COMMIT (R292). -/
  | cellCommit (f : FE)
  /-- CELL.STATE (R187). -/
  | cellState (f : FE)
  /-- CELL.STATE.FLIP (R187). -/
  | cellStateFlip (f : FE)
  /-- CELL.STATE.ABORT (R187). -/
  | cellStateAbort (f : FE)
  /-- CELL.DROP (R187). -/
  | cellDrop (f : FE)
  /-- Host or firmware write to a register field that has no behaviour of its own. (R6). Arguments: `addr` the BAR 0 offset, `word` the 64-bit value written, `count` what the hottest die sensor reads (TMAX). -/
  | registerWrite
  /-- A TAIL write makes the command processor read the new packets in order. (R268). Arguments: `index` the queue, `word` the TAIL written. -/
  | queueDoorbell
  /-- Writing EN from 0 to 1 resets HEAD, clears ERR and discards unplaced launches. (R267). Arguments: `index` the queue, `word` the control word written at its offset 0x08. -/
  | queueEnable
  /-- Accepts a launch into the queue's pending list after reading its descriptor. (R271). Arguments: `index` the queue. -/
  | dispatch
  /-- Cleans every line of a range in the partition's caches. (R279). Arguments: `index` the queue. -/
  | cmoRangeClean
  /-- Invalidates every line of a range in the partition's caches. (R279). Arguments: `index` the queue. -/
  | cmoRangeInval
  /-- Flushes every line of a range in the partition's caches. (R279). Arguments: `index` the queue. -/
  | cmoRangeFlush
  /-- Changes the coherence class of a range after recalling it. (R322). Arguments: `index` the queue. -/
  | cmoRangeAttr
  /-- Sets or clears partition event bits and optionally writes a value. (R276). Arguments: `index` the queue. -/
  | eventSet
  /-- Holds the queue head until the masked event bits are set. (R276). Arguments: `index` the queue. -/
  | eventWait
  /-- Processes the packets of an indirect buffer in its place. (R279). Arguments: `index` the queue. -/
  | indirect
  /-- Writes TBASE to an address once earlier packets are consumed. (R279). Arguments: `index` the queue. -/
  | timestamp
  /-- Seals the partition's open wave from the host. (R279). Arguments: `index` the queue. -/
  | cellWave
  /-- Sets the power state and cap from the PWRQ queue. (R378). Arguments: `index` the queue. -/
  | power
  /-- The distributor places the chosen eligible launch atomically onto free clusters. (R273). -/
  | launchPlacement
  /-- A held launch's barrier completes when TBASE reaches START. (R280). Arguments: `gid` the gang. -/
  | startTimeReached
  /-- When all cores have ended, clusters are released, SMASK bits set and a record written. (R275). Arguments: `gid` the gang. -/
  | gangEnd
  /-- Stops placement on a gang's clusters and lets it drain. (R340). Arguments: `gid` the gang. -/
  | preemptionRequest
  /-- The drain limit lapses and the gang escalates to the forced save. (R340). Arguments: `gid` the gang. -/
  | drainExpiry
  /-- The last cluster finishes saving and the gang's clusters are released. (R343). Arguments: `gid` the gang. -/
  | saveComplete
  /-- A saved gang is placed again and resumes at its stream position. (R346). Arguments: `gid` the gang. -/
  | gangRestore
  /-- A wait exceeding WAITTH saves the gang and re-queues it with its wake condition. (R283). Arguments: `core`, `ctx`: the context whose wait exceeded its threshold. -/
  | longWaitSwap
  /-- The resume interval makes a swapped gang eligible again. (R283). Arguments: `gid` the gang. -/
  | resumeIntervalExpiry
  /-- A swapped gang's wake condition occurs and it becomes eligible. (R283). Arguments: `gid` the gang. -/
  | swapWake
  /-- A barrier, join, GATTACH or HOLD wait exceeds BTO and the chosen participant raises BARTIMEOUT. (R172). Arguments: `core` one whose wait exceeded its BTO. -/
  | btoExpiry
  /-- A barrier completes after its last arrival, ordering memory and resuming at skew. (R172). Arguments: `core` a participant, `index` the scope of the barrier. -/
  | barrierCompletion
  /-- The segment's wired join completes and each slice starts its product at start_j. (R153). Arguments: `core` any core of the segment. -/
  | joinCompletion
  /-- A macro-operation step completes, writing its results and flags. (R145). Arguments: `core`. -/
  | sequencerStep
  /-- A variable-timing condition met in a core is reported to the origin, which may then issue. (R208). Arguments: `core`. -/
  | streamConditionReport
  /-- A load, atomic or page-requested access's reply arrives and writes its destination. (R208). Arguments: `core`, `ctx`. -/
  | memoryReply
  /-- A neighbour-channel entry arrives, overwriting and setting the full bit. (R114). Arguments: `core` the receiving core, `index` the side of its channel. -/
  | channelArrival
  /-- At issue plus FLG the value present on the wire is written to D. (R173). Arguments: `core`. -/
  | xmuxCapture
  /-- A collision sensed at a tap raises XCOLLIDE in each driving core. (R238). Arguments: `core` the tap, `index` the wire. -/
  | xcollideSense
  /-- An agent raises HOLD and the phase pauses H clk later. (R242). Arguments: `gid` the gang, `index` the number of the agent. -/
  | holdRaise
  /-- The last agent drops HOLD and the phase resumes H clk later. (R242). Arguments: `gid` the gang, `index` the number of the agent. -/
  | holdRelease
  /-- A clock-throttle change applies to the gang after a barrier completion. (R240). Arguments: `gid` the gang. -/
  | throttleChange
  /-- A gang with no barrier within the firmware limit is throttled at its next free position. (R240). Arguments: `gid` the gang. -/
  | throttleLimitExpiry
  /-- A copy engine lands a run of consecutive positions and advances COUNT. (R220). Arguments: `core`, `index` the copy-table entry, `count` the length of the run landed. -/
  | copyLanding
  /-- A copy's completion record is written and DONE becomes 1. (R226). Arguments: `core`, `index` the copy-table entry. -/
  | copyComplete
  /-- A fault in a copy freezes it at COUNT and posts an asynchronous record. (R225). Arguments: `core`, `index` the copy-table entry. -/
  | copyFault
  /-- A combining packet is added into, stored in, or passed by a router's table. (R247). Arguments: `index` the number of the packet on its way. -/
  | combinePacketArrival
  /-- A combining entry is forwarded after 16 clk without arrival. (R247). Arguments: `index` the router (64 x die + site), `count` the entry of its table. -/
  | combineEntryTimeout
  /-- The gather engine's reply arrives and fills the active lanes. (R246). Arguments: `core`. -/
  | gatherReply
  /-- The task queue dispatches the oldest dispatchable task and fetches its footprint. (R229). Arguments: `gid` the gang, `index` the package cluster number of its cluster block. -/
  | taskDispatch
  /-- A task's footprint has landed and its helper starts. (R229). Arguments: `index` the number of the task (Task.number). -/
  | footprintComplete
  /-- A pin outlasting PINTO is revoked and its helper takes PINREVOKED. (R332). Arguments: `part`, `addr` the IA of the page. -/
  | pintoExpiry
  /-- The host's response reruns the walk or raises PAGE. (R331). Arguments: `part`, `addr` the IA of the page, or with `also` the number of the host page, `yes` whether the host granted it. -/
  | pageGroupResponse
  /-- Drops covered host translations and completes after their accesses. (R330). Arguments: `pasid` the PASID or none, `addr`, `count` the range of host addresses. -/
  | atsInvalidationRequest
  /-- An ATS Translation Completion fills the address translation cache. (R330). Arguments: `die`, `pasid`, `addr` the host page, `word` the number of the translated page, `yes`, `also` the R and W that the host grants. -/
  | translationCompletion
  /-- Drops cached translations for a range and waits for their accesses. (R329). Arguments: `part`. -/
  | shootdownDrop
  /-- Drops translations for a range after settling pins. (R329). Arguments: `part`. -/
  | shootdownUnmap
  /-- Settles pins and moves each page of a range to new frames. (R329). Arguments: `part`. -/
  | shootdownMove
  /-- A page's remote access count reaches MTH and it moves or becomes SETTLED. (R337). Arguments: `part`, `addr` the IA of the page, `die` whose accesses reached MTH. -/
  | migrationTrigger
  /-- A SETTLED page becomes ACTIVE again with its counts cleared. (R337). Arguments: `part`, `addr` the IA of the page. -/
  | settledExpiry
  /-- A shipped helper's return message clears its HLIVE bit at home. (R167). Arguments: `core`, `ctx`. -/
  | helperReturnMessage
  /-- A core cache request is resolved against its directory entry, recalling as needed. (R318). Arguments: `core` the requester, `addr` the IA, `yes` when it writes. -/
  | directoryRequest
  /-- Sibling entries quiet for the interval merge. (R319). Arguments: `index` the home slice (64 x die + site), `part`, `addr` the base of the lower sibling. -/
  | directoryMerge
  /-- A sleeping array wakes and invalidates lines by the wraps since sleep. (R321). Arguments: `index` the array. -/
  | arrayWake
  /-- A host access to device memory arrives over the host link. (R266). Arguments: `part`, `addr` the IA of 8 aligned bytes, `yes` when it writes, `word` the data written. -/
  | hostAccess
  /-- An EVSET or EVCLR reaches its target core's event vector, waking EVWAITs. (R182). Arguments: `core`. -/
  | eventDelivery
  /-- A posted message or fault record reaches a mailbox. (R183). Arguments: `core`. -/
  | messageDelivery
  /-- With a record in the mailbox and h10 not live, h10 starts at TRAPPC. (R90). Arguments: `gid` the gang. -/
  | handlerStart
  /-- A TRET action reaches the named core and resumes or ends. (R91). Arguments: `core`, `ctx`. -/
  | tretActionArrival
  /-- A write to the monitored sector, or another reason, wakes a WAITM. (R139). Arguments: `core`, `ctx`, `index` the wake reason of Table 6-7. -/
  | monitorWake
  /-- Firmware's reply writes s1 and results and the context resumes. (R92). Arguments: `core`, `ctx`, `gid` the gang of the context. -/
  | syscReply
  /-- A timed wait's remainder reaches zero or TBASE reaches its operand. (R184). Arguments: `core`, `ctx`. -/
  | waittExpiry
  /-- The engine places a level's formula tasks after fetching their footprints. (R293). Arguments: `part`. -/
  | formulaTaskPlacement
  /-- A formula gang ends, making its cell RECOMPUTED or aborting the wave. (R295). Arguments: `gid` the gang. -/
  | formulaTaskEnd
  /-- A sealed wave whose members are all RECOMPUTED flips as one event. (R296). Arguments: `part`. -/
  | waveFlip
  /-- A failed formula task ends its wave without flipping. (R303). Arguments: `part`. -/
  | waveAbort
  /-- At a block's end the CRC is compared with its .sig entry, raising SIGMISMATCH on difference. (R368). Arguments: `core`. -/
  | signatureCheck
  /-- A consumed error in a restartable superstep restores the undo log and reruns it. (R364). Arguments: `gid` the gang. -/
  | rollback
  /-- At each test interval a cluster is taken out, self-tested and returned or retired. (R370). Arguments: `yes` when the cluster passes its self-test. -/
  | inFieldTest
  /-- An error no gang owns stops the package and writes the dump. (R371). Arguments: `count` the package cluster number of an error within one unit, with `word`[31:0] its CLASS and CODE; else `index` the cause of R371, from 1. -/
  | fatalError
  /-- The standby complex takes over when the active fails its 1 ms watchdog. (R376). -/
  | watchdogTakeover
  /-- A GO write verifies a firmware image and switches complexes. (R377). -/
  | liveUpdate
  /-- A PST write selects RUN, CAPPED or STANDBY. (R378). Arguments: `word` the value written at offset 0x60 of the service block, `count` what the hottest die sensor reads (TMAX). -/
  | powerStateWrite
  /-- Every 10 ms the CAPPED clock is set anew. (R379). Arguments: `count` the metered package power in W averaged over the window. -/
  | capWindow
  /-- A die sensor at 105 °C stops the arithmetic clock on all dies. (R380). Arguments: `count` what the hottest die sensor reads (TMAX). -/
  | thermalTrip
  /-- Every 1 ms the interval's energy is attributed to the counters. (R383). Arguments: `meters` what the meters and event counters give for the interval, and a new table of weights. -/
  | energySample
  /-- Every 100 ms the energy counters are checkpointed. (R382). -/
  | energyCheckpoint
  /-- EREQ with EKIND 0 writes a signed energy reading. (R385). -/
  | signedReading
  /-- EREQ with EKIND 1 writes a signed attestation report. (R386). -/
  | attestationReport
  /-- A new OWNER value starts a change of owner of the whole partition. (R350). Arguments: `part`, `word` the new OWNER. -/
  | partitionOwnerWrite
  /-- A CLU write adding or removing a cluster changes that cluster's owner. (R339). Arguments: `part`, `die`, `word` the new CLU mask. -/
  | partitionClusterWrite
  /-- A device reset ends the reset epoch and starts a new one. (R4). Arguments: `yes` when the reset is an orderly one. -/
  | deviceReset
  /-- A slot whose parity fails, whose word decodes as ILLEGAL, or whose line faults on fetch raises a precise fault on that slot and has no effect. (R71). Arguments: `core`, `ctx`. -/
  | fetchFault
  /-- When the data lanes of a sub-channel fail, firmware marks it failed; gang words then treat its bytes as erasures, and its pages are retired and migrated. (R314). Arguments: `die`, `index` the gang group, `count` the sub-channel whose data lanes failed. -/
  | failedSubChannelMark
  /-- IEEE 1588 messages over Ridgeline and PCI Express Precision Time Measurement from the host adjust the package time base TBASE. (R280). Arguments: `word` the adjusted time in the TBASE format. -/
  | tbaseDiscipline
  deriving DecidableEq, Repr

end Sys2Proof
end

