-- ==== Sys2Proof/Decode.lean ====
section
/-! DEFINITION. Decoding, total on any bytes and rejecting by name, and the encoder: the field layouts of R60 to
R65, the codes of R66 to R69, the opcode map of R70 and the fates of R71. -/

namespace Sys2Proof

/-! The fields of a word (Tables 3-3 to 3-6). -/

/-- OPC, bits [95:86] (Table 3-3). -/
def wOpc (w : IWord) : BitVec 10 := w.extractLsb' 86 10
/-- VAR, bits [81:80] (Table 3-3). -/
def wVar (w : IWord) : BitVec 2 := w.extractLsb' 80 2

/-- The fields of a format Q word; none when bits [34:0] are not zero (R62). -/
def FQ.of (w : IWord) : Option FQ :=
  if w.extractLsb' 0 35 == 0 then
    some { g := w.extractLsb' 83 3, gn := w.extractLsb' 82 1, var := wVar w,
           d := w.extractLsb' 72 8, a := w.extractLsb' 64 8, b := w.extractLsb' 56 8, c := w.extractLsb' 48 8,
           t1 := w.extractLsb' 44 4, t2 := w.extractLsb' 40 4, rm := w.extractLsb' 38 2,
           sat := w.extractLsb' 37 1, na := w.extractLsb' 36 1, nc := w.extractLsb' 35 1 }
  else none

/-- The fields of a vector word, format Q or I (R65); none when bits [34:32] are not zero (R62, R63). -/
def FV.of (w : IWord) : Option FV :=
  if w.extractLsb' 32 3 == 0 then
    some { g := w.extractLsb' 83 3, gn := w.extractLsb' 82 1, var := wVar w,
           d := w.extractLsb' 72 8, a := w.extractLsb' 64 8, b := w.extractLsb' 56 8, c := w.extractLsb' 48 8,
           t1 := w.extractLsb' 44 4, t2 := w.extractLsb' 40 4, rm := w.extractLsb' 38 2,
           sat := w.extractLsb' 37 1, na := w.extractLsb' 36 1, nc := w.extractLsb' 35 1,
           imm := w.extractLsb' 0 32 }
  else none

/-- The fields of a format I word; none when bits [55:48] are not zero (R62). -/
def FI.of (w : IWord) : Option FI :=
  if w.extractLsb' 48 8 == 0 then
    some { g := w.extractLsb' 83 3, gn := w.extractLsb' 82 1, var := wVar w,
           d := w.extractLsb' 72 8, a := w.extractLsb' 64 8, b := w.extractLsb' 56 8,
           t1 := w.extractLsb' 44 4, t2 := w.extractLsb' 40 4, sh := w.extractLsb' 32 8,
           imm := w.extractLsb' 0 32 }
  else none

/-- The fields of a format T word; none when C or bits [31:0] are not zero (R62, R143). -/
def FT.of (w : IWord) : Option FT :=
  if w.extractLsb' 48 8 == 0 && w.extractLsb' 0 32 == 0 then
    some { g := w.extractLsb' 83 3, gn := w.extractLsb' 82 1, var := wVar w,
           d := w.extractLsb' 72 8, a := w.extractLsb' 64 8, b := w.extractLsb' 56 8,
           ta := w.extractLsb' 44 4, tb := w.extractLsb' 40 4, tc := w.extractLsb' 36 4, kb := w.extractLsb' 32 4 }
  else none

/-- The fields of a format E word. -/
def FE.of (w : IWord) : Option FE :=
  some { g := w.extractLsb' 83 3, gn := w.extractLsb' 82 1, var := wVar w,
         d := w.extractLsb' 72 8, a := w.extractLsb' 64 8, b := w.extractLsb' 56 8, c := w.extractLsb' 48 8,
         sub := w.extractLsb' 40 8, flg := w.extractLsb' 32 8, imm := w.extractLsb' 0 32 }

/-- The fields of a format M word; none when bits [36:32] are not zero (R62). -/
def FM.of (w : IWord) : Option FM :=
  if w.extractLsb' 32 5 == 0 then
    some { g := w.extractLsb' 83 3, gn := w.extractLsb' 82 1, var := wVar w,
           v := w.extractLsb' 72 8, base := w.extractLsb' 64 8, idx := w.extractLsb' 56 8,
           am := w.extractLsb' 53 3, w := w.extractLsb' 50 3, col := w.extractLsb' 47 3,
           scp := w.extractLsb' 44 3, vw := w.extractLsb' 42 2, ch := w.extractLsb' 40 2,
           shx := w.extractLsb' 37 3, disp := w.extractLsb' 0 32 }
  else none

/-- The fields of a format B word; none when bits [67:64] or [55:35] are not zero (R62). -/
def FB.of (w : IWord) : Option FB :=
  if w.extractLsb' 64 4 == 0 && w.extractLsb' 35 21 == 0 then
    some { g := w.extractLsb' 83 3, gn := w.extractLsb' 82 1, var := wVar w,
           c := w.extractLsb' 72 8, cc := w.extractLsb' 68 4, l := w.extractLsb' 56 8,
           tslot := w.extractLsb' 32 3, dline := w.extractLsb' 0 32 }
  else none

/-! The words of the formats, written from the same tables. -/

/-- The format Q word of an opcode. -/
def FQ.word (f : FQ) (opc : BitVec 10) : IWord :=
  opc ++ f.g ++ f.gn ++ f.var ++ f.d ++ f.a ++ f.b ++ f.c ++ f.t1 ++ f.t2 ++ f.rm ++ f.sat ++ f.na ++ f.nc ++ 0#35
/-- The vector word of an opcode. -/
def FV.word (f : FV) (opc : BitVec 10) : IWord :=
  opc ++ f.g ++ f.gn ++ f.var ++ f.d ++ f.a ++ f.b ++ f.c ++ f.t1 ++ f.t2 ++ f.rm ++ f.sat ++ f.na ++ f.nc ++ 0#3
    ++ f.imm
/-- The format I word of an opcode. -/
def FI.word (f : FI) (opc : BitVec 10) : IWord :=
  opc ++ f.g ++ f.gn ++ f.var ++ f.d ++ f.a ++ f.b ++ 0#8 ++ f.t1 ++ f.t2 ++ f.sh ++ f.imm
/-- The format T word of an opcode. -/
def FT.word (f : FT) (opc : BitVec 10) : IWord :=
  opc ++ f.g ++ f.gn ++ f.var ++ f.d ++ f.a ++ f.b ++ 0#8 ++ f.ta ++ f.tb ++ f.tc ++ f.kb ++ 0#32
/-- The format E word of an opcode. -/
def FE.word (f : FE) (opc : BitVec 10) : IWord :=
  opc ++ f.g ++ f.gn ++ f.var ++ f.d ++ f.a ++ f.b ++ f.c ++ f.sub ++ f.flg ++ f.imm
/-- The format M word of an opcode. -/
def FM.word (f : FM) (opc : BitVec 10) : IWord :=
  opc ++ f.g ++ f.gn ++ f.var ++ f.v ++ f.base ++ f.idx ++ f.am ++ f.w ++ f.col ++ f.scp ++ f.vw ++ f.ch ++ f.shx
    ++ 0#5 ++ f.disp
/-- The format B word of an opcode. -/
def FB.word (f : FB) (opc : BitVec 10) : IWord :=
  opc ++ f.g ++ f.gn ++ f.var ++ f.c ++ f.cc ++ 0#4 ++ f.l ++ 0#21 ++ f.tslot ++ f.dline

/-! The register classes of Table 1-3 (R17). -/

/-- s0 to s31. -/
def okS (r : BitVec 8) : Bool := r.toNat < 32
/-- a0 to a15. -/
def okA (r : BitVec 8) : Bool := 32 ≤ r.toNat && r.toNat < 48
/-- s or a. -/
def okSA (r : BitVec 8) : Bool := r.toNat < 48
/-- p0 to p7. -/
def okP (r : BitVec 8) : Bool := 48 ≤ r.toNat && r.toNat < 56
/-- k0 to k7. -/
def okK (r : BitVec 8) : Bool := 56 ≤ r.toNat && r.toNat < 64
/-- s, a or k (MOV, R78). -/
def okSAK (r : BitVec 8) : Bool := okSA r || okK r
/-- v0 to v31. -/
def okV (r : BitVec 8) : Bool := 64 ≤ r.toNat && r.toNat < 96
/-- t0 to t7. -/
def okT (r : BitVec 8) : Bool := 96 ≤ r.toNat && r.toNat < 104
/-- wm0 to wm7. -/
def okWM (r : BitVec 8) : Bool := 104 ≤ r.toNat && r.toNat < 112
/-- An a register, or 0 for none (R119, R174). -/
def okBase (r : BitVec 8) : Bool := okA r || r == 0

/-! The codes of the formats (R66 to R69). -/

/-- An integer lane type: int8 to int32, nat8 to nat32 (R98). -/
def okInt (t : BitVec 4) : Bool := t.toNat ≤ 2 || 4 ≤ t.toNat && t.toNat ≤ 6
/-- A binary float type: F32, BF16, F16, F8 (Table 3-9). -/
def okFloat (t : BitVec 4) : Bool := 8 ≤ t.toNat && t.toNat ≤ 11
/-- L8 or L6 (Table 3-9). -/
def okL (t : BitVec 4) : Bool := t == 12 || t == 13
/-- A type that a lane can hold (R98). -/
def okLaneType (t : BitVec 4) : Bool := okInt t || okFloat t || okL t
/-- SAT and T1 of the saturating integer forms (R76). -/
def okSat (sat : BitVec 1) (t1 : BitVec 4) : Bool :=
  sat == 0 && t1 == 0 || sat == 1 && (t1 == 3 || t1 == 7)
/-- T1 and CC of the scalar compares (R80). -/
def okCmp (t1 cc : BitVec 4) : Bool := (t1 == 2 || t1 == 3) && cc.toNat ≤ 9
/-- The control registers of Table 1-7. -/
def crNumbers : List Nat :=
  [0x000, 0x001, 0x002, 0x003, 0x004, 0x005, 0x006, 0x008, 0x020, 0x021, 0x022, 0x040, 0x041, 0x060, 0x070, 0x080]
/-- A control register number of Table 1-7 (R22). -/
def okCr (n : Nat) : Bool :=
  crNumbers.contains n || 0x010 ≤ n && n ≤ 0x017 || 0x030 ≤ n && n ≤ 0x033 || 0x071 ≤ n && n ≤ 0x074 ||
  0x100 ≤ n && n ≤ 0x12F
/-- The element bits of a type code (R20); 0 for a reserved code. -/
def typeBits (t : Nat) : Nat :=
  match t with
  | 0 | 4 | 11 | 12 => 8
  | 1 | 5 | 9 | 10 => 16
  | 2 | 6 | 8 => 32
  | 3 | 7 => 64
  | 13 => 6
  | _ => 0
/-- A tile shape in the layout of Table 1-6 that R20 calls legal. -/
def okShape (x : BitVec 32) : Bool :=
  let ty := (x.extractLsb' 16 4).toNat
  let r := (x.extractLsb' 8 7).toNat
  let c := (x.extractLsb' 0 7).toNat
  (x &&& 0xFFF08080#32) == 0 && ty < 14 && 1 ≤ r && r ≤ 64 && 1 ≤ c && c ≤ 64 && r * c * typeBits ty ≤ 32768
/-- The second operand of a vector form: a register under forms 00 and 01, IMM32 under form 10 (R65, R96). -/
def okVB (cls : BitVec 8 → Bool) (f : FV) : Bool :=
  if f.var == 0 then cls f.b && f.imm == 0 else if f.var == 1 then okSA f.b && f.imm == 0 else f.b == 0
/-- The third operand of a vector form: none under form 10 (R96). -/
def okVC (cls : BitVec 8 → Bool) (f : FV) : Bool := if f.var == 2 then f.c == 0 else cls f.c
/-- Scope and number of a barrier: .quad to .pod, a number only at .die, .pkg and .pod (R171). -/
def okBar (sub : BitVec 8) (imm : BitVec 32) : Bool :=
  1 ≤ sub.toNat && sub.toNat ≤ 6 && (if 4 ≤ sub.toNat then imm.toNat < 256 else imm == 0)
/-- A destination mode of a copy (R174). -/
def okDam (m : BitVec 4) : Bool := m.toNat < 4 || m == 5 || 8 ≤ m.toNat
/-- A source mode of a copy (R174). -/
def okSam (m : BitVec 4) : Bool := m.toNat < 4 || m == 5

/-! What each description admits in its fields. -/

/-- The fields of NOP. -/
def legalNop (f : FQ) : Bool :=
  f.var == 0 && f.d == 0 && f.a == 0 && f.b == 0 && f.c == 0 && f.t1 == 0 && f.t2 == 0 && f.rm == 0 &&
  f.sat == 0 && f.na == 0 && f.nc == 0

/-- The fields of ADD, SUB, MUL. -/
def legalAdd (f : FQ) : Bool :=
  f.var == 0 && f.c == 0 && f.t2 == 0 && f.rm == 0 && f.na == 0 && f.nc == 0 && okSA f.d && okSA f.a &&
  okSA f.b && okSat f.sat f.t1

/-- The fields of ADDI. -/
def legalAddi (f : FI) : Bool :=
  f.var == 0 && f.b == 0 && f.t2 == 0 && okSA f.d && okSA f.a && (f.sh &&& 0xDF#8) == 0 &&
  okSat (f.sh.extractLsb' 5 1) f.t1

/-- The fields of MULH, MULHU, DIV, DIVU, REM, REMU, AND, OR, XOR, ANDN, SHL, SHR, SRA, ROL, MIN, MAX, MINU, MAXU. -/
def legalMulh (f : FQ) : Bool :=
  f.var == 0 && f.c == 0 && f.t1 == 0 && f.t2 == 0 && f.rm == 0 && f.sat == 0 && f.na == 0 && f.nc == 0 &&
  okSA f.d && okSA f.a && okSA f.b

/-- The fields of ANDI, ORI, XORI. -/
def legalAndi (f : FI) : Bool :=
  f.var == 0 && f.b == 0 && f.t1 == 0 && f.t2 == 0 && f.sh == 0 && okSA f.d && okSA f.a

/-- The fields of SHLI, SHRI, SRAI, ROLI, SEXT, ZEXT. -/
def legalShli (f : FI) : Bool :=
  f.var == 0 && f.b == 0 && f.t1 == 0 && f.t2 == 0 && f.imm == 0 && okSA f.d && okSA f.a &&
  f.sh.toNat < 64

/-- The fields of CLZ, CTZ, POPC. -/
def legalClz (f : FQ) : Bool :=
  f.var == 0 && f.b == 0 && f.c == 0 && f.t1 == 0 && f.t2 == 0 && f.rm == 0 && f.sat == 0 && f.na == 0 &&
  f.nc == 0 && okSA f.d && okSA f.a

/-- The fields of BFX. -/
def legalBfx (f : FI) : Bool :=
  f.b == 0 && f.t1 == 0 && f.t2 == 0 && okSA f.d && okSA f.a && f.var.toNat < 2 && f.sh.toNat < 64 &&
  f.imm.toNat < 64 && f.sh.toNat + f.imm.toNat + 1 ≤ 64

/-- The fields of BFI. -/
def legalBfi (f : FI) : Bool :=
  f.var == 0 && f.b == 0 && f.t1 == 0 && f.t2 == 0 && okSA f.d && okSA f.a && f.sh.toNat < 64 &&
  f.imm.toNat < 64 && f.sh.toNat + f.imm.toNat + 1 ≤ 64

/-- The fields of SEL. -/
def legalSel (f : FQ) : Bool :=
  f.var == 0 && f.t1 == 0 && f.t2 == 0 && f.rm == 0 && f.sat == 0 && f.na == 0 && f.nc == 0 && okSA f.d &&
  okSA f.a && okSA f.b && okP f.c

/-- The fields of CMP. -/
def legalCmp (f : FQ) : Bool :=
  f.var == 0 && f.c == 0 && f.rm == 0 && f.sat == 0 && f.na == 0 && f.nc == 0 && okP f.d && okSA f.a &&
  okSA f.b && okCmp f.t1 f.t2

/-- The fields of CMPI. -/
def legalCmpi (f : FI) : Bool :=
  f.var == 0 && f.b == 0 && f.sh == 0 && okP f.d && okSA f.a && okCmp f.t1 f.t2

/-- The fields of LI, LIH. -/
def legalLi (f : FI) : Bool :=
  f.var == 0 && f.a == 0 && f.b == 0 && f.t1 == 0 && f.t2 == 0 && f.sh == 0 && okSA f.d

/-- The fields of MOV. -/
def legalMov (f : FQ) : Bool :=
  f.var == 0 && f.b == 0 && f.c == 0 && f.t1 == 0 && f.t2 == 0 && f.rm == 0 && f.sat == 0 && f.na == 0 &&
  f.nc == 0 && okSAK f.d && okSAK f.a

/-- The fields of AADD. -/
def legalAadd (f : FQ) : Bool :=
  f.var == 0 && f.c == 0 && f.t1 == 0 && f.t2 == 0 && f.rm == 0 && f.sat == 0 && f.nc == 0 && okA f.d &&
  okA f.a && okSA f.b

/-- The fields of AADDI. -/
def legalAaddi (f : FI) : Bool :=
  f.var == 0 && f.b == 0 && f.t1 == 0 && f.t2 == 0 && okA f.d && okA f.a && f.sh.toNat < 8

/-- The fields of MFC. -/
def legalMfc (f : FI) : Bool :=
  f.var == 0 && f.a == 0 && f.b == 0 && f.t1 == 0 && f.t2 == 0 && f.sh == 0 && okSA f.d &&
  f.imm.toNat < 4096

/-- The fields of MTC. -/
def legalMtc (f : FI) : Bool :=
  f.var == 0 && f.d == 0 && f.b == 0 && f.t1 == 0 && f.t2 == 0 && f.sh == 0 && okSA f.a &&
  f.imm.toNat < 4096

/-- The fields of PAND, POR, PXOR. -/
def legalPand (f : FQ) : Bool :=
  f.var == 0 && f.c == 0 && f.t1 == 0 && f.t2 == 0 && f.rm == 0 && f.sat == 0 && f.nc == 0 && okP f.d &&
  okP f.a && okP f.b

/-- The fields of PNOT. -/
def legalPnot (f : FQ) : Bool :=
  f.var == 0 && f.b == 0 && f.c == 0 && f.t1 == 0 && f.t2 == 0 && f.rm == 0 && f.sat == 0 && f.na == 0 &&
  f.nc == 0 && okP f.d && okP f.a

/-- The fields of BR. -/
def legalBr (f : FB) : Bool :=
  (okSA f.c && f.cc.toNat ≤ 9 || okP f.c && f.cc.toNat ≤ 1) && okS f.l

/-- The fields of J. -/
def legalJ (f : FB) : Bool :=
  f.c == 0 && f.cc == 0 && okS f.l

/-- The fields of JR. -/
def legalJr (f : FQ) : Bool :=
  f.var == 0 && f.b == 0 && f.c == 0 && f.t1 == 0 && f.t2 == 0 && f.rm == 0 && f.sat == 0 && f.na == 0 &&
  f.nc == 0 && okS f.d && okSA f.a

/-- The fields of LOOP. -/
def legalLoop (f : FB) : Bool :=
  okSA f.c && f.cc == 0 && f.l == 0

/-- The fields of TRAP. -/
def legalTrap (f : FI) : Bool :=
  f.var == 0 && f.d == 0 && f.a == 0 && f.b == 0 && f.t1 == 0 && f.t2 == 0 && f.sh == 0

/-- The fields of CHK. -/
def legalChk (f : FI) : Bool :=
  f.var == 0 && f.d == 0 && f.b == 0 && okSA f.a && okCmp f.t1 f.t2

/-- The fields of SYSC, HALT, YIELD. -/
def legalSysc (f : FI) : Bool :=
  f.var == 0 && f.d == 0 && f.a == 0 && f.b == 0 && f.t1 == 0 && f.t2 == 0 && f.sh == 0 &&
  f.imm.toNat < 65536

/-- The fields of TRET. -/
def legalTret (f : FI) : Bool :=
  f.var == 0 && f.b == 0 && f.t1 == 0 && f.t2 == 0 && f.sh == 0 && okS f.d && okSA f.a && f.imm.toNat < 3

/-- The fields of FENCE.I, FENCE.S. -/
def legalFencei (f : FI) : Bool :=
  f.var == 0 && f.d == 0 && f.a == 0 && f.b == 0 && f.t1 == 0 && f.t2 == 0 && f.sh == 0 && f.imm == 0

/-- The fields of VADD, VSUB, VMUL, VDIV. -/
def legalVadd (f : FV) : Bool :=
  (f.var == 0 || f.var == 1 || f.var == 2) && f.t2 == 0 && f.nc == 0 && okV f.d && okV f.a && okVB okV f &&
  f.c == 0 && f.t1 == 8

/-- The fields of VFMA, VFMS. -/
def legalVfma (f : FV) : Bool :=
  (f.var == 0 || f.var == 1 || f.var == 2) && f.t2 == 0 && okV f.d && okV f.a && okVB okV f && okVC okV f &&
  f.t1 == 8

/-- The fields of VSQRT, VRCPE, VRSQE, VEXP2, VLOG2. -/
def legalVsqrt (f : FV) : Bool :=
  (f.var == 0) && f.t2 == 0 && f.na == 0 && f.nc == 0 && okV f.d && okV f.a && f.b == 0 && f.imm == 0 &&
  f.c == 0 && f.t1 == 8

/-- The fields of VMIN, VMAX. -/
def legalVmin (f : FV) : Bool :=
  (f.var == 0 || f.var == 1 || f.var == 2) && f.t2 == 0 && f.rm == 0 && f.sat == 0 && f.nc == 0 && okV f.d &&
  okV f.a && okVB okV f && f.c == 0 && f.t1 == 8

/-- The fields of VABS, VNEG. -/
def legalVabs (f : FV) : Bool :=
  (f.var == 0 || f.var == 1 || f.var == 2) && f.t2 == 0 && f.rm == 0 && f.sat == 0 && f.na == 0 &&
  f.nc == 0 && okV f.d && f.a == 0 && okVB okV f && f.c == 0 && f.t1 == 8

/-- The fields of VCMP. -/
def legalVcmp (f : FV) : Bool :=
  (f.var == 0 || f.var == 1 || f.var == 2) && f.rm == 0 && f.sat == 0 && f.na == 0 && f.nc == 0 && okK f.d &&
  okV f.a && okVB okV f && f.c == 0 && (okInt f.t1 && f.t2.toNat ≤ 9 || okFloat f.t1 && f.t2.toNat ≤ 11)

/-- The fields of VSEL. -/
def legalVsel (f : FV) : Bool :=
  (f.var == 0 || f.var == 1) && f.t1 == 0 && f.t2 == 0 && f.rm == 0 && f.sat == 0 && f.na == 0 &&
  f.nc == 0 && okV f.d && okV f.a && okVB okV f && okVC okK f

/-- The fields of VCVT. -/
def legalVcvt (f : FV) : Bool :=
  (f.var == 0) && f.na == 0 && f.nc == 0 && okV f.d && okV f.a && f.b == 0 && f.imm == 0 && f.c == 0 &&
  okLaneType f.t1 && okLaneType f.t2

/-- The fields of VIADD, VISUB, VIMUL. -/
def legalViadd (f : FV) : Bool :=
  (f.var == 0 || f.var == 1 || f.var == 2) && f.t2 == 0 && f.rm == 0 && f.na == 0 && f.nc == 0 && okV f.d &&
  okV f.a && okVB okV f && f.c == 0 && okInt f.t1

/-- The fields of VIMAD. -/
def legalVimad (f : FV) : Bool :=
  (f.var == 0 || f.var == 1 || f.var == 2) && f.t2 == 0 && f.rm == 0 && f.na == 0 && f.nc == 0 && okV f.d &&
  okV f.a && okVB okV f && okVC okV f && okInt f.t1

/-- The fields of VIMIN, VIMAX, VSHL, VSHR. -/
def legalVimin (f : FV) : Bool :=
  (f.var == 0 || f.var == 1 || f.var == 2) && f.t2 == 0 && f.rm == 0 && f.sat == 0 && f.na == 0 &&
  f.nc == 0 && okV f.d && okV f.a && okVB okV f && f.c == 0 && okInt f.t1

/-- The fields of VAND, VOR, VXOR, VPERM. -/
def legalVand (f : FV) : Bool :=
  (f.var == 0 || f.var == 1 || f.var == 2) && f.t1 == 0 && f.t2 == 0 && f.rm == 0 && f.sat == 0 &&
  f.na == 0 && f.nc == 0 && okV f.d && okV f.a && okVB okV f && f.c == 0

/-- The fields of VSRA. -/
def legalVsra (f : FV) : Bool :=
  (f.var == 0 || f.var == 1 || f.var == 2) && f.t2 == 0 && f.rm == 0 && f.sat == 0 && f.na == 0 &&
  f.nc == 0 && okV f.d && okV f.a && okVB okV f && f.c == 0 && f.t1.toNat ≤ 2

/-- The fields of VCLASS. -/
def legalVclass (f : FV) : Bool :=
  (f.var == 0) && f.t2 == 0 && f.rm == 0 && f.sat == 0 && f.na == 0 && f.nc == 0 && okV f.d && okV f.a &&
  f.b == 0 && f.imm == 0 && f.c == 0 && okFloat f.t1

/-- The fields of VMOVV. -/
def legalVmovv (f : FV) : Bool :=
  (f.var == 0 || f.var == 1 || f.var == 2) && f.t1 == 0 && f.t2 == 0 && f.rm == 0 && f.sat == 0 &&
  f.na == 0 && f.nc == 0 && okV f.d && f.a == 0 && okVB okV f && f.c == 0

/-- The fields of VRSUM, VRMAX, VRMIN. -/
def legalVrsum (f : FV) : Bool :=
  (f.var == 0) && f.t2 == 0 && f.sat == 0 && f.na == 0 && f.nc == 0 && okSA f.d && okV f.a && f.b == 0 &&
  f.imm == 0 && f.c == 0 && f.t1 == 8

/-- The fields of VSCAN. -/
def legalVscan (f : FV) : Bool :=
  (f.var == 0) && f.t2 == 0 && f.sat == 0 && f.na == 0 && f.nc == 0 && okV f.d && okV f.a && f.b == 0 &&
  f.imm == 0 && f.c == 0 && f.t1 == 8

/-- The fields of VBCAST, VSLIDE. -/
def legalVbcast (f : FV) : Bool :=
  (f.var == 1 || f.var == 2) && f.t1 == 0 && f.t2 == 0 && f.rm == 0 && f.sat == 0 && f.na == 0 &&
  f.nc == 0 && okV f.d && okV f.a && okVB okV f && f.c == 0

/-- The fields of VCOMP, VEXPD. -/
def legalVcomp (f : FV) : Bool :=
  (f.var == 0) && f.t1 == 0 && f.t2 == 0 && f.rm == 0 && f.sat == 0 && f.na == 0 && f.nc == 0 && okV f.d &&
  okV f.a && f.b == 0 && f.imm == 0 && okVC okK f

/-- The fields of VIOTA. -/
def legalViota (f : FV) : Bool :=
  (f.var == 0) && f.t1 == 0 && f.t2 == 0 && f.rm == 0 && f.sat == 0 && f.na == 0 && f.nc == 0 && okV f.d &&
  f.a == 0 && f.b == 0 && f.imm == 0 && okVC okK f

/-- The fields of VGETL. -/
def legalVgetl (f : FV) : Bool :=
  (f.var == 1 || f.var == 2) && f.t1 == 0 && f.t2 == 0 && f.rm == 0 && f.sat == 0 && f.na == 0 &&
  f.nc == 0 && okSA f.d && okV f.a && okVB okV f && f.c == 0

/-- The fields of VSETL. -/
def legalVsetl (f : FV) : Bool :=
  (f.var == 1 || f.var == 2) && f.t1 == 0 && f.t2 == 0 && f.rm == 0 && f.sat == 0 && f.na == 0 &&
  f.nc == 0 && okV f.d && okSA f.a && okVB okV f && f.c == 0

/-- The fields of KPOPC, KFIRST. -/
def legalKpopc (f : FV) : Bool :=
  (f.var == 0) && f.t1 == 0 && f.t2 == 0 && f.rm == 0 && f.sat == 0 && f.na == 0 && f.nc == 0 && okSA f.d &&
  okK f.a && f.b == 0 && f.imm == 0 && f.c == 0

/-- The fields of KAND, KOR, KXOR. -/
def legalKand (f : FV) : Bool :=
  (f.var == 0 || f.var == 1 || f.var == 2) && f.t1 == 0 && f.t2 == 0 && f.rm == 0 && f.sat == 0 &&
  f.nc == 0 && okK f.d && okK f.a && okVB okK f && f.c == 0

/-- The fields of KNOT. -/
def legalKnot (f : FV) : Bool :=
  (f.var == 0) && f.t1 == 0 && f.t2 == 0 && f.rm == 0 && f.sat == 0 && f.na == 0 && f.nc == 0 && okK f.d &&
  okK f.a && f.b == 0 && f.imm == 0 && f.c == 0

/-- The fields of KMOV. -/
def legalKmov (f : FV) : Bool :=
  (f.var == 0 || f.var == 1 || f.var == 2) && f.t1 == 0 && f.t2 == 0 && f.rm == 0 && f.sat == 0 &&
  f.na == 0 && f.nc == 0 && okK f.d && f.a == 0 && okVB okK f && f.c == 0

/-- The fields of VNSEND. -/
def legalVnsend (f : FV) : Bool :=
  (f.var == 2) && f.t1 == 0 && f.t2 == 0 && f.rm == 0 && f.sat == 0 && f.na == 0 && f.nc == 0 && f.d == 0 &&
  okV f.a && okVB okV f && f.c == 0 && f.imm.toNat < 4

/-- The fields of VNRECV. -/
def legalVnrecv (f : FV) : Bool :=
  (f.var == 2) && f.t1 == 0 && f.t2 == 0 && f.rm == 0 && f.sat == 0 && f.na == 0 && f.nc == 0 && okV f.d &&
  f.a == 0 && okVB okV f && f.c == 0 && f.imm.toNat < 4

/-- The fields of VLMUL. -/
def legalVlmul (f : FV) : Bool :=
  (f.var == 0 || f.var == 1 || f.var == 2) && f.t2 == 0 && f.rm == 0 && f.sat == 0 && f.na == 0 &&
  f.nc == 0 && okV f.d && okV f.a && okVB okV f && f.c == 0 && okL f.t1

/-- The fields of VLSUM. -/
def legalVlsum (f : FV) : Bool :=
  (f.var == 0) && f.t2 == 0 && f.rm == 0 && f.sat == 0 && f.na == 0 && f.nc == 0 && okSA f.d && okV f.a &&
  f.b == 0 && f.imm == 0 && f.c == 0 && okL f.t1

/-- The fields of VLPACK, VLUNPK. -/
def legalVlpack (f : FV) : Bool :=
  (f.var == 0) && f.t2 == 0 && f.rm == 0 && f.sat == 0 && f.na == 0 && f.nc == 0 && okV f.d && okV f.a &&
  f.b == 0 && f.imm == 0 && f.c == 0 && okL f.t1

/-- The fields of LD. -/
def legalLd (f : FM) : Bool :=
  okSA f.v && okBase f.base && okSA f.idx && [0, 1, 2, 3, 5, 6].contains f.am.toNat &&
  [0, 1, 2, 3].contains f.w.toNat && f.var.toNat < 2 && f.col == 0 && f.scp == 0 &&
  (f.vw == 0 || f.am == 6 && f.vw == 1)

/-- The fields of ST. -/
def legalSt (f : FM) : Bool :=
  okSA f.v && okBase f.base && okSA f.idx && [0, 1, 2, 3, 5, 6].contains f.am.toNat &&
  [0, 1, 2, 3].contains f.w.toNat && f.var == 0 && f.scp == 0 && f.vw == 0

/-- The fields of LDV. -/
def legalLdv (f : FM) : Bool :=
  okV f.v && okBase f.base && okSA f.idx && [0, 1, 2, 3, 4, 5, 6].contains f.am.toNat &&
  [0, 1, 2, 4, 5].contains f.w.toNat && f.var == 0 && f.col == 0 && f.scp == 0 && (f.vw == 0 || f.am == 6 &&
  f.vw == 1) && (if f.am == 4 then f.w.toNat ≤ 2 else f.w == 4 || f.w == 5)

/-- The fields of STV. -/
def legalStv (f : FM) : Bool :=
  okV f.v && okBase f.base && okSA f.idx && [0, 1, 2, 3, 4, 5, 6].contains f.am.toNat &&
  [0, 1, 2, 4, 5].contains f.w.toNat && f.var == 0 && f.scp == 0 && f.vw == 0 &&
  (if f.am == 4 then f.w.toNat ≤ 2 else f.w == 4 || f.w == 5)

/-- The fields of LDVS. -/
def legalLdvs (f : FM) : Bool :=
  okV f.v && okBase f.base && okSA f.idx && [0, 1, 2, 3, 5, 6].contains f.am.toNat &&
  [0, 1, 2].contains f.w.toNat && f.var == 0 && f.col == 0 && f.scp == 0 && (f.vw == 0 || f.am == 6 &&
  f.vw == 1)

/-- The fields of STVS. -/
def legalStvs (f : FM) : Bool :=
  okV f.v && okBase f.base && okSA f.idx && [0, 1, 2, 3, 5, 6].contains f.am.toNat &&
  [0, 1, 2].contains f.w.toNat && f.var == 0 && f.scp == 0 && f.vw == 0

/-- The fields of LDVX. -/
def legalLdvx (f : FM) : Bool :=
  okV f.v && okBase f.base && okV f.idx && [0, 1, 2, 3, 4, 5, 6].contains f.am.toNat &&
  [0, 1, 2].contains f.w.toNat && f.var == 0 && f.col == 0 && f.scp == 0 && (f.vw == 0 || f.am == 6 &&
  f.vw == 1)

/-- The fields of STVX. -/
def legalStvx (f : FM) : Bool :=
  okV f.v && okBase f.base && okV f.idx && [0, 1, 2, 3, 4, 5, 6].contains f.am.toNat &&
  [0, 1, 2].contains f.w.toNat && f.var == 0 && f.scp == 0 && f.vw == 0

/-- The fields of LDK. -/
def legalLdk (f : FM) : Bool :=
  okK f.v && okBase f.base && okSA f.idx && [0, 1, 2, 3, 5].contains f.am.toNat && [3].contains f.w.toNat &&
  f.var == 0 && f.col == 0 && f.scp == 0 && f.vw == 0

/-- The fields of STK. -/
def legalStk (f : FM) : Bool :=
  okK f.v && okBase f.base && okSA f.idx && [0, 1, 2, 3, 5].contains f.am.toNat && [3].contains f.w.toNat &&
  f.var == 0 && f.scp == 0 && f.vw == 0

/-- The fields of LDA. -/
def legalLda (f : FM) : Bool :=
  okSA f.v && okBase f.base && okSA f.idx && [0, 1, 2, 3, 5].contains f.am.toNat &&
  [0, 1, 2, 3].contains f.w.toNat && f.var.toNat < 2 && f.col == 0 && f.vw == 0

/-- The fields of STRL. -/
def legalStrl (f : FM) : Bool :=
  okSA f.v && okBase f.base && okSA f.idx && [0, 1, 2, 3, 5].contains f.am.toNat &&
  [0, 1, 2, 3].contains f.w.toNat && f.var == 0 && f.vw == 0

/-- The fields of PREF. -/
def legalPref (f : FM) : Bool :=
  f.v == 0 && okBase f.base && okSA f.idx && [0].contains f.am.toNat && [0].contains f.w.toNat &&
  f.var == 0 && f.col == 0 && f.scp == 0 && f.vw == 0

/-- The fields of AMOADD, AMOMIN, AMOMAX, AMOMINU, AMOMAXU, AMOAND, AMOOR, AMOXOR, AMOSWP, AMOCAS. -/
def legalAmoadd (f : FM) : Bool :=
  okSA f.v && okBase f.base && okSA f.idx && [0, 1, 2, 3, 5].contains f.am.toNat &&
  [2, 3].contains f.w.toNat && true && f.vw == 0 && f.shx == 0 && (f.am != 3 || f.w == 2)

/-- The fields of AMOFADD. -/
def legalAmofadd (f : FM) : Bool :=
  okSA f.v && okBase f.base && okSA f.idx && [0, 1, 2, 3, 5].contains f.am.toNat && [2].contains f.w.toNat &&
  true && f.vw == 0 && f.shx == 0

/-- The fields of FENCE. -/
def legalFence (f : FI) : Bool :=
  f.d == 0 && f.a == 0 && f.b == 0 && f.t1 == 0 && f.t2 == 0 && f.sh == 0 && f.var.toNat < 3 &&
  f.imm.toNat < 2048

/-- The fields of CMO. -/
def legalCmo (f : FM) : Bool :=
  f.v == 0 && okBase f.base && okSA f.idx && [0].contains f.am.toNat && [0].contains f.w.toNat && true &&
  f.vw == 0 && f.shx == 0 && (f.var == 3 || f.col == 0) && (f.var == 0 || f.var == 2 || f.scp == 0)

/-- The fields of WAITM. -/
def legalWaitm (f : FM) : Bool :=
  okSA f.v && okBase f.base && okSA f.idx && [0, 1, 2, 3, 5].contains f.am.toNat &&
  [0, 1, 2, 3].contains f.w.toNat && f.var.toNat < 2 && f.col == 0 && f.scp == 0 && f.vw == 0 &&
  f.shx == 0 && (f.var == 1 || f.idx == 0)

/-- The fields of LDSEC. -/
def legalLdsec (f : FM) : Bool :=
  okV f.v && okBase f.base && f.idx == 0 && [0, 1, 2, 5, 6].contains f.am.toNat && [6].contains f.w.toNat &&
  f.var == 0 && f.col == 0 && f.scp == 0 && (f.vw == 0 || f.am == 6 && f.vw == 1) && f.shx == 0

/-- The fields of STSEC. -/
def legalStsec (f : FM) : Bool :=
  okV f.v && okBase f.base && okSA f.idx && [0, 1, 2, 5, 6].contains f.am.toNat && [6].contains f.w.toNat &&
  f.var == 0 && f.scp == 0 && f.vw == 0 && f.shx == 0

/-- The fields of TSET. -/
def legalTset (f : FI) : Bool :=
  f.var == 0 && f.a == 0 && f.b == 0 && f.t1 == 0 && f.t2 == 0 && f.sh == 0 && okT f.d && okShape f.imm

/-- The fields of TGET. -/
def legalTget (f : FI) : Bool :=
  f.var == 0 && f.b == 0 && f.t1 == 0 && f.t2 == 0 && f.sh == 0 && f.imm == 0 && okSA f.d && okT f.a

/-- The fields of TLD. -/
def legalTld (f : FM) : Bool :=
  okT f.v && okBase f.base && okSA f.idx && [0, 1, 2, 3, 5, 6].contains f.am.toNat &&
  [0].contains f.w.toNat && f.var == 0 && f.col == 0 && f.scp == 0 && (f.vw == 0 || f.am == 6 &&
  f.vw == 1) && f.ch == 0

/-- The fields of TST. -/
def legalTst (f : FM) : Bool :=
  okT f.v && okBase f.base && okSA f.idx && [0, 1, 2, 3, 5, 6].contains f.am.toNat &&
  [0].contains f.w.toNat && f.var == 0 && f.scp == 0 && f.vw == 0 && f.ch == 0

/-- The fields of TZERO. -/
def legalTzero (f : FT) : Bool :=
  f.var == 0 && f.a == 0 && f.b == 0 && f.ta == 0 && f.tb == 0 && f.tc == 0 && f.kb == 0 && okT f.d

/-- The fields of TMOV. -/
def legalTmov (f : FT) : Bool :=
  f.var == 0 && f.b == 0 && f.ta == 0 && f.tb == 0 && f.tc == 0 && f.kb == 0 && okT f.d && okT f.a

/-- The fields of GISSUE, HEND, XEND. -/
def legalGissue (f : FE) : Bool :=
  f.var == 0 && f.d == 0 && f.a == 0 && f.b == 0 && f.c == 0 && f.sub == 0 && f.flg == 0 && f.imm == 0

/-- The fields of TMMA. -/
def legalTmma (f : FT) : Bool :=
  okT f.d && okT f.a && okT f.b && f.var.toNat < 2 && f.ta == f.tb && 9 ≤ f.ta.toNat && f.ta.toNat ≤ 11 &&
  f.tc == 8 && f.kb.toNat ≤ 8

/-- The fields of TMMAL. -/
def legalTmmal (f : FT) : Bool :=
  okT f.d && okT f.a && okT f.b && f.var.toNat < 2 && f.ta == f.tb && okL f.ta && f.tc == 8 &&
  f.kb.toNat ≤ 8

/-- The fields of TSCALE. -/
def legalTscale (f : FT) : Bool :=
  f.kb == 0 && okT f.d && okT f.a && okV f.b && f.var.toNat < 2 && f.ta == 8 && f.tb == 8 && f.tc == 8

/-- The fields of TADD, TMUL. -/
def legalTadd (f : FT) : Bool :=
  f.kb == 0 && okT f.d && okT f.a && okT f.b && okFloat f.ta && f.tb == f.ta && f.tc == f.ta

/-- The fields of TCVT. -/
def legalTcvt (f : FT) : Bool :=
  f.b == 0 && f.tb == 0 && f.kb == 0 && okT f.d && okT f.a && f.ta.toNat < 14 && f.tc.toNat < 14

/-- The fields of TTRANS. -/
def legalTtrans (f : FT) : Bool :=
  f.var == 0 && f.b == 0 && f.tb == 0 && f.kb == 0 && okT f.d && okT f.a && f.ta == f.tc &&
  f.ta.toNat < 14

/-- The fields of TRSUM, TRMAX. -/
def legalTrsum (f : FT) : Bool :=
  f.var == 0 && f.b == 0 && f.tb == 0 && f.tc == 0 && f.kb == 0 && okV f.d && okT f.a && f.ta == 8

/-- The fields of TV2T. -/
def legalTv2t (f : FT) : Bool :=
  f.var == 0 && f.ta == 0 && f.tb == 0 && f.kb == 0 && okT f.d && okV f.a && okSA f.b && f.tc.toNat < 14

/-- The fields of TT2V. -/
def legalTt2v (f : FT) : Bool :=
  f.var == 0 && f.tb == 0 && f.tc == 0 && f.kb == 0 && okV f.d && okT f.a && okSA f.b && f.ta.toNat < 14

/-- The fields of TBCST. -/
def legalTbcst (f : FT) : Bool :=
  f.b == 0 && f.ta == 0 && f.tb == 0 && f.kb == 0 && okT f.d && okV f.a && f.var.toNat < 2 &&
  f.tc.toNat < 14

/-- The fields of TSTAT. -/
def legalTstat (f : FI) : Bool :=
  f.var == 0 && f.a == 0 && f.b == 0 && f.t1 == 0 && f.t2 == 0 && f.sh == 0 && f.imm == 0 && okSA f.d

/-- The fields of HSTART. -/
def legalHstart (f : FE) : Bool :=
  f.var == 0 && f.a == 0 && f.c == 0 && okSA f.d && okSA f.b && f.sub.toNat < 8 && f.flg.toNat ≤ 11

/-- The fields of HJOIN. -/
def legalHjoin (f : FE) : Bool :=
  f.var == 0 && f.a == 0 && f.b == 0 && f.c == 0 && f.sub == 0 && f.flg == 0 && okSA f.d &&
  (f.imm &&& 0xFFFFF801#32) == 0

/-- The fields of HSTAT. -/
def legalHstat (f : FE) : Bool :=
  f.var == 0 && f.a == 0 && f.b == 0 && f.c == 0 && f.sub == 0 && f.flg == 0 && okSA f.d &&
  1 ≤ f.imm.toNat && f.imm.toNat ≤ 11

/-- The fields of GDETACH. -/
def legalGdetach (f : FE) : Bool :=
  f.a == 0 && f.b == 0 && f.c == 0 && f.flg == 0 && okSA f.d && f.var.toNat < 2 && f.sub.toNat < 8 &&
  (f.var == 0 || f.sub == 0 && f.imm == 0)

/-- The fields of GATTACH. -/
def legalGattach (f : FE) : Bool :=
  f.var == 0 && f.a == 0 && f.b == 0 && f.c == 0 && f.sub == 0 && f.flg == 0 && okSA f.d &&
  f.imm.toNat < 65536

/-- The fields of GMERGE, XPH. -/
def legalGmerge (f : FE) : Bool :=
  f.var == 0 && f.d == 0 && f.a == 0 && f.b == 0 && f.c == 0 && f.sub == 0 && f.flg == 0 &&
  f.imm.toNat < 65536

/-- The fields of BARW, BARA. -/
def legalBarw (f : FE) : Bool :=
  f.var == 0 && f.d == 0 && f.a == 0 && f.b == 0 && f.c == 0 && f.flg == 0 && okBar f.sub f.imm

/-- The fields of BARQ. -/
def legalBarq (f : FE) : Bool :=
  f.a == 0 && f.b == 0 && f.c == 0 && f.flg == 0 && okSA f.d && f.var.toNat < 2 && okBar f.sub f.imm

/-- The fields of XSEND. -/
def legalXsend (f : FE) : Bool :=
  f.var == 0 && f.d == 0 && f.b == 0 && f.c == 0 && f.sub == 0 && f.flg == 0 && okSA f.a &&
  f.imm.toNat < 1024

/-- The fields of XMUX. -/
def legalXmux (f : FE) : Bool :=
  f.var == 0 && f.a == 0 && f.b == 0 && f.c == 0 && f.sub == 0 && okSA f.d && f.imm.toNat < 1024

/-- The fields of CPY. -/
def legalCpy (f : FE) : Bool :=
  f.var == 0 && okBase f.d && okA f.a && okA f.b && okS f.c && f.imm.toNat < 65536 && f.imm != 0 &&
  f.flg.toNat < 8 && okDam (f.sub.extractLsb' 4 4) && okSam (f.sub.extractLsb' 0 4)

/-- The fields of CPYN. -/
def legalCpyn (f : FE) : Bool :=
  f.var == 0 && f.b == 0 && f.c == 0 && f.sub == 0 && okBase f.d && okA f.a && f.imm.toNat < 65536 &&
  f.imm != 0 && f.flg.toNat < 8

/-- The fields of CPYC, CPYR. -/
def legalCpyc (f : FE) : Bool :=
  f.var == 0 && f.a == 0 && f.b == 0 && f.c == 0 && f.sub == 0 && f.flg == 0 && okSA f.d &&
  f.imm.toNat < 65536 && f.imm != 0

/-- The fields of CPYCMB. -/
def legalCpycmb (f : FE) : Bool :=
  okBase f.d && okA f.a && okA f.b && okS f.c && f.var.toNat < 3 && f.imm.extractLsb' 0 16 != 0 &&
  2 ≤ (f.imm.extractLsb' 16 16).toNat && f.flg.toNat < 8 && f.sub.extractLsb' 4 4 == 0 &&
  okSam (f.sub.extractLsb' 0 4)

/-- The fields of WMSET. -/
def legalWmset (f : FE) : Bool :=
  f.var == 0 && f.a == 0 && f.b == 0 && f.c == 0 && f.sub == 0 && f.flg == 0 && okWM f.d &&
  f.imm.toNat < 65536

/-- The fields of WMCLR. -/
def legalWmclr (f : FE) : Bool :=
  f.var == 0 && f.a == 0 && f.b == 0 && f.c == 0 && f.sub == 0 && f.flg == 0 && f.imm == 0 && okWM f.d

/-- The fields of WMRD. -/
def legalWmrd (f : FE) : Bool :=
  f.b == 0 && f.c == 0 && f.sub == 0 && f.flg == 0 && f.imm == 0 && okSA f.d && okWM f.a &&
  f.var.toNat < 2

/-- The fields of CRWAIT, TQPUT. -/
def legalCrwait (f : FE) : Bool :=
  f.var == 0 && f.b == 0 && f.c == 0 && f.sub == 0 && f.flg == 0 && f.imm == 0 && okSA f.d && okA f.a

/-- The fields of CRPOP. -/
def legalCrpop (f : FE) : Bool :=
  f.var == 0 && f.c == 0 && f.sub == 0 && f.flg == 0 && f.imm == 0 && okSA f.d && okA f.a && okA f.b

/-- The fields of CBINIT. -/
def legalCbinit (f : FE) : Bool :=
  f.var == 0 && f.d == 0 && f.c == 0 && f.sub == 0 && f.flg == 0 && okA f.a && okSA f.b &&
  f.imm.toNat < 65536 && (f.imm &&& 0xF8#32) == 0 && f.imm.extractLsb' 8 8 != 0

/-- The fields of CBACQ. -/
def legalCbacq (f : FE) : Bool :=
  f.a == 0 && f.b == 0 && f.c == 0 && f.sub == 0 && f.flg == 0 && okSA f.d && f.var.toNat < 2 &&
  f.imm.toNat < 8

/-- The fields of CBREL. -/
def legalCbrel (f : FE) : Bool :=
  f.d == 0 && f.a == 0 && f.b == 0 && f.c == 0 && f.sub == 0 && f.flg == 0 && f.var.toNat < 2 &&
  f.imm.toNat < 8

/-- The fields of GATHER. -/
def legalGather (f : FE) : Bool :=
  f.var == 0 && f.c == 0 && f.imm == 0 && okV f.d && okA f.a && okV f.b && f.sub.toNat ≤ 2 &&
  f.flg.toNat < 8

/-- The fields of EVSET, EVCLR. -/
def legalEvset (f : FE) : Bool :=
  f.d == 0 && f.b == 0 && f.c == 0 && f.sub == 0 && f.flg == 0 && okSA f.a && f.var.toNat < 2 &&
  f.imm.toNat < 256 && (f.var == 1 || f.a == 0)

/-- The fields of EVWAIT. -/
def legalEvwait (f : FE) : Bool :=
  f.b == 0 && f.c == 0 && f.flg == 0 && f.imm == 0 && okSA f.d && okSA f.a && f.var.toNat < 2 &&
  f.sub.toNat < 4

/-- The fields of MPOST. -/
def legalMpost (f : FE) : Bool :=
  f.c == 0 && f.sub == 0 && f.flg == 0 && f.imm == 0 && okSA f.d && okSA f.a && okA f.b && f.var.toNat < 2 &&
  (f.var == 0 || f.a == 0)

/-- The fields of MRECV, HODR. -/
def legalMrecv (f : FE) : Bool :=
  f.a == 0 && f.c == 0 && f.sub == 0 && f.flg == 0 && f.imm == 0 && okSA f.d && okA f.b && f.var.toNat < 2

/-- The fields of WAITT. -/
def legalWaitt (f : FE) : Bool :=
  f.d == 0 && f.b == 0 && f.c == 0 && f.sub == 0 && f.flg == 0 && f.imm == 0 && okSA f.a &&
  f.var.toNat < 2

/-- The fields of HODQ, CELL.DEF. -/
def legalHodq (f : FE) : Bool :=
  f.var == 0 && f.a == 0 && f.c == 0 && f.sub == 0 && f.flg == 0 && f.imm == 0 && okSA f.d && okA f.b

/-- The fields of CELL.BIND, CELL.PUT. -/
def legalCellbind (f : FE) : Bool :=
  f.var == 0 && f.c == 0 && f.sub == 0 && f.flg == 0 && f.imm == 0 && okSA f.d && okSA f.a && okA f.b

/-- The fields of CELL.GET. -/
def legalCellget (f : FE) : Bool :=
  f.c == 0 && f.sub == 0 && f.flg == 0 && f.imm == 0 && okSA f.d && okSA f.a && okA f.b && f.var.toNat < 2

/-- The fields of CELL.COMMIT. -/
def legalCellcommit (f : FE) : Bool :=
  f.var == 0 && f.a == 0 && f.b == 0 && f.c == 0 && f.sub == 0 && f.flg == 0 && f.imm == 0 && okSA f.d

/-- The fields of CELL.STATE. -/
def legalCellstate (f : FE) : Bool :=
  f.b == 0 && f.c == 0 && f.sub == 0 && f.flg == 0 && f.imm == 0 && okSA f.d && okSA f.a &&
  f.var.toNat < 3 && (f.var == 0 || f.a == 0)

/-- The fields of CELL.DROP. -/
def legalCelldrop (f : FE) : Bool :=
  f.var == 0 && f.b == 0 && f.c == 0 && f.sub == 0 && f.flg == 0 && f.imm == 0 && okSA f.d && okSA f.a

/-- An instruction whose every field holds a value that its description admits (R17, R29, R61 to R71, R73,
R96, R119, R143, R162), and that therefore has a word; an event row has none. -/
def legal : Instr → Bool
  | .nop f => legalNop f
  | .add f => legalAdd f
  | .sub f => legalAdd f
  | .addi f => legalAddi f
  | .mul f => legalAdd f
  | .mulh f => legalMulh f
  | .mulhu f => legalMulh f
  | .div f => legalMulh f
  | .divu f => legalMulh f
  | .rem f => legalMulh f
  | .remu f => legalMulh f
  | .and f => legalMulh f
  | .or f => legalMulh f
  | .xor f => legalMulh f
  | .andn f => legalMulh f
  | .andi f => legalAndi f
  | .ori f => legalAndi f
  | .xori f => legalAndi f
  | .shl f => legalMulh f
  | .shr f => legalMulh f
  | .sra f => legalMulh f
  | .shli f => legalShli f
  | .shri f => legalShli f
  | .srai f => legalShli f
  | .rol f => legalMulh f
  | .roli f => legalShli f
  | .clz f => legalClz f
  | .ctz f => legalClz f
  | .popc f => legalClz f
  | .min f => legalMulh f
  | .max f => legalMulh f
  | .minu f => legalMulh f
  | .maxu f => legalMulh f
  | .sext f => legalShli f
  | .zext f => legalShli f
  | .bfx f => f.var == 0 && legalBfx f
  | .bfxSx f => f.var == 1 && legalBfx f
  | .bfi f => legalBfi f
  | .sel f => legalSel f
  | .cmp f => legalCmp f
  | .cmpi f => legalCmpi f
  | .li f => legalLi f
  | .lih f => legalLi f
  | .mov f => legalMov f
  | .aadd f => legalAadd f
  | .aaddi f => legalAaddi f
  | .mfc f => legalMfc f
  | .mtc f => legalMtc f
  | .pand f => legalPand f
  | .por f => legalPand f
  | .pxor f => legalPand f
  | .pnot f => legalPnot f
  | .br f => legalBr f
  | .j f => legalJ f
  | .jr f => legalJr f
  | .loop f => legalLoop f
  | .trap f => legalTrap f
  | .chk f => legalChk f
  | .sysc f => legalSysc f
  | .tret f => legalTret f
  | .halt f => legalSysc f
  | .fenceI f => legalFencei f
  | .yield f => legalSysc f
  | .vadd f => legalVadd f
  | .vsub f => legalVadd f
  | .vmul f => legalVadd f
  | .vfma f => legalVfma f
  | .vfms f => legalVfma f
  | .vdiv f => legalVadd f
  | .vsqrt f => legalVsqrt f
  | .vrcpe f => legalVsqrt f
  | .vrsqe f => legalVsqrt f
  | .vexp2 f => legalVsqrt f
  | .vlog2 f => legalVsqrt f
  | .vmin f => legalVmin f
  | .vmax f => legalVmin f
  | .vabs f => legalVabs f
  | .vneg f => legalVabs f
  | .vcmp f => legalVcmp f
  | .vsel f => legalVsel f
  | .vcvt f => legalVcvt f
  | .viadd f => legalViadd f
  | .visub f => legalViadd f
  | .vimul f => legalViadd f
  | .vimad f => legalVimad f
  | .vimin f => legalVimin f
  | .vimax f => legalVimin f
  | .vand f => legalVand f
  | .vor f => legalVand f
  | .vxor f => legalVand f
  | .vshl f => legalVimin f
  | .vshr f => legalVimin f
  | .vsra f => legalVsra f
  | .vclass f => legalVclass f
  | .vmovv f => legalVmovv f
  | .vrsum f => legalVrsum f
  | .vrmax f => legalVrsum f
  | .vrmin f => legalVrsum f
  | .vscan f => legalVscan f
  | .vbcast f => legalVbcast f
  | .vperm f => legalVand f
  | .vslide f => legalVbcast f
  | .vcomp f => legalVcomp f
  | .vexpd f => legalVcomp f
  | .viota f => legalViota f
  | .vgetl f => legalVgetl f
  | .vsetl f => legalVsetl f
  | .kpopc f => legalKpopc f
  | .kfirst f => legalKpopc f
  | .kand f => legalKand f
  | .kor f => legalKand f
  | .kxor f => legalKand f
  | .knot f => legalKnot f
  | .kmov f => legalKmov f
  | .vnsend f => legalVnsend f
  | .vnrecv f => legalVnrecv f
  | .vlmul f => legalVlmul f
  | .vlsum f => legalVlsum f
  | .vlpack f => legalVlpack f
  | .vlunpk f => legalVlpack f
  | .ld f => legalLd f
  | .st f => legalSt f
  | .ldv f => legalLdv f
  | .stv f => legalStv f
  | .ldvs f => legalLdvs f
  | .stvs f => legalStvs f
  | .ldvx f => legalLdvx f
  | .stvx f => legalStvx f
  | .ldk f => legalLdk f
  | .stk f => legalStk f
  | .lda f => legalLda f
  | .strl f => legalStrl f
  | .pref f => legalPref f
  | .amoadd f => legalAmoadd f
  | .amomin f => legalAmoadd f
  | .amomax f => legalAmoadd f
  | .amominu f => legalAmoadd f
  | .amomaxu f => legalAmoadd f
  | .amoand f => legalAmoadd f
  | .amoor f => legalAmoadd f
  | .amoxor f => legalAmoadd f
  | .amoswp f => legalAmoadd f
  | .amocas f => legalAmoadd f
  | .amofadd f => legalAmofadd f
  | .fence f => f.var == 0 && legalFence f
  | .fenceSs f => f.var == 1 && legalFence f
  | .fenceLl f => f.var == 2 && legalFence f
  | .fenceS f => legalFencei f
  | .cmoClean f => f.var == 0 && legalCmo f
  | .cmoInval f => f.var == 1 && legalCmo f
  | .cmoFlush f => f.var == 2 && legalCmo f
  | .cmoZero f => f.var == 3 && legalCmo f
  | .waitm f => f.var == 0 && legalWaitm f
  | .waitmCmp f => f.var == 1 && legalWaitm f
  | .ldsec f => legalLdsec f
  | .stsec f => legalStsec f
  | .tset f => legalTset f
  | .tget f => legalTget f
  | .tld f => legalTld f
  | .tst f => legalTst f
  | .tzero f => legalTzero f
  | .tmov f => legalTmov f
  | .gissue f => legalGissue f
  | .tmma f => legalTmma f
  | .tmmal f => legalTmmal f
  | .tscale f => legalTscale f
  | .tadd f => legalTadd f
  | .tmul f => legalTadd f
  | .tcvt f => legalTcvt f
  | .ttrans f => legalTtrans f
  | .trsum f => legalTrsum f
  | .trmax f => legalTrsum f
  | .tv2t f => legalTv2t f
  | .tt2v f => legalTt2v f
  | .tbcst f => legalTbcst f
  | .tstat f => legalTstat f
  | .hstart f => legalHstart f
  | .hend f => legalGissue f
  | .hjoin f => legalHjoin f
  | .hstat f => legalHstat f
  | .gdetach f => f.var == 0 && legalGdetach f
  | .gdetachJoin f => f.var == 1 && legalGdetach f
  | .gattach f => legalGattach f
  | .gmerge f => legalGmerge f
  | .barw f => legalBarw f
  | .bara f => legalBarw f
  | .barq f => f.var == 0 && legalBarq f
  | .barqTest f => f.var == 1 && legalBarq f
  | .xph f => legalGmerge f
  | .xsend f => legalXsend f
  | .xmux f => legalXmux f
  | .xend f => legalGissue f
  | .cpy f => legalCpy f
  | .cpyn f => legalCpyn f
  | .cpyc f => legalCpyc f
  | .cpyr f => legalCpyc f
  | .cpycmb f => legalCpycmb f
  | .wmset f => legalWmset f
  | .wmclr f => legalWmclr f
  | .wmrd f => f.var == 0 && legalWmrd f
  | .wmrdAddr f => f.var == 1 && legalWmrd f
  | .crwait f => legalCrwait f
  | .crpop f => legalCrpop f
  | .cbinit f => legalCbinit f
  | .cbacqRd f => f.var == 0 && legalCbacq f
  | .cbacqWr f => f.var == 1 && legalCbacq f
  | .cbrelRd f => f.var == 0 && legalCbrel f
  | .cbrelWr f => f.var == 1 && legalCbrel f
  | .gather f => legalGather f
  | .evset f => legalEvset f
  | .evclr f => legalEvset f
  | .evwaitAny f => f.var == 0 && legalEvwait f
  | .evwaitAll f => f.var == 1 && legalEvwait f
  | .mpost f => legalMpost f
  | .mrecv f => f.var == 0 && legalMrecv f
  | .mrecvTest f => f.var == 1 && legalMrecv f
  | .waitt f => f.var == 0 && legalWaitt f
  | .waittAbs f => f.var == 1 && legalWaitt f
  | .tqput f => legalCrwait f
  | .hodq f => legalHodq f
  | .hodr f => f.var == 0 && legalMrecv f
  | .hodrTest f => f.var == 1 && legalMrecv f
  | .cellDef f => legalHodq f
  | .cellBind f => legalCellbind f
  | .cellPut f => legalCellbind f
  | .cellGet f => legalCellget f
  | .cellCommit f => legalCellcommit f
  | .cellState f => f.var == 0 && legalCellstate f
  | .cellStateFlip f => f.var == 1 && legalCellstate f
  | .cellStateAbort f => f.var == 2 && legalCellstate f
  | .cellDrop f => legalCelldrop f
  | .registerWrite => false
  | .queueDoorbell => false
  | .queueEnable => false
  | .dispatch => false
  | .cmoRangeClean => false
  | .cmoRangeInval => false
  | .cmoRangeFlush => false
  | .cmoRangeAttr => false
  | .eventSet => false
  | .eventWait => false
  | .indirect => false
  | .timestamp => false
  | .cellWave => false
  | .power => false
  | .launchPlacement => false
  | .startTimeReached => false
  | .gangEnd => false
  | .preemptionRequest => false
  | .drainExpiry => false
  | .saveComplete => false
  | .gangRestore => false
  | .longWaitSwap => false
  | .resumeIntervalExpiry => false
  | .swapWake => false
  | .btoExpiry => false
  | .barrierCompletion => false
  | .joinCompletion => false
  | .sequencerStep => false
  | .streamConditionReport => false
  | .memoryReply => false
  | .channelArrival => false
  | .xmuxCapture => false
  | .xcollideSense => false
  | .holdRaise => false
  | .holdRelease => false
  | .throttleChange => false
  | .throttleLimitExpiry => false
  | .copyLanding => false
  | .copyComplete => false
  | .copyFault => false
  | .combinePacketArrival => false
  | .combineEntryTimeout => false
  | .gatherReply => false
  | .taskDispatch => false
  | .footprintComplete => false
  | .pintoExpiry => false
  | .pageGroupResponse => false
  | .atsInvalidationRequest => false
  | .translationCompletion => false
  | .shootdownDrop => false
  | .shootdownUnmap => false
  | .shootdownMove => false
  | .migrationTrigger => false
  | .settledExpiry => false
  | .helperReturnMessage => false
  | .directoryRequest => false
  | .directoryMerge => false
  | .arrayWake => false
  | .hostAccess => false
  | .eventDelivery => false
  | .messageDelivery => false
  | .handlerStart => false
  | .tretActionArrival => false
  | .monitorWake => false
  | .syscReply => false
  | .waittExpiry => false
  | .formulaTaskPlacement => false
  | .formulaTaskEnd => false
  | .waveFlip => false
  | .waveAbort => false
  | .signatureCheck => false
  | .rollback => false
  | .inFieldTest => false
  | .fatalError => false
  | .watchdogTakeover => false
  | .liveUpdate => false
  | .powerStateWrite => false
  | .capWindow => false
  | .thermalTrip => false
  | .energySample => false
  | .energyCheckpoint => false
  | .signedReading => false
  | .attestationReport => false
  | .partitionOwnerWrite => false
  | .partitionClusterWrite => false
  | .deviceReset => false
  | .fetchFault => false
  | .failedSubChannelMark => false
  | .tbaseDiscipline => false

/-- The word of a well-formed instruction, from the field tables of R60 to R64 and the opcode map of R70;
an event row has no word. -/
def encode : Instr → Option IWord
  | .nop f => some (f.word 0x001)
  | .add f => some (f.word 0x010)
  | .sub f => some (f.word 0x011)
  | .addi f => some (f.word 0x012)
  | .mul f => some (f.word 0x013)
  | .mulh f => some (f.word 0x014)
  | .mulhu f => some (f.word 0x015)
  | .div f => some (f.word 0x016)
  | .divu f => some (f.word 0x017)
  | .rem f => some (f.word 0x018)
  | .remu f => some (f.word 0x019)
  | .and f => some (f.word 0x01A)
  | .or f => some (f.word 0x01B)
  | .xor f => some (f.word 0x01C)
  | .andn f => some (f.word 0x01D)
  | .andi f => some (f.word 0x01E)
  | .ori f => some (f.word 0x01F)
  | .xori f => some (f.word 0x020)
  | .shl f => some (f.word 0x021)
  | .shr f => some (f.word 0x022)
  | .sra f => some (f.word 0x023)
  | .shli f => some (f.word 0x024)
  | .shri f => some (f.word 0x025)
  | .srai f => some (f.word 0x026)
  | .rol f => some (f.word 0x027)
  | .roli f => some (f.word 0x028)
  | .clz f => some (f.word 0x029)
  | .ctz f => some (f.word 0x02A)
  | .popc f => some (f.word 0x02B)
  | .min f => some (f.word 0x02C)
  | .max f => some (f.word 0x02D)
  | .minu f => some (f.word 0x02E)
  | .maxu f => some (f.word 0x02F)
  | .sext f => some (f.word 0x030)
  | .zext f => some (f.word 0x031)
  | .bfx f => some (f.word 0x032)
  | .bfxSx f => some (f.word 0x032)
  | .bfi f => some (f.word 0x033)
  | .sel f => some (f.word 0x034)
  | .cmp f => some (f.word 0x035)
  | .cmpi f => some (f.word 0x036)
  | .li f => some (f.word 0x037)
  | .lih f => some (f.word 0x038)
  | .mov f => some (f.word 0x039)
  | .aadd f => some (f.word 0x03A)
  | .aaddi f => some (f.word 0x03B)
  | .mfc f => some (f.word 0x03C)
  | .mtc f => some (f.word 0x03D)
  | .pand f => some (f.word 0x03E)
  | .por f => some (f.word 0x03F)
  | .pxor f => some (f.word 0x040)
  | .pnot f => some (f.word 0x041)
  | .br f => some (f.word 0x042)
  | .j f => some (f.word 0x043)
  | .jr f => some (f.word 0x044)
  | .loop f => some (f.word 0x045)
  | .trap f => some (f.word 0x046)
  | .chk f => some (f.word 0x047)
  | .sysc f => some (f.word 0x048)
  | .tret f => some (f.word 0x049)
  | .halt f => some (f.word 0x04A)
  | .fenceI f => some (f.word 0x04B)
  | .yield f => some (f.word 0x04C)
  | .vadd f => some (f.word 0x080)
  | .vsub f => some (f.word 0x081)
  | .vmul f => some (f.word 0x082)
  | .vfma f => some (f.word 0x083)
  | .vfms f => some (f.word 0x084)
  | .vdiv f => some (f.word 0x085)
  | .vsqrt f => some (f.word 0x086)
  | .vrcpe f => some (f.word 0x087)
  | .vrsqe f => some (f.word 0x088)
  | .vexp2 f => some (f.word 0x089)
  | .vlog2 f => some (f.word 0x08A)
  | .vmin f => some (f.word 0x08B)
  | .vmax f => some (f.word 0x08C)
  | .vabs f => some (f.word 0x08D)
  | .vneg f => some (f.word 0x08E)
  | .vcmp f => some (f.word 0x08F)
  | .vsel f => some (f.word 0x090)
  | .vcvt f => some (f.word 0x091)
  | .viadd f => some (f.word 0x092)
  | .visub f => some (f.word 0x093)
  | .vimul f => some (f.word 0x094)
  | .vimad f => some (f.word 0x095)
  | .vimin f => some (f.word 0x096)
  | .vimax f => some (f.word 0x097)
  | .vand f => some (f.word 0x098)
  | .vor f => some (f.word 0x099)
  | .vxor f => some (f.word 0x09A)
  | .vshl f => some (f.word 0x09B)
  | .vshr f => some (f.word 0x09C)
  | .vsra f => some (f.word 0x09D)
  | .vclass f => some (f.word 0x09E)
  | .vmovv f => some (f.word 0x09F)
  | .vrsum f => some (f.word 0x0A0)
  | .vrmax f => some (f.word 0x0A1)
  | .vrmin f => some (f.word 0x0A2)
  | .vscan f => some (f.word 0x0A3)
  | .vbcast f => some (f.word 0x0A4)
  | .vperm f => some (f.word 0x0A5)
  | .vslide f => some (f.word 0x0A6)
  | .vcomp f => some (f.word 0x0A7)
  | .vexpd f => some (f.word 0x0A8)
  | .viota f => some (f.word 0x0A9)
  | .vgetl f => some (f.word 0x0AA)
  | .vsetl f => some (f.word 0x0AB)
  | .kpopc f => some (f.word 0x0AC)
  | .kfirst f => some (f.word 0x0AD)
  | .kand f => some (f.word 0x0AE)
  | .kor f => some (f.word 0x0AF)
  | .kxor f => some (f.word 0x0B0)
  | .knot f => some (f.word 0x0B1)
  | .kmov f => some (f.word 0x0B2)
  | .vnsend f => some (f.word 0x0B3)
  | .vnrecv f => some (f.word 0x0B4)
  | .vlmul f => some (f.word 0x0B5)
  | .vlsum f => some (f.word 0x0B6)
  | .vlpack f => some (f.word 0x0B7)
  | .vlunpk f => some (f.word 0x0B8)
  | .ld f => some (f.word 0x100)
  | .st f => some (f.word 0x101)
  | .ldv f => some (f.word 0x102)
  | .stv f => some (f.word 0x103)
  | .ldvs f => some (f.word 0x104)
  | .stvs f => some (f.word 0x105)
  | .ldvx f => some (f.word 0x106)
  | .stvx f => some (f.word 0x107)
  | .ldk f => some (f.word 0x108)
  | .stk f => some (f.word 0x109)
  | .lda f => some (f.word 0x10A)
  | .strl f => some (f.word 0x10B)
  | .pref f => some (f.word 0x10C)
  | .amoadd f => some (f.word 0x10D)
  | .amomin f => some (f.word 0x10E)
  | .amomax f => some (f.word 0x10F)
  | .amominu f => some (f.word 0x110)
  | .amomaxu f => some (f.word 0x111)
  | .amoand f => some (f.word 0x112)
  | .amoor f => some (f.word 0x113)
  | .amoxor f => some (f.word 0x114)
  | .amoswp f => some (f.word 0x115)
  | .amocas f => some (f.word 0x116)
  | .amofadd f => some (f.word 0x117)
  | .fence f => some (f.word 0x118)
  | .fenceSs f => some (f.word 0x118)
  | .fenceLl f => some (f.word 0x118)
  | .fenceS f => some (f.word 0x119)
  | .cmoClean f => some (f.word 0x11A)
  | .cmoInval f => some (f.word 0x11A)
  | .cmoFlush f => some (f.word 0x11A)
  | .cmoZero f => some (f.word 0x11A)
  | .waitm f => some (f.word 0x11B)
  | .waitmCmp f => some (f.word 0x11B)
  | .ldsec f => some (f.word 0x11C)
  | .stsec f => some (f.word 0x11D)
  | .tset f => some (f.word 0x160)
  | .tget f => some (f.word 0x161)
  | .tld f => some (f.word 0x162)
  | .tst f => some (f.word 0x163)
  | .tzero f => some (f.word 0x164)
  | .tmov f => some (f.word 0x165)
  | .gissue f => some (f.word 0x166)
  | .tmma f => some (f.word 0x167)
  | .tmmal f => some (f.word 0x168)
  | .tscale f => some (f.word 0x169)
  | .tadd f => some (f.word 0x16A)
  | .tmul f => some (f.word 0x16B)
  | .tcvt f => some (f.word 0x16C)
  | .ttrans f => some (f.word 0x16D)
  | .trsum f => some (f.word 0x16E)
  | .trmax f => some (f.word 0x16F)
  | .tv2t f => some (f.word 0x170)
  | .tt2v f => some (f.word 0x171)
  | .tbcst f => some (f.word 0x172)
  | .tstat f => some (f.word 0x173)
  | .hstart f => some (f.word 0x1C0)
  | .hend f => some (f.word 0x1C1)
  | .hjoin f => some (f.word 0x1C2)
  | .hstat f => some (f.word 0x1C3)
  | .gdetach f => some (f.word 0x1C4)
  | .gdetachJoin f => some (f.word 0x1C4)
  | .gattach f => some (f.word 0x1C5)
  | .gmerge f => some (f.word 0x1C6)
  | .barw f => some (f.word 0x1C7)
  | .bara f => some (f.word 0x1C8)
  | .barq f => some (f.word 0x1C9)
  | .barqTest f => some (f.word 0x1C9)
  | .xph f => some (f.word 0x1CA)
  | .xsend f => some (f.word 0x1CB)
  | .xmux f => some (f.word 0x1CC)
  | .xend f => some (f.word 0x1CD)
  | .cpy f => some (f.word 0x1CE)
  | .cpyn f => some (f.word 0x1CF)
  | .cpyc f => some (f.word 0x1D0)
  | .cpyr f => some (f.word 0x1D1)
  | .cpycmb f => some (f.word 0x1D2)
  | .wmset f => some (f.word 0x1D3)
  | .wmclr f => some (f.word 0x1D4)
  | .wmrd f => some (f.word 0x1D5)
  | .wmrdAddr f => some (f.word 0x1D5)
  | .crwait f => some (f.word 0x1D6)
  | .crpop f => some (f.word 0x1D7)
  | .cbinit f => some (f.word 0x1D8)
  | .cbacqRd f => some (f.word 0x1D9)
  | .cbacqWr f => some (f.word 0x1D9)
  | .cbrelRd f => some (f.word 0x1DA)
  | .cbrelWr f => some (f.word 0x1DA)
  | .gather f => some (f.word 0x1DB)
  | .evset f => some (f.word 0x1DC)
  | .evclr f => some (f.word 0x1DD)
  | .evwaitAny f => some (f.word 0x1DE)
  | .evwaitAll f => some (f.word 0x1DE)
  | .mpost f => some (f.word 0x1DF)
  | .mrecv f => some (f.word 0x1E0)
  | .mrecvTest f => some (f.word 0x1E0)
  | .waitt f => some (f.word 0x1E1)
  | .waittAbs f => some (f.word 0x1E1)
  | .tqput f => some (f.word 0x1E2)
  | .hodq f => some (f.word 0x1E3)
  | .hodr f => some (f.word 0x1E4)
  | .hodrTest f => some (f.word 0x1E4)
  | .cellDef f => some (f.word 0x1E5)
  | .cellBind f => some (f.word 0x1E6)
  | .cellPut f => some (f.word 0x1E7)
  | .cellGet f => some (f.word 0x1E8)
  | .cellCommit f => some (f.word 0x1E9)
  | .cellState f => some (f.word 0x1EA)
  | .cellStateFlip f => some (f.word 0x1EA)
  | .cellStateAbort f => some (f.word 0x1EA)
  | .cellDrop f => some (f.word 0x1EB)
  | .registerWrite => none
  | .queueDoorbell => none
  | .queueEnable => none
  | .dispatch => none
  | .cmoRangeClean => none
  | .cmoRangeInval => none
  | .cmoRangeFlush => none
  | .cmoRangeAttr => none
  | .eventSet => none
  | .eventWait => none
  | .indirect => none
  | .timestamp => none
  | .cellWave => none
  | .power => none
  | .launchPlacement => none
  | .startTimeReached => none
  | .gangEnd => none
  | .preemptionRequest => none
  | .drainExpiry => none
  | .saveComplete => none
  | .gangRestore => none
  | .longWaitSwap => none
  | .resumeIntervalExpiry => none
  | .swapWake => none
  | .btoExpiry => none
  | .barrierCompletion => none
  | .joinCompletion => none
  | .sequencerStep => none
  | .streamConditionReport => none
  | .memoryReply => none
  | .channelArrival => none
  | .xmuxCapture => none
  | .xcollideSense => none
  | .holdRaise => none
  | .holdRelease => none
  | .throttleChange => none
  | .throttleLimitExpiry => none
  | .copyLanding => none
  | .copyComplete => none
  | .copyFault => none
  | .combinePacketArrival => none
  | .combineEntryTimeout => none
  | .gatherReply => none
  | .taskDispatch => none
  | .footprintComplete => none
  | .pintoExpiry => none
  | .pageGroupResponse => none
  | .atsInvalidationRequest => none
  | .translationCompletion => none
  | .shootdownDrop => none
  | .shootdownUnmap => none
  | .shootdownMove => none
  | .migrationTrigger => none
  | .settledExpiry => none
  | .helperReturnMessage => none
  | .directoryRequest => none
  | .directoryMerge => none
  | .arrayWake => none
  | .hostAccess => none
  | .eventDelivery => none
  | .messageDelivery => none
  | .handlerStart => none
  | .tretActionArrival => none
  | .monitorWake => none
  | .syscReply => none
  | .waittExpiry => none
  | .formulaTaskPlacement => none
  | .formulaTaskEnd => none
  | .waveFlip => none
  | .waveAbort => none
  | .signatureCheck => none
  | .rollback => none
  | .inFieldTest => none
  | .fatalError => none
  | .watchdogTakeover => none
  | .liveUpdate => none
  | .powerStateWrite => none
  | .capWindow => none
  | .thermalTrip => none
  | .energySample => none
  | .energyCheckpoint => none
  | .signedReading => none
  | .attestationReport => none
  | .partitionOwnerWrite => none
  | .partitionClusterWrite => none
  | .deviceReset => none
  | .fetchFault => none
  | .failedSubChannelMark => none
  | .tbaseDiscipline => none

/-! The opcode map of Table 3-8, row by row: from the column and the word to the instruction, its fields taken
out; `none` where the cell is empty or the variant is not defined (R70, R71). -/

/-- Row 0x00 of Table 3-8. -/
def buildRow00 (col : Nat) (w : IWord) : Option Instr :=
  match col with
  | 1 => (FQ.of w).map .nop
  | _ => none

/-- Row 0x01 of Table 3-8. -/
def buildRow01 (col : Nat) (w : IWord) : Option Instr :=
  match col with
  | 0 => (FQ.of w).map .add
  | 1 => (FQ.of w).map .sub
  | 2 => (FI.of w).map .addi
  | 3 => (FQ.of w).map .mul
  | 4 => (FQ.of w).map .mulh
  | 5 => (FQ.of w).map .mulhu
  | 6 => (FQ.of w).map .div
  | 7 => (FQ.of w).map .divu
  | 8 => (FQ.of w).map .rem
  | 9 => (FQ.of w).map .remu
  | 10 => (FQ.of w).map .and
  | 11 => (FQ.of w).map .or
  | 12 => (FQ.of w).map .xor
  | 13 => (FQ.of w).map .andn
  | 14 => (FI.of w).map .andi
  | 15 => (FI.of w).map .ori
  | _ => none

/-- Row 0x02 of Table 3-8. -/
def buildRow02 (col : Nat) (w : IWord) : Option Instr :=
  match col with
  | 0 => (FI.of w).map .xori
  | 1 => (FQ.of w).map .shl
  | 2 => (FQ.of w).map .shr
  | 3 => (FQ.of w).map .sra
  | 4 => (FI.of w).map .shli
  | 5 => (FI.of w).map .shri
  | 6 => (FI.of w).map .srai
  | 7 => (FQ.of w).map .rol
  | 8 => (FI.of w).map .roli
  | 9 => (FQ.of w).map .clz
  | 10 => (FQ.of w).map .ctz
  | 11 => (FQ.of w).map .popc
  | 12 => (FQ.of w).map .min
  | 13 => (FQ.of w).map .max
  | 14 => (FQ.of w).map .minu
  | 15 => (FQ.of w).map .maxu
  | _ => none

/-- Row 0x03 of Table 3-8. -/
def buildRow03 (col : Nat) (w : IWord) : Option Instr :=
  match col with
  | 0 => (FI.of w).map .sext
  | 1 => (FI.of w).map .zext
  | 2 => if wVar w == 0 then (FI.of w).map .bfx else if wVar w == 1 then (FI.of w).map .bfxSx else none
  | 3 => (FI.of w).map .bfi
  | 4 => (FQ.of w).map .sel
  | 5 => (FQ.of w).map .cmp
  | 6 => (FI.of w).map .cmpi
  | 7 => (FI.of w).map .li
  | 8 => (FI.of w).map .lih
  | 9 => (FQ.of w).map .mov
  | 10 => (FQ.of w).map .aadd
  | 11 => (FI.of w).map .aaddi
  | 12 => (FI.of w).map .mfc
  | 13 => (FI.of w).map .mtc
  | 14 => (FQ.of w).map .pand
  | 15 => (FQ.of w).map .por
  | _ => none

/-- Row 0x04 of Table 3-8. -/
def buildRow04 (col : Nat) (w : IWord) : Option Instr :=
  match col with
  | 0 => (FQ.of w).map .pxor
  | 1 => (FQ.of w).map .pnot
  | 2 => (FB.of w).map .br
  | 3 => (FB.of w).map .j
  | 4 => (FQ.of w).map .jr
  | 5 => (FB.of w).map .loop
  | 6 => (FI.of w).map .trap
  | 7 => (FI.of w).map .chk
  | 8 => (FI.of w).map .sysc
  | 9 => (FI.of w).map .tret
  | 10 => (FI.of w).map .halt
  | 11 => (FI.of w).map .fenceI
  | 12 => (FI.of w).map .yield
  | _ => none

/-- Row 0x08 of Table 3-8. -/
def buildRow08 (col : Nat) (w : IWord) : Option Instr :=
  match col with
  | 0 => (FV.of w).map .vadd
  | 1 => (FV.of w).map .vsub
  | 2 => (FV.of w).map .vmul
  | 3 => (FV.of w).map .vfma
  | 4 => (FV.of w).map .vfms
  | 5 => (FV.of w).map .vdiv
  | 6 => (FV.of w).map .vsqrt
  | 7 => (FV.of w).map .vrcpe
  | 8 => (FV.of w).map .vrsqe
  | 9 => (FV.of w).map .vexp2
  | 10 => (FV.of w).map .vlog2
  | 11 => (FV.of w).map .vmin
  | 12 => (FV.of w).map .vmax
  | 13 => (FV.of w).map .vabs
  | 14 => (FV.of w).map .vneg
  | 15 => (FV.of w).map .vcmp
  | _ => none

/-- Row 0x09 of Table 3-8. -/
def buildRow09 (col : Nat) (w : IWord) : Option Instr :=
  match col with
  | 0 => (FV.of w).map .vsel
  | 1 => (FV.of w).map .vcvt
  | 2 => (FV.of w).map .viadd
  | 3 => (FV.of w).map .visub
  | 4 => (FV.of w).map .vimul
  | 5 => (FV.of w).map .vimad
  | 6 => (FV.of w).map .vimin
  | 7 => (FV.of w).map .vimax
  | 8 => (FV.of w).map .vand
  | 9 => (FV.of w).map .vor
  | 10 => (FV.of w).map .vxor
  | 11 => (FV.of w).map .vshl
  | 12 => (FV.of w).map .vshr
  | 13 => (FV.of w).map .vsra
  | 14 => (FV.of w).map .vclass
  | 15 => (FV.of w).map .vmovv
  | _ => none

/-- Row 0x0A of Table 3-8. -/
def buildRow0A (col : Nat) (w : IWord) : Option Instr :=
  match col with
  | 0 => (FV.of w).map .vrsum
  | 1 => (FV.of w).map .vrmax
  | 2 => (FV.of w).map .vrmin
  | 3 => (FV.of w).map .vscan
  | 4 => (FV.of w).map .vbcast
  | 5 => (FV.of w).map .vperm
  | 6 => (FV.of w).map .vslide
  | 7 => (FV.of w).map .vcomp
  | 8 => (FV.of w).map .vexpd
  | 9 => (FV.of w).map .viota
  | 10 => (FV.of w).map .vgetl
  | 11 => (FV.of w).map .vsetl
  | 12 => (FV.of w).map .kpopc
  | 13 => (FV.of w).map .kfirst
  | 14 => (FV.of w).map .kand
  | 15 => (FV.of w).map .kor
  | _ => none

/-- Row 0x0B of Table 3-8. -/
def buildRow0B (col : Nat) (w : IWord) : Option Instr :=
  match col with
  | 0 => (FV.of w).map .kxor
  | 1 => (FV.of w).map .knot
  | 2 => (FV.of w).map .kmov
  | 3 => (FV.of w).map .vnsend
  | 4 => (FV.of w).map .vnrecv
  | 5 => (FV.of w).map .vlmul
  | 6 => (FV.of w).map .vlsum
  | 7 => (FV.of w).map .vlpack
  | 8 => (FV.of w).map .vlunpk
  | _ => none

/-- Row 0x10 of Table 3-8. -/
def buildRow10 (col : Nat) (w : IWord) : Option Instr :=
  match col with
  | 0 => (FM.of w).map .ld
  | 1 => (FM.of w).map .st
  | 2 => (FM.of w).map .ldv
  | 3 => (FM.of w).map .stv
  | 4 => (FM.of w).map .ldvs
  | 5 => (FM.of w).map .stvs
  | 6 => (FM.of w).map .ldvx
  | 7 => (FM.of w).map .stvx
  | 8 => (FM.of w).map .ldk
  | 9 => (FM.of w).map .stk
  | 10 => (FM.of w).map .lda
  | 11 => (FM.of w).map .strl
  | 12 => (FM.of w).map .pref
  | 13 => (FM.of w).map .amoadd
  | 14 => (FM.of w).map .amomin
  | 15 => (FM.of w).map .amomax
  | _ => none

/-- Row 0x11 of Table 3-8. -/
def buildRow11 (col : Nat) (w : IWord) : Option Instr :=
  match col with
  | 0 => (FM.of w).map .amominu
  | 1 => (FM.of w).map .amomaxu
  | 2 => (FM.of w).map .amoand
  | 3 => (FM.of w).map .amoor
  | 4 => (FM.of w).map .amoxor
  | 5 => (FM.of w).map .amoswp
  | 6 => (FM.of w).map .amocas
  | 7 => (FM.of w).map .amofadd
  | 8 => if wVar w == 0 then (FI.of w).map .fence else if wVar w == 1 then (FI.of w).map .fenceSs else if wVar w == 2 then (FI.of w).map .fenceLl else none
  | 9 => (FI.of w).map .fenceS
  | 10 => if wVar w == 0 then (FM.of w).map .cmoClean else if wVar w == 1 then (FM.of w).map .cmoInval else if wVar w == 2 then (FM.of w).map .cmoFlush else if wVar w == 3 then (FM.of w).map .cmoZero else none
  | 11 => if wVar w == 0 then (FM.of w).map .waitm else if wVar w == 1 then (FM.of w).map .waitmCmp else none
  | 12 => (FM.of w).map .ldsec
  | 13 => (FM.of w).map .stsec
  | _ => none

/-- Row 0x16 of Table 3-8. -/
def buildRow16 (col : Nat) (w : IWord) : Option Instr :=
  match col with
  | 0 => (FI.of w).map .tset
  | 1 => (FI.of w).map .tget
  | 2 => (FM.of w).map .tld
  | 3 => (FM.of w).map .tst
  | 4 => (FT.of w).map .tzero
  | 5 => (FT.of w).map .tmov
  | 6 => (FE.of w).map .gissue
  | 7 => (FT.of w).map .tmma
  | 8 => (FT.of w).map .tmmal
  | 9 => (FT.of w).map .tscale
  | 10 => (FT.of w).map .tadd
  | 11 => (FT.of w).map .tmul
  | 12 => (FT.of w).map .tcvt
  | 13 => (FT.of w).map .ttrans
  | 14 => (FT.of w).map .trsum
  | 15 => (FT.of w).map .trmax
  | _ => none

/-- Row 0x17 of Table 3-8. -/
def buildRow17 (col : Nat) (w : IWord) : Option Instr :=
  match col with
  | 0 => (FT.of w).map .tv2t
  | 1 => (FT.of w).map .tt2v
  | 2 => (FT.of w).map .tbcst
  | 3 => (FI.of w).map .tstat
  | _ => none

/-- Row 0x1C of Table 3-8. -/
def buildRow1C (col : Nat) (w : IWord) : Option Instr :=
  match col with
  | 0 => (FE.of w).map .hstart
  | 1 => (FE.of w).map .hend
  | 2 => (FE.of w).map .hjoin
  | 3 => (FE.of w).map .hstat
  | 4 => if wVar w == 0 then (FE.of w).map .gdetach else if wVar w == 1 then (FE.of w).map .gdetachJoin else none
  | 5 => (FE.of w).map .gattach
  | 6 => (FE.of w).map .gmerge
  | 7 => (FE.of w).map .barw
  | 8 => (FE.of w).map .bara
  | 9 => if wVar w == 0 then (FE.of w).map .barq else if wVar w == 1 then (FE.of w).map .barqTest else none
  | 10 => (FE.of w).map .xph
  | 11 => (FE.of w).map .xsend
  | 12 => (FE.of w).map .xmux
  | 13 => (FE.of w).map .xend
  | 14 => (FE.of w).map .cpy
  | 15 => (FE.of w).map .cpyn
  | _ => none

/-- Row 0x1D of Table 3-8. -/
def buildRow1D (col : Nat) (w : IWord) : Option Instr :=
  match col with
  | 0 => (FE.of w).map .cpyc
  | 1 => (FE.of w).map .cpyr
  | 2 => (FE.of w).map .cpycmb
  | 3 => (FE.of w).map .wmset
  | 4 => (FE.of w).map .wmclr
  | 5 => if wVar w == 0 then (FE.of w).map .wmrd else if wVar w == 1 then (FE.of w).map .wmrdAddr else none
  | 6 => (FE.of w).map .crwait
  | 7 => (FE.of w).map .crpop
  | 8 => (FE.of w).map .cbinit
  | 9 => if wVar w == 0 then (FE.of w).map .cbacqRd else if wVar w == 1 then (FE.of w).map .cbacqWr else none
  | 10 => if wVar w == 0 then (FE.of w).map .cbrelRd else if wVar w == 1 then (FE.of w).map .cbrelWr else none
  | 11 => (FE.of w).map .gather
  | 12 => (FE.of w).map .evset
  | 13 => (FE.of w).map .evclr
  | 14 => if wVar w == 0 then (FE.of w).map .evwaitAny else if wVar w == 1 then (FE.of w).map .evwaitAll else none
  | 15 => (FE.of w).map .mpost
  | _ => none

/-- Row 0x1E of Table 3-8. -/
def buildRow1E (col : Nat) (w : IWord) : Option Instr :=
  match col with
  | 0 => if wVar w == 0 then (FE.of w).map .mrecv else if wVar w == 1 then (FE.of w).map .mrecvTest else none
  | 1 => if wVar w == 0 then (FE.of w).map .waitt else if wVar w == 1 then (FE.of w).map .waittAbs else none
  | 2 => (FE.of w).map .tqput
  | 3 => (FE.of w).map .hodq
  | 4 => if wVar w == 0 then (FE.of w).map .hodr else if wVar w == 1 then (FE.of w).map .hodrTest else none
  | 5 => (FE.of w).map .cellDef
  | 6 => (FE.of w).map .cellBind
  | 7 => (FE.of w).map .cellPut
  | 8 => (FE.of w).map .cellGet
  | 9 => (FE.of w).map .cellCommit
  | 10 => if wVar w == 0 then (FE.of w).map .cellState else if wVar w == 1 then (FE.of w).map .cellStateFlip else if wVar w == 2 then (FE.of w).map .cellStateAbort else none
  | 11 => (FE.of w).map .cellDrop
  | _ => none

/-- The opcode map: from an opcode and a word to the instruction with its fields taken out (R70). -/
def build (w : IWord) : Option Instr :=
  match (wOpc w).toNat / 16 with
  | 0 => buildRow00 ((wOpc w).toNat % 16) w
  | 1 => buildRow01 ((wOpc w).toNat % 16) w
  | 2 => buildRow02 ((wOpc w).toNat % 16) w
  | 3 => buildRow03 ((wOpc w).toNat % 16) w
  | 4 => buildRow04 ((wOpc w).toNat % 16) w
  | 8 => buildRow08 ((wOpc w).toNat % 16) w
  | 9 => buildRow09 ((wOpc w).toNat % 16) w
  | 10 => buildRow0A ((wOpc w).toNat % 16) w
  | 11 => buildRow0B ((wOpc w).toNat % 16) w
  | 16 => buildRow10 ((wOpc w).toNat % 16) w
  | 17 => buildRow11 ((wOpc w).toNat % 16) w
  | 22 => buildRow16 ((wOpc w).toNat % 16) w
  | 23 => buildRow17 ((wOpc w).toNat % 16) w
  | 28 => buildRow1C ((wOpc w).toNat % 16) w
  | 29 => buildRow1D ((wOpc w).toNat % 16) w
  | 30 => buildRow1E ((wOpc w).toNat % 16) w
  | _ => none

/-- Why a word is not an instruction (Table 3-14). -/
inductive DecodeError where
  /-- fewer than 12 bytes -/
  | tooShort
  /-- the opcode is an empty cell, the variant is not defined, or a reserved bit is set -/
  | noInstruction
  /-- an operand or a code that the description does not admit -/
  | badField
  deriving DecidableEq, Repr

/-- Decoding of one word (R70, R71): an instruction, or the reason why there is none. -/
def decode (w : IWord) : Except DecodeError Instr :=
  match build w with
  | none => .error .noInstruction
  | some i => if legal i then .ok i else .error .badField

/-- The little-endian number of a list of bytes. -/
def natOfBytes : List Byte → Nat
  | [] => 0
  | b :: bs => b.toNat + 256 * natOfBytes bs

/-- Decoding of the bytes of a slot: the first twelve, little-endian (R50), and the rest. -/
def decodeBytes (bs : List Byte) : Except DecodeError (Instr × List Byte) :=
  if (bs.take 12).length < 12 then .error .tooShort
  else match decode (BitVec.ofNat 96 (natOfBytes (bs.take 12))) with
    | .ok i => .ok (i, bs.drop 12)
    | .error e => .error e

/-- The bytes of a word, the least significant first. -/
def bytesOfNat : Nat → Nat → List Byte
  | 0, _ => []
  | n + 1, x => BitVec.ofNat 8 x :: bytesOfNat n (x / 256)

/-- The instruction that the decoder reads from an instruction whose bits are `w`, numbered as the opcode table
numbers them; the bits above `nbits`, up to the 96 of a slot, are zero. -/
def decodeTableWord (nbits w : Nat) : Option Instr :=
  match decodeBytes (bytesOfNat 12 (w % 2 ^ nbits)) with
  | .ok (i, _) => some i
  | .error _ => none

end Sys2Proof
end

