-- ==== Sys2Proof/Machine/State.lean ====
section
/-! DEFINITION. The state of the machine as plain data, the reasons a step can stop, and the state after reset. -/

namespace Sys2Proof.Machine

/-- Why a step stops. -/
inductive Fault where
  /-- A save area or the destination of a page move lies at a physical address that the part does not have (R2, R309,
  R325). Raised by GANG_SAVE's write of a slot and by SHOOTDOWN_MOVE. Safe: the model stops where the spec gives the
  address no byte. -/
  | noSuchPhysicalAddress (pa : Nat)
  /-- A register access at a BAR 0 offset outside every register block of the spec (R267, R328, R339, R372, R375).
  Raised by REGISTER_WRITE. Safe: the spec names no register there. -/
  | noSuchRegister (off : Nat)
  deriving DecidableEq, Repr

/-- Why the model gives an instruction no meaning. -/
inductive Refusal where
  /-- Rejected by name in exec: no meaning written yet. Raised by Dispatch. Safe: no step is taken. -/
  | notModelled (mnemonic : String)
  deriving DecidableEq, Repr

/-! Sparse tables by number: lists of pairs in rising order of the number. -/

/-- A sparse table: pairs in strictly rising order of their number. -/
abbrev Table (α : Type) := List (Nat × α)

/-- Memory: the listed bytes by location (log 7), strictly rising, none equal to what an unlisted one reads as. -/
abbrev Memory := List Host.Cell

/-- What a byte that is not listed reads as (DESIGN CHOICE, log 6). -/
abbrev Memory.unlisted : Byte := 0

/-- The canonical form of a memory: locations strictly rising and no listed byte equal to the unlisted one. -/
abbrev Memory.wf (m : Memory) : Bool :=
  decide (List.Pairwise (fun a b => a.1 < b.1) m) && m.all (fun c => c.2 != Memory.unlisted)

/-! Faults, waits and replies of a context. -/

/-- The fault classes of Table 24-2. -/
inductive FaultClass where
  | illegal | badTarget | fetchPar | resFmt | winMiss | page | prot | hodOnly | xPhase | xCollide | wmPoison
  | cellStore | cellCyc | cellState | barTimeout | sigMismatch | uce | pinRevoked | trap
  deriving DecidableEq, Repr

/-- A fault record, the four words of Table 24-1. -/
structure FaultRecord where
  w0 : Word := 0
  w1 : Word := 0
  w2 : Word := 0
  w3 : Word := 0
  deriving DecidableEq, Repr

/-- The states of a cell (Table 17-3). -/
inductive CellState where
  | settled | pending | recomputed | circular | blocked | failed
  deriving DecidableEq, Repr

/-- The buffer that a read in AM 6 has selected, at its issue or at the flip it waited for (R123, R296): the cell and its
extent, the buffer, and the state in which the cell then was, which a settled view may not read. -/
structure CellRead where
  id : Nat
  extent : Nat
  buf : Nat
  state : CellState
  deriving DecidableEq, Repr

/-- What a context waits for (Table 8-1, R122, R139, R140, R153, R163, R171, R242); `reg` is the D of a BARQ, none for a BARW. -/
inductive WaitKind where
  | hjoin | hend | gattach (label : BitVec 16) | barArrive (scope : BitVec 3) | barDone (scope : BitVec 3) (reg : Option (BitVec 8))
  | copyEntry | cbufSlot | cbinit | crwait | cbacq | evwait | mpost | mrecv | waittRel | waittAbs (until_ : Word)
  | tqput | hodq | hodr | cell (id : Nat) (wave : Nat) | page (part : Nat) (ia : Nat)
  | hostPage (part : Nat) (ia : Nat) (page : Nat) | declined (ia : Nat) | monitor | watermark | sysc | reply | engine | join | hold (ending : Bool)
  deriving DecidableEq, Repr

/-- A wait: its kind, the clock it began, and the threshold current then (R24, R163). -/
structure Wait where
  kind : WaitKind
  since : Nat
  limit : Nat
  deriving DecidableEq, Repr

/-- What a later instruction of a stream depends on and whose time is not fixed (R208): the wake of a waiting
instruction, the completion of a barrier, a register that a reply or a gather writes, the join of a product. -/
inductive CondKey where
  | wait | barrier | reg (r : BitVec 8) | join
  deriving DecidableEq, Repr

/-- A condition of variable timing of a control context (R208, R209): the clock in which it was met, and of one still
unmet the clock at which the stream began to be withheld for it with the WAITTH current then. -/
structure Cond where
  key : CondKey
  met : Option Nat := none
  since : Option (Nat × Nat) := none
  deriving DecidableEq, Repr

/-- The reply of a load or an atomic on its way: destination and value (R208, log 8). -/
inductive Reply where
  /-- an s, a or k register -/
  | word (reg : BitVec 8) (val : Word)
  /-- the old value of an atomic, for which its context waits (R133) -/
  | atomic (reg : BitVec 8) (val : Word)
  /-- the lanes of a v register that the mask selects -/
  | lanes (reg : BitVec 8) (mask : Word) (val : VReg)
  /-- the bits of a tile register that the mask selects -/
  | tile (reg : BitVec 8) (bits : Nat) (val : Tile)
  /-- nothing to write: an access that only performs -/
  | done
  deriving DecidableEq, Repr

/-- Why a context is stopped: the class of its fault and the PC that a TRET resumes or skips (R91, R358). -/
structure Stop where
  cls : FaultClass
  pc : Word
  /-- what the stopped instruction was waiting for (BARTIMEOUT, R358) -/
  wait : Option WaitKind := none
  /-- the clock at which it stopped (R91) -/
  at_ : Nat := 0
  deriving DecidableEq, Repr

/-- One of the twelve contexts of a core (R13, R16). -/
structure Context where
  /-- s0 to s31; entry 0 is never read -/
  s : Vector Word 32
  /-- a0 to a15 -/
  a : Vector Word 16
  /-- p0 to p7; bit 0 is never read -/
  p : BitVec 8
  pc : Word
  /-- MONADDR (Table 1-7) -/
  monaddr : Word
  /-- the context runs a program: control placed, helper between HSTART and HEND, hod running -/
  live : Bool
  /-- HALT has taken effect (R93) -/
  halted : Bool
  stop : Option Stop
  wait : Option Wait
  /-- the WAITT remainder and the clock it was last counted at (R184) -/
  waitt : Option (Nat × Nat)
  /-- replies on their way, oldest first -/
  replies : List Reply
  /-- the waiting or stopped instruction has already been forwarded (R206) -/
  issued : Bool
  /-- the clock in which the instruction at the PC first issued, and the windows in force for it then (R27, R222) -/
  began : Nat
  held : List (Word × Word × Word)
  /-- the buffer that its waiting read in AM 6 has selected (R296) -/
  cellSel : Option CellRead
  /-- the first fetch is checked as a transfer of control (R55, R166, R273) -/
  entryCheck : Bool
  /-- no issue before this clock (R95, R172) -/
  notBefore : Nat
  /-- GISSUE stands directly before (R152) -/
  afterGissue : Bool
  /-- the core a shipped helper runs on (R334) -/
  shippedTo : Option Nat
  /-- the number of the task that a helper has been given (R185, R229) -/
  ticket : Option Nat
  deriving DecidableEq, Repr

/-- A context before anything has started it: the start values of R16, the PC zero (DESIGN CHOICE, log 5). -/
def Context.reset : Context :=
  { s := Vector.replicate 32 0, a := Vector.replicate 16 0, p := 0, pc := 0, monaddr := 0, live := false,
    halted := false, stop := none, wait := none, waitt := none, replies := [], issued := false,
    began := 0, held := [], cellSel := none, entryCheck := false, notBefore := 0, afterGissue := false, shippedTo := none, ticket := none }

/-! Engines and units of a core. -/

/-- The life of a copy (R174, R225). -/
inductive CopyState where
  | running | frozen | complete | cancelled
  deriving DecidableEq, Repr

/-- Which command started a copy (Table 11-8 KIND). -/
inductive CopyKind where
  | cpy | cpyn | cpycmb
  deriving DecidableEq, Repr

/-- A completion record that waits for room in its ring (R179, R226): status, FCODE and COUNT from when the copy completed,
froze or was cancelled. -/
structure CopyRecord where
  status : Nat
  fcode : BitVec 32
  count : Nat
  deriving DecidableEq, Repr

/-- One entry of the copy table (R174, R220, R221). Dimensions are (EXT, DSTR, SSTR), index 0 first. -/
structure Copy where
  id : BitVec 16
  kind : CopyKind
  state : CopyState
  /-- destination and source mode codes (R174) -/
  dam : BitVec 4
  sam : BitVec 4
  dst : Word
  src : Word
  /-- element bytes -/
  esz : Nat
  dims : List (Nat × Int × Int)
  total : Nat
  count : Nat
  /-- the clock of its last landing, and COUNT from before that clock (R18, R230) -/
  landed : Option (Nat × Nat) := none
  colour : BitVec 3
  /-- own-scratchpad offset of the completion-ring descriptor -/
  ring : Option Nat
  /-- the circular buffer and slot of a .CBUFn destination -/
  cbuf : Option (Nat × Nat)
  /-- PC of the command (R164) -/
  pc : Word
  /-- the windows in force at acceptance: VWB, VWL, VWI of each (R27, R221) -/
  windows : List (Word × Word × Word)
  /-- die and sites of the chip-scratchpad segments resolved at acceptance (R221) -/
  chip : Nat × List Nat
  /-- acceptance order, and the order in which it ended -/
  seq : Nat
  ended : Nat
  /-- class and code of its last fault, as FLTREC0 holds them (Table 11-8 FCODE) -/
  fcode : BitVec 32
  /-- CPYCMB: contributors and type -/
  combine : Option (Nat × BitVec 2)
  mixedOrder : Bool
  /-- the packets of a contribution have been sent (R247), and the whole sum has landed (R177) -/
  sent : Bool
  summed : Bool := false
  /-- records that wait for room in the ring, oldest first (R179, R225) -/
  owed : List CopyRecord
  /-- the table entry has been taken again: kept for the watermark registers that are bound to it (R174, R223) -/
  gone : Bool
  deriving DecidableEq, Repr

/-- A watermark register (R18, R178, R223): unbound, bound with no such copy, or bound to a copy by its acceptance
order; the last fields stand when the copy's entry has been taken again. -/
structure Watermark where
  arm : Bool
  cid : BitVec 16
  /-- acceptance order of the copy it is bound to -/
  copy : Option Nat
  poison : Bool
  frozen : Bool
  done : Bool
  count : Nat
  /-- the clock of the WMSET that bound it (R222) -/
  boundAt : Nat := 0
  deriving DecidableEq, Repr

/-- The state of a circular buffer (Table 11-9) with the slots filled out of order, in WCUR order (R227). -/
structure CBuf where
  base : Nat := 0
  size : Nat := 0
  slots : Nat := 0
  free : Nat := 0
  filled : Nat := 0
  rout : Nat := 0
  wout : Nat := 0
  rcur : Nat := 0
  wcur : Nat := 0
  /-- the outstanding write slots, oldest first: slot, taken by a copy, filled -/
  pending : List (Nat × Bool × Bool) := []
  deriving DecidableEq, Repr

/-- The sequencer (R145 to R148). -/
structure Sequencer where
  /-- the current or last macro-operation and its PC -/
  instr : Option Instr
  pc : Word
  busy : Bool
  /-- waiting for the join of R153 -/
  joining : Bool
  /-- the guard of a gang-issued product was true (R153) -/
  guard : Bool
  step : Nat
  total : Nat
  /-- the clock of the core's arrival at the join, or that from which a restored core's sequencer goes on (R346), and the
  BTO current then -/
  since : Nat
  limit : Nat
  /-- shape and bytes of tile B of segment core 0, taken at the join under .SHB -/
  shared : Option (BitVec 32 × Tile)
  /-- a TRET 01 has ended its wait for the join, where its arrival stays counted (R358) -/
  arrived : Bool := false
  deriving DecidableEq, Repr

/-- A message or fault record in a mailbox or on its way (R183). -/
structure Message where
  /-- 0 message, 1 fault record -/
  kind : BitVec 1
  ctx : Nat
  vx : BitVec 6
  vy : BitVec 5
  /-- 32 bytes, little-endian -/
  data : BitVec 256
  deriving DecidableEq, Repr

/-- A request in the hod queue (R186). -/
structure HodRequest where
  ctx : Nat
  data : BitVec 256
  deriving DecidableEq, Repr

/-- A line of a core data cache (R315, R316, R320). -/
structure CacheLine where
  part : Nat
  /-- IA of the line divided by 64 -/
  line : Nat
  /-- location of its first byte -/
  loc : Nat
  tag : BitVec 12
  era : BitVec 1
  /-- the class of Table 19-4 under which it was filled, and the granule of its page -/
  coh : BitVec 2
  gran : BitVec 2
  data : BitVec 512
  dirty : BitVec 64
  /-- bytes that cannot be read (R360, source 2 of Table 24-3) -/
  bad : BitVec 64 := 0
  deriving DecidableEq, Repr

/-- A line of an L2 slice (R245, R310, R320): partition, IA / 64, location of its first byte, granule, the tag and era of
the last context that filled or wrote it, and a valid and a dirty bit for each of its sectors. Its bytes are those of
State.mem (log 50). -/
structure L2Line where
  part : Nat
  line : Nat
  loc : Nat
  gran : BitVec 2
  tag : BitVec 12
  era : BitVec 1
  valid : BitVec 2
  dirty : BitVec 2
  deriving DecidableEq, Repr

/-- The phase state of Table 12-1; an open phase is HELD while HOLD is in effect (Gang.holds). -/
inductive Phase where
  | compute | openPhase | closed
  deriving DecidableEq, Repr

/-- A pending XMUX capture (R173): the register, the wire, the clocks of its capture, the phase clock. -/
structure Capture where
  reg : BitVec 8
  wire : BitVec 10
  phaseClk : Nat
  /-- the PC of its XMUX -/
  pc : Word
  deriving DecidableEq, Repr

/-- One instruction of a stream as its fetching core forwards it (R206, R207): what a follower executes. -/
structure StreamItem where
  pc : Word
  instr : Instr
  /-- the PC the fetching core goes on at (R83) -/
  next : Word
  /-- the branch was taken, and the fetching core's guard (R83, R93) -/
  taken : Bool
  guard : Bool
  clk : Nat
  /-- its word, and what the header forwards for the checker: line word, the slot after carries TGT, the .sig entry
  of a block that begins here (R368) -/
  word : IWord
  lineWord : BitVec 32
  last : Option Bool
  sig : Option (BitVec 16)
  /-- a reissue after a TRET of an instruction that has been forwarded before (R91, log 49) -/
  again : Bool
  deriving DecidableEq, Repr

/-- Where a core's control context takes its instructions from (R206, R214). -/
inductive StreamMode where
  | attached | bondHeader | follower (west : Nat)
  deriving DecidableEq, Repr

/-- Arrivals at one barrier scope (R171): count, one pending, its number, a raised time-out. -/
structure Barrier where
  count : Nat := 0
  pending : Bool := false
  number : BitVec 8 := 0
  raised : Bool := false
  /-- the clock of the last arrival (Table 8-2) -/
  at_ : Nat := 0
  deriving DecidableEq, Repr

/-- The block checker (R368). -/
structure Checker where
  active : Bool := false
  crc : BitVec 16 := 0
  sigix : BitVec 16 := 0
  /-- the entry of .sig, none when it could not be read -/
  expected : Option (BitVec 16) := none
  firstPc : Word := 0
  /-- blocks whose last slot has issued, not yet compared: SIGIX, computed, expected, first slot, oldest first -/
  ended : List (BitVec 16 × BitVec 16 × Option (BitVec 16) × Word) := []
  /-- the last slot of the newest of them has issued and not retired -/
  closing : Bool := false
  deriving DecidableEq, Repr

/-- One Dziup core: the state of Tables 1-2, 1-7, 11-9 and 21-2 to 21-4. -/
structure Core where
  /-- a gang is placed on it -/
  placed : Bool
  gid : BitVec 16
  vx : BitVec 6
  vy : BitVec 5
  /-- gang width − 1 and height − 1 -/
  gwm1 : BitVec 6
  ghm1 : BitVec 5
  part : BitVec 4
  tag : BitVec 12
  era : BitVec 1
  ctxs : Vector Context 12
  k : Vector Word 8
  v : Vector VReg 32
  t : Vector Tile 8
  tshp : Vector (BitVec 32) 8
  wm : Vector Watermark 8
  waitth : BitVec 32
  bto : BitVec 32
  evw : Vector Word 4
  fpmode : BitVec 4
  fpflags : BitVec 5
  sigCnt : BitVec 32
  sigLast : BitVec 16
  sigLock : Bool
  sigEn : Bool
  trappc : Word
  fltrec : FaultRecord
  /-- the clock of the fault that FLTREC holds, and the place of its context in the order of R25 -/
  fltAt : Nat × Nat
  vwb : Vector Word 16
  vwl : Vector Word 16
  vwi : Vector Word 16
  /-- input channels of the east, south, west and north sides: an entry when the full bit is set (R114) -/
  chan : Vector (Option VReg) 4
  seq : Sequencer
  /-- generations of the tiles and the operand cache's entries (tile, generation) (R151) -/
  tgen : Vector Nat 8
  operands : List (Nat × Nat)
  cbuf : Vector CBuf 8
  copies : List Copy
  copySeq : Nat
  /-- requests to the hod, oldest first -/
  hodq : List HodRequest
  mbox : List Message
  phase : Phase
  phaseEntry : BitVec 16
  /-- the phase clock of its XPH, and the last barriers of .gang or wider, and of .die or .pkg, before it (R236, R237) -/
  phaseStart : Nat
  phaseEpoch : Nat × Nat
  /-- a barrier of .gang or wider has completed since the last XEND (R233), and one of .die or .pkg (R237) -/
  barSince : Bool
  wideBarSince : Bool
  captures : List Capture
  mode : StreamMode
  /-- the instructions it has fetched and forwarded, and its place in the stream it follows -/
  stream : List StreamItem
  spos : Nat
  parked : Bool
  bars : Vector Barrier 6
  exit : BitVec 16
  dcache : List CacheLine
  checker : Checker
  /-- superstep resilience is on (R361) -/
  resil : Bool
  /-- its conditions of variable timing that the fetching core of its stream does not yet know to be met (R208) -/
  conds : List Cond
  /-- its next reissue is one of an instruction forwarded before; it reissues the instruction at which it stopped when
  its fetching core forwards it again (R91, log 49) -/
  again : Bool
  redo : Bool
  /-- the clock at which it last rejoined the gang stream (R216), and at which its control context halted (R93) -/
  rejoinedAt : Nat
  haltedAt : Nat
  /-- writes of control registers in one clock, oldest first: the clock, and number, context and value before of each
  (R25, R27) -/
  crWrites : Nat × List (Nat × Nat × Word)
  /-- v registers that pending gathers will write (R181) -/
  gathers : List (BitVec 8)
  /-- lines held by the fetch unit (R94): line address and its 512 bits -/
  lines : List (Word × BitVec 512)
  deriving DecidableEq, Repr

/-- A watermark register that reads zero (R178). -/
def Watermark.clear : Watermark :=
  { arm := false, cid := 0, copy := none, poison := false, frozen := false, done := false, count := 0 }

/-- The sequencer at its start (Table 7-1). -/
def Sequencer.reset : Sequencer :=
  { instr := none, pc := 0, busy := false, joining := false, guard := false, step := 0, total := 0, since := 0, limit := 0,
    shared := none }

/-- A core at its start values (R16, R23, R28); the fields that R23 gives "per placement" are zero before any
placement, and SIGCTL.LOCK is 0 (DESIGN CHOICE, log 5). -/
def Core.reset : Core :=
  { placed := false, gid := 0, vx := 0, vy := 0, gwm1 := 0, ghm1 := 0, part := 0, tag := 0, era := 0,
    ctxs := Vector.replicate 12 Context.reset, k := Vector.replicate 8 0, v := Vector.replicate 32 VReg.zero,
    t := Vector.replicate 8 0, tshp := Vector.replicate 8 0x00082020, wm := Vector.replicate 8 Watermark.clear,
    waitth := 50000, bto := 1000000, evw := Vector.replicate 4 0, fpmode := 0, fpflags := 0, sigCnt := 0,
    sigLast := 0, sigLock := false, sigEn := true, trappc := 0, fltrec := {}, fltAt := (0, 0), vwb := Vector.replicate 16 0,
    vwl := Vector.replicate 16 0, vwi := Vector.replicate 16 0, chan := Vector.replicate 4 none,
    seq := Sequencer.reset, tgen := Vector.replicate 8 0, operands := [], cbuf := Vector.replicate 8 {},
    copies := [], copySeq := 0, hodq := [], mbox := [], phase := .compute, phaseEntry := 0, phaseStart := 0, phaseEpoch := (0, 0),
    barSince := false, wideBarSince := false, captures := [], mode := .attached, stream := [], spos := 0,
    parked := false, bars := Vector.replicate 6 {}, exit := 0, dcache := [], checker := {}, resil := false,
    conds := [], again := false, redo := false, rejoinedAt := 0, haltedAt := 0, crWrites := (0, []), gathers := [],
    lines := [] }

/-! Gangs, launches and queues. -/

/-- A slot-table entry (Table 12-2): its 16 bytes. -/
abbrev PlanEntry := BitVec 128

/-- A range of a launch (Table 16-5): base IA and length. -/
abbrev Range := Nat × Nat

/-- What wakes a swapped gang (R283). -/
inductive WakeCondition where
  | monitor (core : Nat) (ctx : Nat) | page (part : Nat) (ia : Nat) | hostPage (part : Nat) (page : Nat)
  | waittRel (core : Nat) (ctx : Nat) | waittAbs (t : Word) | sysc (core : Nat) (ctx : Nat) | interval
  deriving DecidableEq, Repr

/-- A launch as accepted from a DISPATCH packet and its descriptor (Tables 16-4, 16-5). -/
structure Launch where
  queue : Nat
  part : Nat
  /-- acceptance order in the package -/
  order : Nat
  /-- words of the packet and of the descriptor -/
  packet : List Word
  desc : List Word
  deriving DecidableEq, Repr

/-- What the distributor places: a saved gang at the front of its queue's pending list, or a launch (R281, R283). -/
inductive Choice where
  | restore (gid : BitVec 16)
  | launch (l : Launch)
  deriving DecidableEq, Repr

/-- The completion record that an ended launch owes: partition, IA and its 16 bytes (R275). -/
structure Completion where
  part : Nat
  ia : Nat
  record : BitVec 128
  deriving DecidableEq, Repr

/-- Where a gang stands. -/
inductive GangState where
  /-- placed, its launch or resume barrier not yet complete (R273, R280) -/
  | starting
  | running
  /-- saved, back in its queue's pending list (R341, R346) -/
  | saved
  deriving DecidableEq, Repr

/-- A driving of an exchange wire (R236): sender, wire, value, its phase clock, its XSEND's PC, its origin-referred
clock and the sender's die (R237), a collision of it reported (R238). -/
structure Driving where
  core : Nat
  wire : BitVec 10
  val : Word
  clk : Nat
  pc : Word
  ref : Nat
  die : Nat
  reported : Bool := false
  /-- the phase in which it was made: its sender's phaseEpoch -/
  epoch : Nat × Nat := (0, 0)
  deriving DecidableEq, Repr

/-- A gang (R272, R273, R275, R341). -/
structure Gang where
  gid : BitVec 16
  part : Nat
  launch : Option Launch
  state : GangState
  w : Nat
  h : Nat
  die : Nat
  /-- physical numbers of its cores, row-major; of a saved gang, of its last placement -/
  cores : List Nat
  /-- package cluster numbers it holds -/
  clusters : List Nat
  /-- placement order in the package, and that of its first placement, which no other gang ever has -/
  order : Nat
  born : Nat
  supervisor : Option Nat
  plan : List PlanEntry
  /-- completion status set by a fault that firmware handles or by TRET action 2 (R357, R91) -/
  fate : Option Nat
  /-- cores that have consumed an error for which a rollback is due (R364) -/
  rollback : List Nat
  drivings : List Driving
  /-- agents that hold, and the clocks, referred to the origin, at which each HOLD took effect and was released (R242) -/
  holders : List Nat
  holds : List (Nat × Option Nat)
  /-- the HOLDs of earlier phases, first clock and end: their clocks do not count toward WAITTH (R242) -/
  pastHolds : List (Nat × Nat)
  /-- the clock of its clusters in MHz, a change asked for with the clock of the request, and the clocks of the last
  completed barriers, of .gang or wider and of .die or .pkg (R237, R240) -/
  mhz : Nat
  throttle : Option (Nat × Nat)
  barrierAt : Nat
  wideAt : Nat
  /-- clock at which a pre-emption's drain limit lapses (R340) -/
  drain : Option Nat
  /-- the launch or the first resume barrier at or after its start time has completed (R273, R280) -/
  started : Bool
  /-- the forced save has begun: the origin and every core that fetches for itself issue nothing more (R212, R341) -/
  stopping : Bool
  /-- tag and era of the task (R320) -/
  tag : BitVec 12
  era : BitVec 1
  /-- fault records that wait for room in the supervisor mailbox, of a gang that is saved (R183, R341) -/
  held : List Message
  /-- cores saved: what the device keeps of them in record and annex, scratchpads and lane slices apart (R342 to R346) -/
  saves : List Core
  /-- save slots in the partition's save area, one for each core -/
  slots : List Nat
  saveDone : Bool
  wake : Option WakeCondition
  eligible : Bool
  swappedAt : Nat
  /-- TBASE when it was saved (R184) -/
  savedTbase : Word
  /-- the cell and wave of a formula gang (R293) -/
  formula : Option (Nat × Nat)
  deriving DecidableEq, Repr

/-- A task of the task queue (R185, R229). -/
structure Task where
  /-- the model's own number of the task (Context.ticket) -/
  number : Nat
  gid : BitVec 16
  /-- package cluster number of its cluster block -/
  block : Nat
  pc : Word
  arg : Word
  /-- the target core's number, none for any core -/
  target : Option Nat
  ranges : List (Word × Nat × Nat)
  /-- issuing core, context, PC and windows, and whether that context has ended since (R229) -/
  issuer : Nat × Nat
  gone : Bool
  issuePc : Word
  windows : List (Word × Word × Word)
  /-- the core and helper it was dispatched to -/
  at_ : Option (Nat × Nat)
  started : Bool
  /-- pinned pages: partition and page IA -/
  pins : List (Nat × Nat)
  deriving DecidableEq, Repr

/-- A command queue (Table 16-1). -/
structure Queue where
  base : Word := 0
  en : Bool := false
  tkt : BitVec 12 := 0
  part : BitVec 4 := 0
  cls : BitVec 2 := 3
  log2n : BitVec 5 := 6
  tail : Word := 0
  head : Word := 0
  err : Bool := false
  ecode : BitVec 8 := 0
  pass : Word := 0
  pending : List Launch := []
  /-- saved gangs at the front of the pending list -/
  saved : List (BitVec 16) := []
  /-- the indirect buffer it is in: IA, length, bytes consumed (R279) -/
  indirect : Option (Nat × Nat × Nat) := none
  ready : Bool := false
  deriving DecidableEq, Repr

/-! Partitions, translation, cells. -/

/-- A cached leaf (R327): first IA and size covered, the leaf, and the host page it was filled through. -/
structure CachedLeaf where
  part : Nat
  base : Nat
  size : Nat
  leaf : Word
  host : Option Nat
  deriving DecidableEq, Repr

/-- A cached host translation (R330). -/
structure HostTranslation where
  pasid : BitVec 20
  page : Nat
  /-- the page of host memory that the completion has given -/
  frame : Nat
  r : Bool
  w : Bool
  deriving DecidableEq, Repr

/-- A formula binding (R288): its 160-byte record as a number, and who issued the CELL.BIND (R301, R307): gang, virtual
coordinates and PC. -/
structure Binding where
  record : Nat
  gid : BitVec 16
  /-- the gang that issued the CELL.BIND, by its number among all placements: a GANGID is used again (R307) -/
  gang : Nat
  vx : BitVec 6
  vy : BitVec 5
  pc : Word
  deriving DecidableEq, Repr

/-- A cell (Table 17-1), its chained descriptors and the state it takes at the end of its wave (R300). -/
structure Cell where
  buf0 : Nat
  buf1 : Nat
  state : CellState
  sel : Bool
  ty : BitVec 4
  rows : Nat
  cols : Nat
  pc : Word
  prec : List Nat
  /-- entries of its chained descriptors -/
  chain : List Nat
  gwm1 : BitVec 3
  ghm1 : BitVec 2
  gen : BitVec 32
  wave : BitVec 32
  level : BitVec 16
  wintab : Nat
  foff : Nat
  /-- the cycle check has put it on or below a cycle while a member of a sealed wave -/
  after : Option CellState
  deriving DecidableEq, Repr

/-- A wave (R290 to R303). -/
structure Wave where
  number : BitVec 32
  sealed : Bool
  /-- members and whether each was put -/
  members : List (Nat × Bool)
  /-- cells whose formula tasks have been placed -/
  placed : List Nat
  /-- the failing cells of an aborting wave -/
  failing : List Nat
  /-- bindings staged to its flip or abort, oldest first: cell and record -/
  staged : List (Nat × Binding)
  /-- members whose binding has changed since the wave was sealed, with the binding that it began with (R298) -/
  kept : List (Nat × Cell)
  deriving DecidableEq, Repr

/-- The automatic migration state of a page (R337, Table 20-4). -/
structure PageStat where
  settledUntil : Option Nat
  moves : List Nat
  /-- accesses from each other die since the last move -/
  counts : List Nat
  deriving DecidableEq, Repr

/-- A partition: Tables 20-2 and 21-1, its events, cells, pool and save area. -/
structure Partition where
  clu : Vector Word 4
  st : BitVec 2
  owner : BitVec 32
  drain : BitVec 32
  savebase : Word
  savecap : BitVec 24
  wtmax : BitVec 32
  ptbr : Word
  dpasid : BitVec 20
  hpasid : BitVec 20
  shbase : Word
  shlen : Word
  go : Bool
  kind : BitVec 2
  dest : Word
  shdone : Bool
  /-- the clock at which the shootdown began (R332) -/
  shSince : Nat
  revoked : BitVec 32
  pinto : BitVec 32
  mth : BitVec 16
  statq : Word
  events : Vector Word 4
  next : BitVec 32
  lastFlip : BitVec 32
  lastAbort : BitVec 32
  cells : Table Cell
  waves : List Wave
  /-- free pages of the pool that firmware holds: log2 of the size and the leaf to map (R92, R337; log 11) -/
  pool : List (Nat × Word)
  /-- frames of the pool that firmware has made into page tables (log 11) -/
  tables : List Nat
  /-- save-area slots in use -/
  slots : List Nat
  /-- service clusters (R333), package cluster numbers -/
  service : List Nat
  stats : Table PageStat
  deriving DecidableEq, Repr

/-- A partition at its reset values (Tables 20-2, 21-1, R276, R290). -/
def Partition.reset : Partition :=
  { clu := Vector.replicate 4 0, st := 0, owner := 0, drain := 2000, savebase := 0, savecap := 0,
    wtmax := 0xFFFFFFFF, ptbr := 0, dpasid := 0, hpasid := 0, shbase := 0, shlen := 0, go := false, kind := 0,
    dest := 0, shdone := false, shSince := 0, revoked := 0, pinto := 1000, mth := 1024, statq := 0,
    events := Vector.replicate 4 0, next := 1, lastFlip := 0, lastAbort := 0, cells := [], waves := [], pool := [],
    tables := [], slots := [], service := [], stats := [] }

/-! What is on its way, and the units outside the cores. -/

/-- An effect on its way to a core (R91, R167, R182, R183). -/
inductive Post where
  /-- EVSET or EVCLR of an event bit -/
  | event (core : Nat) (bit : BitVec 8) (set : Bool)
  /-- a message or fault record for a mailbox -/
  | message (core : Nat) (m : Message)
  /-- a TRET action -/
  | tret (core : Nat) (ctx : Nat) (action : BitVec 2)
  /-- the return of a shipped helper -/
  | helperReturn (core : Nat) (ctx : Nat)
  /-- a neighbour-channel entry for a side, and the clock it arrives (R114) -/
  | channel (core : Nat) (side : Nat) (arrive : Nat) (val : VReg)
  /-- a gather at its engine: the register, element bytes, lanes and addresses, the window, its PC (R181, R246) -/
  | gather (core : Nat) (reg : BitVec 8) (n : Nat) (elems : List (Nat × Word)) (window : List (Word × Word × Word))
      (pc : Word)
  deriving DecidableEq, Repr

/-- A combining packet or a combining-table entry (R247): group key, chunk, partial sum and count. -/
structure CombinePacket where
  part : Nat
  id : BitVec 16
  /-- destination IA, length and type of the group; contributors -/
  dst : Nat
  len : Nat
  ty : BitVec 2
  n : Nat
  chunk : Nat
  sum : List Byte
  cnt : Nat
  /-- the router it stands at, counted 64 × die + site, and the die of the contributing cores, which homes a chunk of a REPL
  page (R263); its next hop is known from the chunk's home -/
  at_ : Nat
  die : Nat
  overflow : Bool
  /-- clock of the last arrival -/
  since : Nat
  /-- contributing copies: placement order of the gang, the core's place in it, acceptance order -/
  from_ : List (Nat × Nat × Nat)
  deriving DecidableEq, Repr

/-- A directory entry (Table 19-5): span, base, state, holders (clusters of the home die), other dies, the clock of the
last recall or change, and that of the last request (R323). -/
structure DirEntry where
  part : Nat
  span : Nat
  base : Nat
  /-- 0 I, 1 S, 2 E -/
  st : BitVec 2
  holders : List Nat
  ovf : Bool
  rdie : BitVec 4
  qt : Nat
  asked : Nat
  deriving DecidableEq, Repr

/-- A SYSC request waiting in firmware (R92). -/
structure SyscRequest where
  core : Nat
  ctx : Nat
  gid : BitVec 16
  service : BitVec 16
  /-- the clock at which it was sent, or, of a PAGE.PUT whose shootdown has begun, that of the beginning (R332) -/
  since : Nat
  begun : Bool
  s2 : Word
  s3 : Word
  /-- the reply when it has come while the gang was away: s1 and s2 -/
  answer : Option (Word × Word)
  deriving DecidableEq, Repr

/-- What firmware has told the host (R90, R357, R370, R376, R379, R380, R303): records and notices, newest first. -/
inductive HostNotice where
  | record (r : FaultRecord)
  | takeover
  | thermalTrip
  | capExcess (watts : Nat)
  | clusterRetired (cluster : Nat)
  | waveAborted (part : Nat) (cell : Nat) (exit : Option (BitVec 16))
  | invalidationComplete
  | pageRequest (pasid : BitVec 20) (page : Nat)
  | dump
  | unsupportedRequest
  /-- the data of a host read (R266) -/
  | hostRead (data : Word)
  deriving DecidableEq, Repr

/-- A host or page request outstanding (R331): partition and page IA, and host address when it is for a host page. -/
structure PageRequest where
  part : Nat
  page : Nat
  host : Option Nat
  deriving DecidableEq, Repr

/-- A monitor armed by WAITM (R139): the context, the register that takes the reason, the sector's location, its
addressing mode, a write seen. -/
structure Monitor where
  core : Nat
  ctx : Nat
  reg : BitVec 8
  sector : Nat
  am : BitVec 3
  gid : BitVec 16
  hit : Bool
  /-- the line has left the core's data cache (Table 6-7) -/
  evicted : Bool := false
  deriving DecidableEq, Repr

/-- The service tile (Tables 24-9, 25-1; R382, R385). -/
structure Service where
  mod : Bool
  grade : BitVec 16
  live : Vector Word 4
  ret : Vector Word 4
  fwver : BitVec 16
  sbok : Bool
  act : BitVec 1
  fwimg : Word
  go : Bool
  fwst : BitVec 8
  pwrq : BitVec 6
  cap : BitVec 16
  pst : BitVec 3
  trip : Bool
  tmax : BitVec 16
  ereq : Bool
  ekind : BitVec 1
  epart : BitVec 5
  eaddr : Word
  nonce : BitVec 128
  epoch : Word
  /-- counters and their core parts, and their checkpoints, in µJ: a counter reads in whole mJ and carries the rest
  (R382, R383) -/
  energy : Vector Nat 17
  energyCore : Vector Nat 17
  checkpoint : Vector Nat 17
  checkpointCore : Vector Nat 17
  /-- samples since the start of the epoch, and TBASE and the owners at the last one (R385) -/
  seq : Nat
  sampleAt : Word
  sampleOwners : Vector (BitVec 32) 16
  unclean : Bool
  dbase : Word
  dlen : BitVec 16
  dumpDone : Bool
  dumpTrunc : Bool
  dumpVer : BitVec 16
  /-- a dump has been written since the last reset (R372) -/
  dumped : Bool
  /-- the arithmetic clock in MHz, and stopped by a trip (R378, R380) -/
  mhz : Nat
  stopped : Bool
  /-- stopped by a fatal error (R371) -/
  fatal : Bool
  /-- the images that the active and the standby complex run; that of manufacture is [] (R377, log 9) -/
  activeImage : List Byte
  standbyImage : List Byte
  /-- the cluster the in-field test takes next, and the one it has taken (R370) -/
  nextTest : Nat
  testing : Option Nat
  /-- package index in the pod (PXY.PKG, Table 1-7) -/
  pkg : BitVec 12
  /-- the directory's quiet interval, the resume interval of a swap, and the limit of a throttle in µs, which firmware sets
  (R240, R283, R319) -/
  quiet : Nat
  resume : Nat
  throttleUs : Nat
  /-- the clusters that have changed owner since the last sample, with the outgoing owner of each and the clock of the change;
  the partitions that have, with the OWNER before (R383, R388) -/
  outgoing : Table (Nat × Nat)
  exOwners : Table (BitVec 32 × Nat)
  /-- the weights of events in pJ (R384, Table 25-5) -/
  weights : Vector Nat 7
  deriving DecidableEq, Repr

/-- The service tile at reset: Table 25-1, fuses of a 9064 (log 4), values the spec leaves open (log 5). -/
def Service.reset : Service :=
  { mod := false, grade := 0x2368, live := Vector.replicate 4 0xFFFFFFFFFFFFFFFF, ret := Vector.replicate 4 0,
    fwver := 0, sbok := true, act := 0, fwimg := 0, go := false, fwst := 0, pwrq := 0, cap := 3200, pst := 0,
    trip := false, tmax := 0, ereq := false, ekind := 0, epart := 0, eaddr := 0, nonce := 0, epoch := 0,
    energy := Vector.replicate 17 0, energyCore := Vector.replicate 17 0, checkpoint := Vector.replicate 17 0,
    checkpointCore := Vector.replicate 17 0, seq := 0, sampleAt := 0, sampleOwners := Vector.replicate 16 0, unclean := false, dbase := 0, dlen := 0, dumpDone := false,
    dumpTrunc := false, dumpVer := 0, dumped := false, mhz := 1050, stopped := false, fatal := false, activeImage := [],
    standbyImage := [], nextTest := 0, testing := none, pkg := 0,
    quiet := 1048576, resume := 1048576, throttleUs := 1000, outgoing := [], exOwners := [], weights := #v[1400, 2600, 9600, 2500, 300, 50, 400] }

/-- Who acts next (log 1). -/
inductive Turn where
  /-- one clock of the arithmetic clock passes -/
  | clock
  /-- a context of a core may issue -/
  | issue (core : Nat) (ctx : Fin 12)
  /-- an event row of the opcode table happens -/
  | event (i : Instr) (args : EventArgs)
  deriving DecidableEq, Repr

/-- What a follower executes under: the outcome of its stream's fetching core (R83). -/
structure Forward where
  next : Word
  taken : Bool
  guard : Bool
  deriving DecidableEq, Repr

/-- The context whose turn it is (log 1), in a follower the outcome forwarded to it, and the arguments of the event. -/
structure Current where
  core : Nat
  ctx : Fin 12
  forwarded : Option Forward
  /-- the arguments of the event whose turn it is -/
  args : EventArgs
  deriving DecidableEq, Repr

/-- The whole machine. -/
structure State where
  clk : Nat
  /-- TBASE (Table 1-7) -/
  tbase : Word
  agenda : List Turn
  cur : Current
  /-- free values drawn: the model's own counter (log 9) -/
  freeCtr : Nat
  mem : Memory
  /-- locations of bytes, of v and t registers and of wire stages that read as uncorrectable: poisoned or not, and the source of
  Table 24-3 (R314, R360); those of a line of a core data cache stand in the line -/
  bad : Table (Bool × BitVec 3)
  cores : Table Core
  gangs : List Gang
  parts : Vector Partition 16
  queues : Vector Queue 64
  /-- launches accepted and gangs placed so far in the package -/
  orders : Nat
  /-- a placement that waits for a table of its launch, with the dies and clusters reserved for it (R270, R282) -/
  placement : Option (Choice × List (Nat × List Nat))
  /-- completion records whose page is not present yet (R275, R331) -/
  completions : List Completion
  posts : List Post
  /-- drivings of bridge wires on their way from gangs that have ended: partition, launch group and driving (R237) -/
  orphans : List (Nat × BitVec 16 × Driving)
  tasks : List Task
  sysc : List SyscRequest
  monitors : List Monitor
  pageRequests : List PageRequest
  /-- pages that the host has declined, until the engine work or the packet that asked takes its error (R225, R268,
  R331): partition and page IA, or 2^64 + host page number -/
  declined : List (Nat × Nat)
  /-- attribute caches by package cluster number, memory translators and address translation caches by die (R327, R330) -/
  attrCache : Table (List CachedLeaf)
  memXlat : Table (List CachedLeaf)
  hostXlat : Table (List HostTranslation)
  /-- translations asked for: die, PASID and host page (R330) -/
  hostAsked : List (Nat × BitVec 20 × Nat)
  /-- directory entries by home slice, 64 × die + site (R317) -/
  dirs : Table (List DirEntry)
  /-- RD of the lines of sector and line pages, by location of the line (R313) -/
  rd : Table (BitVec 4)
  /-- lines of the L2 slices by home slice, 64 × die + site, the last used first (R245, R320) -/
  l2 : Table (List L2Line)
  /-- the clock of the last evictions from core data caches, and what they evicted: core, partition, IA / 64 (R323) -/
  evictions : Nat × List (Nat × Nat × Nat)
  /-- bits of DRAM that differ from what was written, by location of the data byte or of the side byte (log 50), and the
  corrections counted against sub-channels, die × 128 + 8 × gang group + sub-channel (R312, R314) -/
  errs : Table Byte
  corrections : Table Nat
  /-- firmware's tag table: the partition of each tag (R320) -/
  tagTable : Table Nat
  /-- combining packets on their way and combining tables, by router (R247); sums staged at the home slices -/
  packets : List CombinePacket
  combiners : Table (List CombinePacket)
  /-- arrays in retention sleep: a core's data cache by its core, an L2 slice by 8192 + its slice, and the counter at sleep (R321) -/
  asleep : Table Nat
  /-- the tag counter: the next tag is its low 12 bits, the era the bit above (R320) -/
  tagsIssued : Nat
  /-- failed sub-channels: die, gang group, sub-channel (R314) -/
  failed : List (Nat × Nat × Nat)
  /-- the last 4,096 fault records, newest first (R373), and what firmware told the host -/
  records : List FaultRecord
  notices : List HostNotice
  service : Service
  deriving DecidableEq, Repr

/-- The machine right after reset (log 4, log 5, log 6): nothing placed, every register at its reset value. -/
def State.reset : State :=
  { clk := 0, tbase := 0, agenda := [], cur := { core := 0, ctx := 0, forwarded := none, args := {} }, freeCtr := 0, mem := [],
    bad := [], cores := [], gangs := [], parts := Vector.replicate 16 Partition.reset,
    queues := Vector.replicate 64 {}, orders := 0, placement := none, completions := [], posts := [], orphans := [], tasks := [], sysc := [], monitors := [],
    pageRequests := [], declined := [], attrCache := [], memXlat := [], hostXlat := [], hostAsked := [], dirs := [], rd := [],
    l2 := [], evictions := (0, []), errs := [], corrections := [], tagTable := [],
    packets := [], combiners := [], asleep := [], tagsIssued := 0, failed := [], records := [], notices := [],
    service := Service.reset }

end Sys2Proof.Machine
end

