-- ==== Sys2Proof/Machine/Ops.lean ====
section
/-! DEFINITION. The named operations over tables, memory, cores, contexts, registers and gangs; taking an exception,
and the return from one. -/

namespace Sys2Proof.Machine

/-- What a meaning answers. -/
abbrev Out := Host.Outcome State Fault Refusal

/-! Sparse tables. -/

/-- The entry of a number. -/
def Table.find {α : Type} : Table α → Nat → Option α
  | [], _ => none
  | (k, x) :: m, n => if k = n then some x else Table.find m n

/-- Sets the entry of a number, keeping the order. -/
def Table.set {α : Type} : Table α → Nat → α → Table α
  | [], n, x => [(n, x)]
  | (k, y) :: m, n, x =>
    if n < k then (n, x) :: (k, y) :: m else if k = n then (n, x) :: m else (k, y) :: Table.set m n x

/-- Removes the entry of a number. -/
def Table.erase {α : Type} (m : Table α) (n : Nat) : Table α := m.filter (fun e => e.1 != n)

/-! Memory: one byte, then runs of bytes, little-endian (R6). -/

/-- The byte at a location (log 6, log 7). -/
def Memory.read : Memory → Nat → Byte
  | [], _ => Memory.unlisted
  | (k, x) :: m, a => if k = a then x else Memory.read m a

/-- Writes the byte at a location, keeping the canonical form. -/
def Memory.write : Memory → Nat → Byte → Memory
  | [], a, b => if b = Memory.unlisted then [] else [(a, b)]
  | (k, x) :: m, a, b =>
    if a < k then (if b = Memory.unlisted then (k, x) :: m else (a, b) :: (k, x) :: m)
    else if k = a then (if b = Memory.unlisted then m else (a, b) :: m)
    else (k, x) :: Memory.write m a b

/-- `n` bytes from a location up. -/
def Memory.readBytes (m : Memory) (a n : Nat) : List Byte := (List.range n).map (fun i => m.read (a + i))

/-- Writes bytes from a location up, in ascending order. -/
def Memory.writeBytes (m : Memory) (a : Nat) : List Byte → Memory
  | [] => m
  | b :: bs => Memory.writeBytes (m.write a b) (a + 1) bs

/-- The little-endian value of `n` bytes. -/
def Memory.readNat (m : Memory) (a n : Nat) : Nat := natOfBytes (m.readBytes a n)

/-- The 64-bit word at a location. -/
def Memory.readWord (m : Memory) (a : Nat) : Word := BitVec.ofNat 64 (m.readNat a 8)

/-! Cores and contexts. -/

/-- A core by its physical number: die × 2,048 + site × 32 + cluster position (log 7). -/
def State.core (s : State) (n : Nat) : Core := (Table.find s.cores n).getD Core.reset

/-- Replaces a core. -/
def State.setCore (s : State) (n : Nat) (c : Core) : State := { s with cores := Table.set s.cores n c }

/-- Changes a core. -/
def State.modCore (s : State) (n : Nat) (f : Core → Core) : State := s.setCore n (f (s.core n))

/-- A context of a core: 0 control, 1 to 10 helpers, 11 hod (R91). -/
def Core.ctx (c : Core) (x : Nat) : Context := c.ctxs.getD x Context.reset

/-- Replaces a context of a core. -/
def Core.setCtx (c : Core) (x : Nat) (v : Context) : Core := { c with ctxs := c.ctxs.setIfInBounds x v }

/-- Changes a context of a core. -/
def Core.modCtx (c : Core) (x : Nat) (f : Context → Context) : Core := c.setCtx x (f (c.ctx x))

/-- Changes a context of a core. -/
def State.modCtx (s : State) (n x : Nat) (f : Context → Context) : State := s.modCore n (·.modCtx x f)

/-- The core whose turn it is. -/
def State.me (s : State) : Core := s.core s.cur.core

/-- The context whose turn it is. -/
def State.my (s : State) : Context := s.me.ctx s.cur.ctx.val

/-- Changes the core whose turn it is. -/
def State.modMe (s : State) (f : Core → Core) : State := s.modCore s.cur.core f

/-- Changes the context whose turn it is. -/
def State.modMy (s : State) (f : Context → Context) : State := s.modCtx s.cur.core s.cur.ctx.val f

/-- The control context has the turn. -/
def State.isControl (s : State) : Bool := s.cur.ctx.val == 0

/-- The hod context has the turn. -/
def State.isHod (s : State) : Bool := s.cur.ctx.val == 11

/-- The die of a core. -/
def dieOf (core : Nat) : Nat := core / 2048
/-- The package cluster number of a core, 64 × die + site (R370). -/
def clusterOf (core : Nat) : Nat := core / 32

/-! Registers (R16, R17). -/

/-- An s or a register of a context by its number in the unified space; s0 reads zero. -/
def Context.sa (c : Context) (r : BitVec 8) : Word :=
  if r.toNat = 0 then 0
  else if r.toNat < 32 then c.s.getD r.toNat 0
  else if r.toNat < 48 then c.a.getD (r.toNat - 32) 0
  else 0

/-- Writes an s or a register; a write to s0 is discarded. -/
def Context.setSA (c : Context) (r : BitVec 8) (v : Word) : Context :=
  if r.toNat = 0 then c
  else if r.toNat < 32 then { c with s := c.s.setIfInBounds r.toNat v }
  else if r.toNat < 48 then { c with a := c.a.setIfInBounds (r.toNat - 32) v }
  else c

/-- A p register by number 0 to 7; p0 reads true. -/
def Context.pred (c : Context) (n : Nat) : Bool := n = 0 || c.p.getLsbD n

/-- Writes a p register; a write to p0 is discarded. -/
def Context.setPred (c : Context) (n : Nat) (b : Bool) : Context :=
  if n = 0 then c
  else { c with p := if b then c.p ||| (1#8 <<< n) else c.p &&& ~~~(1#8 <<< n) }

/-- An s or a register of the context whose turn it is. -/
def State.sa (s : State) (r : BitVec 8) : Word := s.my.sa r

/-- Writes an s or a register of the context whose turn it is. -/
def State.setSA (s : State) (r : BitVec 8) (v : Word) : State := s.modMy (·.setSA r v)

/-- The p register named by a field, 48 to 55. -/
def State.preg (s : State) (r : BitVec 8) : Bool := s.my.pred (r.toNat - 48)

/-- Writes the p register named by a field. -/
def State.setPreg (s : State) (r : BitVec 8) (b : Bool) : State := s.modMy (·.setPred (r.toNat - 48) b)

/-- The k register named by a field, 56 to 63. -/
def State.kreg (s : State) (r : BitVec 8) : Word := s.me.k.getD (r.toNat - 56) 0

/-- Writes the k register named by a field. -/
def State.setKreg (s : State) (r : BitVec 8) (v : Word) : State :=
  s.modMe (fun c => { c with k := c.k.setIfInBounds (r.toNat - 56) v })

/-- The v register named by a field, 64 to 95. -/
def State.vreg (s : State) (r : BitVec 8) : VReg := s.me.v.getD (r.toNat - 64) VReg.zero

/-- Writes the v register named by a field. -/
def State.setVreg (s : State) (r : BitVec 8) (v : VReg) : State :=
  s.modMe (fun c => { c with v := c.v.setIfInBounds (r.toNat - 64) v })

/-- The t register named by a field, 96 to 103. -/
def State.treg (s : State) (r : BitVec 8) : Tile := s.me.t.getD (r.toNat - 96) 0

/-- Writes the t register named by a field; its generation advances (R151). -/
def State.setTreg (s : State) (r : BitVec 8) (v : Tile) : State :=
  s.modMe (fun c => { c with t := c.t.setIfInBounds (r.toNat - 96) v,
                             tgen := c.tgen.setIfInBounds (r.toNat - 96) (c.tgen.getD (r.toNat - 96) 0 + 1) })

/-- An s, a or k register (MOV, R78; form 00 of the mask instructions, R113). -/
def State.sak (s : State) (r : BitVec 8) : Word := if okK r then s.kreg r else s.sa r

/-- Writes an s, a or k register. -/
def State.setSAK (s : State) (r : BitVec 8) (v : Word) : State := if okK r then s.setKreg r v else s.setSA r v

/-! Program counters (R52, R53, R84). -/

/-- The PC that follows in address order: the next slot, or slot 0 of the next line after slot 4. -/
def nextPc (pc : Word) : Word := if pc &&& 7 = 4 then (pc &&& ~~~63) + 64 else pc + 1

/-- A PC is well formed: bits [5:3] zero and a slot 0 to 4 (R53). -/
def okPc (pc : Word) : Bool := (pc &&& 0x38) == 0 && (pc &&& 7).toNat ≤ 4

/-- The PC of a slot of the line that lies a displacement of lines from that of `pc` (R64, R166). -/
def linePc (pc : Word) (dline : BitVec 32) (slot : BitVec 3) : Word :=
  (((pc &&& ~~~63) + dline.signExtend 64 * 64) &&& ~~~63) ||| slot.zeroExtend 64

/-- The context goes on at `pc`: its instruction has retired. -/
def State.goTo (s : State) (pc : Word) : State :=
  s.modMy (fun c => { c with pc := pc, wait := none, issued := false, afterGissue := false })

/-- The context goes on at the following instruction. -/
def State.advance (s : State) : State := s.goTo (nextPc s.my.pc)

/-- The guard of an instruction: p[G] XOR GN (R61). -/
def State.guard (s : State) (g : BitVec 3) (gn : BitVec 1) : Bool := s.my.pred g.toNat != (gn == 1)

/-- A guarded-off instruction has no effect but the PC's advance (R61). -/
def guarded (g : BitVec 3) (gn : BitVec 1) (s : State) (k : State → Out) : Out :=
  if s.guard g gn then k s else .next s.advance

/-! Gangs. -/

/-- The gang with a GANGID. -/
def State.gang? (s : State) (gid : BitVec 16) : Option Gang := s.gangs.find? (fun g => g.gid == gid)

/-- Changes the gang with a GANGID. -/
def State.modGang (s : State) (gid : BitVec 16) (f : Gang → Gang) : State :=
  { s with gangs := s.gangs.map (fun g => if g.gid == gid then f g else g) }

/-- The gang placed on a core. -/
def State.gangOf (s : State) (core : Nat) : Option Gang :=
  if (s.core core).placed then s.gang? (s.core core).gid else none

/-- The physical number of the core at virtual (x, y) of a gang; none outside it. -/
def Gang.coreAt (g : Gang) (x y : Nat) : Option Nat :=
  if x < g.w && y < g.h then g.cores[y * g.w + x]? else none

/-- The distance across a gang in clk: a gang barrier takes it (Table 8-2), HOLD (R242), and a report to the origin
(R208). -/
def Gang.span (g : Gang) : Nat := 4 + 2 * ((g.w + 7) / 8 - 1) + 2 * ((g.h + 3) / 4 - 1)

/-- The origin of a gang. -/
def Gang.origin (g : Gang) : Nat := g.cores.headD 0

/-- The core named by VX in bits [5:0] and VY in bits [12:8] of a register (R91, R182). -/
def State.namedCore (s : State) (w : Word) : Option Nat :=
  match s.gangOf s.cur.core with
  | none => none
  | some g => g.coreAt (w.extractLsb' 0 6).toNat (w.extractLsb' 8 5).toNat

/-- The core of the gang at virtual (x, y), as seen from a core of it. -/
def State.peer (s : State) (core x y : Nat) : Option Nat :=
  match s.gangOf core with
  | none => none
  | some g => g.coreAt x y

/-- The clocks of one HOLD that a core of a skew has paused by a clock. -/
def holdClocks (skew clk : Nat) (h : Nat × Option Nat) : Nat :=
  (match h.2 with | some r => min clk (r + skew) | none => clk) - (h.1 + skew)

/-- The phase clock of a core (R233): the clock less what HOLD has paused. -/
def State.phaseClock (s : State) (core : Nat) : Nat :=
  match s.gangOf core with
  | some g => s.clk - (g.holds.map (holdClocks ((s.core core).vx.toNat + (s.core core).vy.toNat) s.clk)).foldl (· + ·) 0
  | none => s.clk

/-- The clocks from `since` on that a HOLD has paused a core of a skew. -/
def pausedSince (skew clk since : Nat) (h : Nat × Option Nat) : Nat :=
  (match h.2 with | some r => min clk (r + skew) | none => clk) - max since (h.1 + skew)

/-- The clocks of a wait of a core that count toward WAITTH: those since its begin without the clocks of HOLD (R242). -/
def State.waited (s : State) (core since : Nat) : Nat :=
  match s.gangOf core with
  | some g =>
    let skew := (s.core core).vx.toNat + (s.core core).vy.toNat
    (s.clk - since) - ((g.holds ++ g.pastHolds.map (fun h => (h.1, some h.2))).map (pausedSince skew s.clk since)).foldl (· + ·) 0
  | none => s.clk - since

/-- HOLD is in effect at a core, from the clock after the one in which it takes effect, while some core of the gang has
a phase open (R242, R249). -/
def State.isPaused (s : State) (core : Nat) : Bool :=
  match s.gangOf core with
  | some g =>
    let skew := (s.core core).vx.toNat + (s.core core).vy.toNat
    g.cores.any (fun n => (s.core n).phase == .openPhase) &&
    g.holds.any (fun h => decide (h.1 + skew < s.clk) && match h.2 with
      | some r => decide (s.clk ≤ r + skew)
      | none => true)
  | none => false

/-- An open phase is HELD (Table 12-1). -/
def State.isHeld (s : State) (core : Nat) : Bool := (s.core core).phase == .openPhase && s.isPaused core

/-- Changes a partition. -/
def State.modPart (s : State) (q : Nat) (f : Partition → Partition) : State :=
  { s with parts := s.parts.setIfInBounds q (f (s.parts.getD q Partition.reset)) }

/-- A partition. -/
def State.part (s : State) (q : Nat) : Partition := s.parts.getD q Partition.reset

/-- A queue. -/
def State.queue (s : State) (q : Nat) : Queue := s.queues.getD q {}

/-- Changes a queue. -/
def State.modQueue (s : State) (q : Nat) (f : Queue → Queue) : State :=
  { s with queues := s.queues.setIfInBounds q (f (s.queue q)) }

/-- A free value, and the counter moved on (log 9). -/
def State.free (s : State) : Word × State := (Config.freeWord s.freeCtr, { s with freeCtr := s.freeCtr + 1 })

/-! Writes to locations: the monitors and the undo log see every one of them. -/

/-- Marks the monitors of the sector that holds a location (R139). -/
def State.touch (s : State) (loc : Nat) : State :=
  { s with monitors := s.monitors.map (fun m => if m.sector == loc / 32 then { m with hit := true } else m) }

/-- Writes one byte at a location; the byte's error mark goes with its old value (R314). -/
def State.poke (s : State) (loc : Nat) (b : Byte) : State :=
  { s.touch loc with mem := s.mem.write loc b, bad := Table.erase s.bad loc }

/-- Writes bytes from a location up. -/
def State.pokes (s : State) (loc : Nat) : List Byte → State
  | [] => s
  | b :: bs => State.pokes (s.poke loc b) (loc + 1) bs

/-- The byte of a core's scratchpad at an offset. -/
def State.spRead (s : State) (core off : Nat) : Byte := s.mem.read (Config.spLoc core off)

/-- `n` bytes of a core's scratchpad as a number. -/
def State.spNat (s : State) (core off n : Nat) : Nat := s.mem.readNat (Config.spLoc core off) n

/-- The undo log's word 0 of a core (Table 24-6). -/
def State.undoWord (s : State) (core : Nat) : Word := s.mem.readWord (Config.spLoc core 0x1C000)

/-- Makes a core's superstep non-restartable, with the first cause (R363). -/
def State.nonRestartable (s : State) (core cause : Nat) : State :=
  if (s.core core).resil && !(s.undoWord core).getLsbD 8 then
    let w := bytesOfNat 8 ((s.undoWord core).toNat + 256 + cause * 4096)
    { s with mem := Memory.writeBytes s.mem (Config.spLoc core 0x1C000) w }
  else s

/-- Logs the before-image of a scratchpad line at its first write in the superstep (R362, R363). -/
def State.undoLog (s : State) (core off : Nat) : State :=
  if !(s.core core).resil || off ≥ Config.undoBase then s
  else
    let line := off / 64
    let n := (s.undoWord core).toNat % 256
    if (List.range n).any (fun i => s.spNat core (0x1C1C0 + 2 * i) 2 == line) then s
    else if n ≥ 240 then s.nonRestartable core 1
    else
      let m := s.mem.writeBytes (Config.spLoc core (0x1C1C0 + 2 * n)) (bytesOfNat 2 line)
      let m := m.writeBytes (Config.spLoc core (0x1C400 + 64 * n)) (m.readBytes (Config.spLoc core (line * 64)) 64)
      { s with mem := m.writeBytes (Config.spLoc core 0x1C000) (bytesOfNat 8 ((s.undoWord core).toNat + 1)) }

/-- A write into a core's scratchpad by the core itself: logged first (R362). -/
def State.spWriteOwn (s : State) (core off : Nat) (b : Byte) : State :=
  (s.undoLog core off).poke (Config.spLoc core off) b

/-- A write into a core's scratchpad by another core or an engine: the superstep is no longer restartable (R363). -/
def State.spWriteForeign (s : State) (core off : Nat) (b : Byte) : State :=
  (s.nonRestartable core 2).poke (Config.spLoc core off) b

/-- Bytes written by an engine into a core's scratchpad. -/
def State.spWrites (s : State) (core off : Nat) : List Byte → State
  | [] => s
  | b :: bs => State.spWrites (s.spWriteForeign core off b) core (off + 1) bs

/-- Bytes written by a context of the core itself into its scratchpad. -/
def State.spWritesOwn (s : State) (core off : Nat) : List Byte → State
  | [] => s
  | b :: bs => State.spWritesOwn (s.spWriteOwn core off b) core (off + 1) bs

/-! Taking an exception (R354 to R358). -/

/-- CLASS of a fault class (Table 24-2). -/
def FaultClass.number : FaultClass → Nat
  | .illegal => 1 | .badTarget => 2 | .fetchPar => 3 | .resFmt => 4 | .winMiss => 5 | .page => 6 | .prot => 7
  | .hodOnly => 8 | .xPhase => 9 | .xCollide => 10 | .wmPoison => 11 | .cellStore => 12 | .cellCyc => 13
  | .cellState => 14 | .barTimeout => 15 | .sigMismatch => 16 | .uce => 17 | .pinRevoked => 18 | .trap => 19

/-- What a fault reports: class, code, operand, PC, and for an asynchronous one the PC current at delivery, and the
record number of a copy that names a ring. -/
structure FaultInfo where
  cls : FaultClass
  code : BitVec 16
  operand : Word
  pc : Word
  async : Bool := false
  dpc : Word := 0
  idx : BitVec 15 := 0x7FFF

/-- The record of a fault (Table 24-1). -/
def faultRecord (fatal : Bool) (part : BitVec 4) (ctx : Nat) (vy : BitVec 5) (vx : BitVec 6) (i : FaultInfo) :
    FaultRecord :=
  { w0 := BitVec.ofBool fatal ++ 0#3 ++ part ++ 0#4 ++ BitVec.ofNat 4 ctx ++ 0#3 ++ vy ++ 0#2 ++ vx ++ 0#8
      ++ BitVec.ofNat 8 i.cls.number ++ i.code
    w1 := i.pc
    w2 := i.operand
    w3 := BitVec.ofBool i.async ++ i.idx ++ (if i.async then i.dpc else i.pc).extractLsb' 0 48 }

/-- The 32 bytes of a record, FLTREC0 first (R354). -/
def FaultRecord.bytes (r : FaultRecord) : BitVec 256 := r.w3 ++ r.w2 ++ r.w1 ++ r.w0

/-- A formula gang's faults go to the recalculation engine, and a gang without supervision's to firmware: either
ends the gang (R90, R295, R357). -/
def Gang.endsOnFault (g : Gang) : Bool := g.supervisor.isNone || g.formula.isSome

/-- Delivers a record: to the supervisor mailbox, which a saved gang has again when it is restored, or to firmware, which
reports it and, when it ends the gang, ends it (R357). -/
def State.deliver (s : State) (gid : BitVec 16) (ctx : Nat) (vx : BitVec 6) (vy : BitVec 5) (ends : Bool)
    (r : FaultRecord) : State :=
  let s := { s with records := (r :: s.records).take 4096 }
  let told := { s with notices := .record r :: s.notices }
  match s.gang? gid with
  | none => told
  | some g =>
    if ends then told.modGang gid (fun g => { g with fate := g.fate.or (some 1) })
    else match g.supervisor with
      | some sup =>
        let m : Message := { kind := 1, ctx := ctx, vx := vx, vy := vy, data := r.bytes }
        if g.saveDone then s.modGang gid (fun g => { g with held := g.held ++ [m] })
        else { s with posts := s.posts ++ [.message sup m] }
      | none => told

/-- The last slot of a block does not retire: the block has not ended (R368). -/
def Checker.reopen (k : Checker) : Checker :=
  if k.closing then { k with closing := false, ended := k.ended.dropLast } else k

/-- The place of a context among those that fault in one clock: control, hod, h1 to h10, whose later one FLTREC keeps (R25). -/
def faultRank (ctx : Nat) : Nat := if ctx = 0 then 0 else if ctx = 11 then 1 else ctx + 1

/-- A core takes a record into FLTREC0 to FLTREC3, unless they hold one of a later context of the same clock (R25). -/
def Core.keepRecord (c : Core) (clk ctx : Nat) (r : FaultRecord) : Core :=
  if c.fltAt.1 = clk && decide (faultRank ctx < c.fltAt.2) then c
  else { c with fltrec := r, fltAt := (clk, faultRank ctx) }

/-- What a fault does to its core: FLTREC takes the record, and a context that it stops is stopped (R356, R37). -/
def Core.takeFault (c : Core) (clk ctx : Nat) (i : FaultInfo) (stops : Bool) (r : FaultRecord) : Core :=
  let c := { c.keepRecord clk ctx r with
                    parked := c.parked || (stops && i.cls == .resFmt)
                    checker := if stops && ctx = 0 then c.checker.reopen else c.checker }
  if stops then
    c.modCtx ctx (fun x =>
      { x with stop := some { cls := i.cls, pc := i.pc, wait := x.wait.map (·.kind), at_ := clk }, wait := none })
  else c

/-- Taking an exception, the one shared operation: the record is formed, FLTREC0 to FLTREC3 take it, the context
stops (a RESFMT parks the core, R37), and the record is delivered (R354 to R357). `stops` is false for a fault that
stops no context; `fatal` marks a record that ends its gang under R365; `spare` one that never ends it: a rolled-back
fault (R357). -/
def State.takeFault (s : State) (core ctx : Nat) (i : FaultInfo) (stops : Bool := true) (fatal : Bool := false)
    (spare : Bool := false) : State :=
  let c := s.core core
  let ends := fatal || (!spare && match s.gang? c.gid with | some g => g.endsOnFault | none => false)
  let r := faultRecord ends c.part ctx c.vy c.vx i
  let clk := s.clk
  let s := s.modCore core (fun c => c.takeFault clk ctx i stops r)
  s.deliver c.gid ctx c.vx c.vy ends r

/-- Something that a context has issued has not completed: a load or an atomic, and of the control context a macro-operation
or a gather (R71, R146). A capture of an XMUX that is still to come does not count: no rule says so (DESIGN CHOICE, log 43). -/
def State.unfinished (s : State) (core ctx : Nat) : Bool :=
  let c := s.core core
  !(c.ctx ctx).replies.isEmpty || ctx == 0 && (c.seq.busy || !c.gathers.isEmpty)

/-- The PAGE fault of a context for whose access the host has declined the page (R331). -/
def State.declinedFault (s : State) (core ctx ia : Nat) : State :=
  s.takeFault core ctx { cls := .page, code := 0, operand := BitVec.ofNat 64 ia, pc := ((s.core core).ctx ctx).pc }

/-- The superstep of a core's gang can be rolled back: no core is non-restartable, and the core has rolled back less
than twice (R363, R364). -/
def State.restartable (s : State) (core : Nat) : Bool :=
  ((s.undoWord core).extractLsb' 16 2).toNat < 2 && match s.gangOf core with
  | some g => g.cores.all (fun n => !(s.undoWord n).getLsbD 8)
  | none => false

/-- A consumed uncorrectable error, or a mismatch of the checker (R364, R365, R357): under resilience it rolls the gang
back, stopping nothing, or ends it; without, a UCE is an ordinary fault and a SIGMISMATCH ends the gang. -/
def State.takeError (s : State) (core ctx : Nat) (i : FaultInfo) : State :=
  let c := s.core core
  if c.resil then
    if s.restartable core then
      (s.takeFault core ctx { i with code := i.code ||| 16 } (stops := false) (spare := true)).modGang c.gid
        (fun g => { g with rollback := g.rollback ++ [core] })
    else s.takeFault core ctx i (stops := i.cls == .uce) (fatal := true)
  else if i.cls == .uce then s.takeFault core ctx i
  else s.takeFault core ctx i (stops := false) (fatal := true)

/-- A precise fault of the instruction of the context whose turn it is (R356). -/
def State.raise (s : State) (cls : FaultClass) (code : Nat) (operand : Word) : State :=
  let i : FaultInfo := { cls := cls, code := BitVec.ofNat 16 code, operand := operand, pc := s.my.pc }
  if cls = .uce then s.takeError s.cur.core s.cur.ctx.val i else s.takeFault s.cur.core s.cur.ctx.val i

/-- An ILLEGAL of the instruction with this word: FLTREC2 holds word bits [95:32] (R71). -/
def illegal (w : IWord) (s : State) : Out := .next (s.raise .illegal 0 (w.extractLsb' 32 64))

/-- A BADTARGET at a transfer that has retired: the fault reports the target (R53, R55, Table 24-2). -/
def State.badTarget (s : State) (code : Nat) (target : Word) : State :=
  (s.goTo target).raise .badTarget code target

/-- A taken transfer of control (R53, R55): a malformed PC faults at the transfer, and the fetch of the target is
checked against TGT. -/
def State.transfer (s : State) (target : Word) : State :=
  if okPc target then (s.goTo target).modMy (fun c => { c with entryCheck := true }) else s.badTarget 1 target

/-- The product of R153 that a sequencer holds was issued at a PC. -/
def Sequencer.productAt (q : Sequencer) (pc : Word) : Bool :=
  q.pc == pc && match q.instr with
    | some (.tmma _) | some (.tmmal _) => true
    | _ => false

/-- A barrier's time-out period ends or begins anew in a core (R172). -/
def Core.setRaised (c : Core) (scope : BitVec 3) (b : Bool) : Core :=
  let n := scope.toNat - 1
  { c with bars := c.bars.setIfInBounds n { c.bars.getD n {} with raised := b } }

/-- A context that a BARTIMEOUT has stopped goes on (R358, R172): its wait begins anew without a second arrival, or it
continues as though the barrier had completed, its arrival counted. A core at a join keeps the PC it has reached; of one
whose product has not issued yet the instruction is that product. -/
def Core.resumeTimeout (c : Core) (clk : Nat) (st : Stop) (skip : Bool) : Core :=
  let wait (k : WaitKind) : Option Wait := some { kind := k, since := clk, limit := c.bto.toNat }
  let go (x : Context) : Context := { x with stop := none, pc := nextPc st.pc, issued := false, waitt := none, afterGissue := false }
  let again (k : WaitKind) (x : Context) : Context := { x with stop := none, wait := wait k }
  match st.wait with
  | some .join =>
    { c with seq := if skip then { c.seq with busy := c.seq.busy && !c.seq.joining, joining := false, arrived := true }
                    else { c.seq with since := clk, limit := c.bto.toNat } }.modCtx 0 (fun x =>
      if skip && !c.seq.joining then go x else { x with stop := none })
  | some (.barDone scope reg) =>
    if skip then c.modCtx 0 (fun x => go (x.setSA (reg.getD 0) 1))
    else (c.setRaised scope false).modCtx 0 (again (.barDone scope reg))
  | some (.barArrive scope) =>
    if skip then c.modCtx 0 go else (c.setRaised scope false).modCtx 0 (again (.barArrive scope))
  | some k => c.modCtx 0 (if skip then go else again k)
  | none => c.modCtx 0 go

/-- Return from an exception (R91, R358): the stopped context reissues its instruction or goes on after it. The parked
mark of a RESFMT goes; a product that is reissued follows its GISSUE still, and a fetching core forwards an instruction
that it reissues anew (log 49). -/
def State.resume (s : State) (core ctx : Nat) (skip : Bool) : State :=
  s.modCore core (fun c =>
    match (c.ctx ctx).stop with
    | none => c
    | some st =>
      if st.cls = .barTimeout then c.resumeTimeout s.clk st skip
      else
        { c with parked := c.parked && st.cls != FaultClass.resFmt
                 again := if ctx = 0 then !skip && (c.ctx 0).issued else c.again }.modCtx ctx (fun x =>
          { x with stop := none, wait := none, waitt := if skip || st.pc != x.pc then none else x.waitt, entryCheck := false,
                   pc := if skip then nextPc st.pc else st.pc,
                   issued := false,
                   afterGissue := !skip && ctx == 0 && c.seq.productAt st.pc }))

/-- The core whose fetched stream a control context follows: the origin for an attached core, the bond header for a
follower; none for a core that fetches for itself (R206, R214). -/
def State.leader (s : State) (core : Nat) : Option Nat :=
  match (s.core core).mode with
  | .bondHeader => none
  | .follower h => some h
  | .attached =>
    match s.gangOf core with
    | some g => if g.origin == core then none else some g.origin
    | none => none

/-- Ends the wait of a context from outside its turn: the waiting instruction retires, and a core that follows a
stream moves on in it. -/
def State.endWait (s : State) (core ctx : Nat) : State :=
  let follows := ctx == 0 && (s.leader core).isSome
  s.modCore core (fun c =>
    { c with spos := if follows then c.spos + 1 else c.spos
             checker := { c.checker with closing := c.checker.closing && ctx != 0 } }.modCtx ctx (fun x =>
      { x with pc := nextPc x.pc, wait := none, issued := false, afterGissue := false }))

/-- Begins or goes on with a wait of the context whose turn it is (R163): `limit` is the threshold current at its
start (R24). -/
def State.startWait (s : State) (k : WaitKind) (limit : Nat) : State :=
  s.modMy (fun c => { c with issued := true, wait := match c.wait with
    | some w => if w.kind = k then some w else some { kind := k, since := s.clk, limit := limit }
    | none => some { kind := k, since := s.clk, limit := limit } })

/-- A wait that counts toward WAITTH. -/
def State.waitTh (s : State) (k : WaitKind) : State := s.startWait k s.me.waitth.toNat

/-- A wait that counts toward BTO. -/
def State.waitBto (s : State) (k : WaitKind) : State := s.startWait k s.me.bto.toNat

/-! Conditions of variable timing (R208, R209). -/

/-- The register that a reply writes. -/
def Reply.reg? : Reply → Option (BitVec 8)
  | .word r _ => some r
  | .atomic r _ => some r
  | .lanes r _ _ => some r
  | .tile r _ _ => some r
  | .done => none

/-- A wait for a barrier: its completion reaches every core at its skew by itself (R172). -/
def WaitKind.isBarrier : WaitKind → Bool
  | .barArrive _ => true
  | .barDone _ _ => true
  | _ => false

/-- The reply of an atomic. -/
def Reply.isAtomic : Reply → Bool
  | .atomic _ _ => true
  | _ => false

/-- What the control context of a core waits for and has on its way. -/
def Core.pendingKeys (c : Core) : List CondKey :=
  (match (c.ctx 0).wait with
    | none => if (c.ctx 0).replies.any Reply.isAtomic then [.wait] else []
    | some w => [if w.kind.isBarrier then .barrier else .wait]) ++
  (c.ctx 0).replies.filterMap (fun r => r.reg?.map CondKey.reg) ++ c.gathers.map CondKey.reg ++
  (if c.seq.joining then [.join] else [])

/-- Notes the conditions that are pending after an instruction; `passed` notes one that was met at once. -/
def Core.noteConds (c : Core) (clk : Nat) (passed : Bool) : Core :=
  let known (k : CondKey) : Bool := c.conds.any (fun e => e.key == k && e.met.isNone)
  let new := (c.pendingKeys.filter (fun k => !known k)).map (fun k => ({ key := k } : Cond))
  let met := if passed && !known .wait then [({ key := .wait, met := some clk } : Cond)] else []
  { c with conds := c.conds ++ new ++ met }

/-- At the end of a clock: a condition that is pending no more was met in it. A barrier that the fetching core waited for
too, `shared`, reaches every core at its skew by itself and is not reported (R172). -/
def Core.stampConds (c : Core) (clk : Nat) (shared : Bool) : Core :=
  if c.conds.isEmpty then c
  else { c with conds := c.conds.filterMap (fun k =>
    if k.met.isSome || c.pendingKeys.contains k.key then some k
    else if k.key = .barrier && shared then none
    else some { k with met := some clk }) }

/-- The clocks that a report takes to the fetching core of a core's stream: D of R208, 4 within a bond (R214). -/
def State.reportDelay (s : State) (core : Nat) : Nat :=
  if (s.core core).mode != .attached then 4 else match s.gangOf core with
    | some g => g.span
    | none => 4

/-- An instruction of a class that only the control context executes is ILLEGAL elsewhere, whatever its guard (R15,
R71). -/
def controlOnly (w : IWord) (g : BitVec 3) (gn : BitVec 1) (s : State) (k : State → Out) : Out :=
  if s.isControl then guarded g gn s k else illegal w s

/-- A hod-only instruction raises HODONLY elsewhere when its guard is true (R71, R162). -/
def hodOnly (w : IWord) (g : BitVec 3) (gn : BitVec 1) (s : State) (k : State → Out) : Out :=
  guarded g gn s (fun s => if s.isHod then k s else .next (s.raise .hodOnly 0 (w.extractLsb' 32 64)))

end Sys2Proof.Machine
end

