-- ==== Sys2Proof/Machine/Access.lean ====
section
/-! DEFINITION. Reaching memory: windows (R27), the page-table walk (R325, R326), the cached leaves (R327), and the
placement of a byte under each addressing mode (R120 to R123). -/

namespace Sys2Proof.Machine

/-- Why an access does not complete: a fault of Table 6-3 with code and operand, a wait, a page or host translation to
ask for, a ship to a service core (R334), or a stop. -/
inductive Trap where
  | fault (cls : FaultClass) (code : Nat) (operand : Word)
  | wait (k : WaitKind)
  | page (part ia : Nat)
  | host (die : Nat) (pasid : BitVec 20) (page part ia : Nat)
  | ship (core : Nat)
  | stop (f : Fault)

/-! Windows. -/

/-- The window triples of a core, lowest number first (Table 1-7). -/
def Core.windows (c : Core) : List (Word × Word × Word) :=
  (List.range 16).map (fun i => (c.vwb.getD i 0, c.vwl.getD i 0, c.vwi.getD i 0))

/-- What a context sees in a control register that holds `now`: the value from before a write that another context made
in this clock, unless it has written the register in it too (R25, R27). -/
def Core.seenCr (c : Core) (clk ctx n : Nat) (now : Word) : Word :=
  if c.crWrites.1 ≠ clk || c.crWrites.2.any (fun e => e.1 == n && e.2.1 == ctx) then now
  else match c.crWrites.2.find? (·.1 == n) with
    | some e => e.2.2
    | none => now

/-- The windows in force for an access that a context issues in a clock (R27). -/
def Core.seenWindows (c : Core) (clk ctx : Nat) : List (Word × Word × Word) :=
  (List.range 16).map (fun i => (c.seenCr clk ctx (0x100 + i) (c.vwb.getD i 0),
    c.seenCr clk ctx (0x110 + i) (c.vwl.getD i 0), c.seenCr clk ctx (0x120 + i) (c.vwi.getD i 0)))

/-- The lowest-numbered window that holds an address, with the intermediate address it gives (R27). -/
def windowHit (va : Word) : List (Word × Word × Word) → Option ((Word × Word × Word) × Nat)
  | [] => none
  | (b, l, i) :: ws =>
    let n := (l.extractLsb' 0 6).toNat
    if l.getLsbD 8 && (va >>> n) == (b >>> n) then
      some ((b, l, i), (i.extractLsb' 16 40).toNat * 65536 + va.toNat % 2 ^ n)
    else windowHit va ws

/-! The page tables. -/

/-- A physical address of a part whose dies hold `cap` bytes each: PA[47:46] a die, PA[45:37] zero (R325), PA[36:0]
below the capacity of Table 0-1, above which the spec gives no byte (DESIGN CHOICE, log 51). -/
def okPa (cap pa : Nat) : Bool := pa < 2 ^ 48 && pa % 2 ^ 46 < 2 ^ 37 && pa % 2 ^ 46 < cap

/-- The DRAM of each die of the part (Table 0-1). -/
def State.capacity (s : State) : Nat := Config.dramBytes s.service.grade

/-- A physical address that the part has. -/
def State.okPa (s : State) (pa : Nat) : Bool := Machine.okPa s.capacity pa

/-- What a walk gives (R326). -/
inductive Walk where
  | leaf (base size : Nat) (e : Word)
  | absent
  | malformed
  deriving DecidableEq, Repr

/-- FRAME of a leaf, as a byte address (Table 20-1). -/
def leafFrame (e : Word) : Nat := (e.extractLsb' 12 44).toNat * 4096
/-- LOC: host memory. -/
def leafHost (e : Word) : Bool := e.getLsbD 57
/-- OWNER. -/
def leafOwner (e : Word) : Nat := (e.extractLsb' 60 4).toNat
/-- COH (Table 19-4). -/
def leafCoh (e : Word) : BitVec 2 := e.extractLsb' 6 2
/-- GRAN (Table 19-2). -/
def leafGran (e : Word) : BitVec 2 := e.extractLsb' 4 2
/-- CELL. -/
def leafCell (e : Word) : Bool := e.getLsbD 8
/-- REPL. -/
def leafRepl (e : Word) : Bool := e.getLsbD 9
/-- FAR. -/
def leafFar (e : Word) : Bool := e.getLsbD 10
/-- PINOK. -/
def leafPinok (e : Word) : Bool := e.getLsbD 11

/-- The index of an intermediate address at a level (R325). -/
def tableIndex (ia lv : Nat) : Nat := if lv = 0 then ia / 2 ^ 48 % 256 else ia / 2 ^ (48 - 9 * lv) % 512

/-- An entry is a leaf at its level. -/
def isLeaf (lv : Nat) (e : Word) : Bool := lv == 4 || (lv ≥ 2 && e.getLsbD 56)

/-- The bytes that a leaf of a level covers (R326). -/
def leafSize (lv : Nat) (e : Word) : Nat :=
  if lv = 2 then 2 ^ 30 else if lv = 3 then 2 ^ 21 else if e.getLsbD 56 then 2 ^ 16 else 2 ^ 12

/-- The malformed entries of R326; `group` holds the 16 aligned entries of a 64 KiB page. Bits of an address that the
part does not have count as reserved bits that must be zero (DEDUCED, log 51). -/
def malformed (cap lv : Nat) (e : Word) (group : List Word) : Bool :=
  if isLeaf lv e then
    (e.extractLsb' 58 2 != 0) || leafFrame e % leafSize lv e != 0 || (!leafHost e && !okPa cap (leafFrame e)) ||
    (lv == 4 && e.getLsbD 56 && group.any (· != e)) ||
    (leafHost e && (leafRepl e || leafCell e || leafCoh e == 1 || leafGran e != 1))
  else (e &&& 0xFFFF000000000FFE#64) != 0 || !okPa cap ((e.extractLsb' 12 36).toNat * 4096)

/-- One level of the walk, and the levels below it; a root at no address of the part counts as malformed (log 51). -/
def walkFrom (cap : Nat) (m : Memory) (ia : Nat) : Nat → Nat → Nat → Walk
  | 0, _, _ => .malformed
  | n + 1, lv, t =>
    if !okPa cap t then .malformed else
    let i := tableIndex ia lv
    let e := m.readWord (t + 8 * i)
    if !e.getLsbD 0 then .absent
    else if malformed cap lv e ((List.range 16).map (fun j => m.readWord (t + 8 * (i - i % 16 + j)))) then .malformed
    else if isLeaf lv e then .leaf (ia - ia % leafSize lv e) (leafSize lv e) e
    else walkFrom cap m ia n (lv + 1) ((e.extractLsb' 12 36).toNat * 4096)

/-- The walk of a partition's page table for an intermediate address (R326). -/
def State.walk (s : State) (part ia : Nat) : Walk :=
  walkFrom s.capacity s.mem ia 5 0 (s.part part).ptbr.toNat

/-- A cached leaf of a partition that covers an address. -/
def findLeaf (l : List CachedLeaf) (part ia : Nat) : Option CachedLeaf :=
  l.find? (fun e => e.part == part && e.base ≤ ia && ia < e.base + e.size)

/-- The leaf of an address as a cluster's attribute cache or a walk gives it (R327). -/
def State.leafOf (s : State) (cluster part ia : Nat) : Except Trap CachedLeaf :=
  match findLeaf ((Table.find s.attrCache cluster).getD []) part ia with
  | some l => .ok l
  | none =>
    match s.walk part ia with
    | .leaf base size e => .ok { part := part, base := base, size := size, leaf := e, host := none }
    | .absent => .error (.page part ia)
    | .malformed => .error (.fault .prot 10 0)

/-- What an access needs of a window and a page. -/
structure Need where
  r : Bool := false
  w : Bool := false
  x : Bool := false

/-- The checks of a leaf in the order of R326: owner, GRAN and COH, permission. -/
def leafDenies (part : Nat) (need : Need) (e : Word) : Option Nat :=
  if leafOwner e != part then some 2
  else if leafGran e == 3 || leafCoh e == 3 then some 8
  else if need.r && !e.getLsbD 1 || need.w && !e.getLsbD 2 || need.x && !e.getLsbD 3 then some 2
  else none

/-- Where one byte lies: its location, its intermediate address and cached leaf, whether the core data cache holds its
page as SI, or as DT by the directory (R315). -/
structure Place where
  loc : Nat
  ia : Option Nat := none
  leaf : Option CachedLeaf := none
  si : Bool := false
  tracked : Bool := false

/-- The die a context's accesses issue from: that of its core, or of the service core it was shipped to (R334). -/
def State.dieNow (s : State) (core ctx : Nat) : Nat :=
  match ((s.core core).ctx ctx).shippedTo with
  | some c => dieOf c
  | none => dieOf core

/-- Contexts shipped to a core. -/
def State.guests (s : State) (core : Nat) : Nat :=
  (s.cores.map (fun e => (e.2.ctxs.toList.filter (fun x => x.shippedTo == some core)).length)).foldl (· + ·) 0

/-- The service core of a partition on a die with a free slot, the lowest-numbered (R333, R334). -/
def State.serviceCore (s : State) (part die : Nat) : Option Nat :=
  (((s.part part).service.filter (fun c => c / 64 == die)).flatMap
    (fun c => (List.range 32).map (fun i => c * 32 + i))).find? (fun n => s.guests n < 10)

/-- Host translation of a host page (R330): the grants, or the translation to ask for. -/
def State.hostGrant (s : State) (die : Nat) (pasid : BitVec 20) (page : Nat) : Option HostTranslation :=
  ((Table.find s.hostXlat die).getD []).find? (fun e => e.pasid == pasid && e.page == page)

/-- Turns an intermediate address of a partition into a place (steps 7 and 8 of Table 6-3 for a page, R122, R326,
R330, R334). `operand` is the offset that a fault reports; `store` is a store or atomic in AM 0, which a CELL page
refuses; `ships` is an access in AM 0 that ships a helper. -/
def State.translate (s : State) (core ctx part ia : Nat) (need : Need) (operand : Word) (store : Bool)
    (ships : Bool := false) : Except Trap Place :=
  match s.leafOf (clusterOf core) part ia with
  | .error (.fault c n _) => .error (.fault c n operand)
  | .error t => .error t
  | .ok l =>
    match leafDenies part need l.leaf with
    | some reason => .error (.fault .prot reason operand)
    | none =>
      if store && leafCell l.leaf then .error (.fault .cellStore 0 operand)
      else if leafHost l.leaf then
        let ha := leafFrame l.leaf + (ia - l.base)
        let pasid := (s.part part).hpasid
        match s.hostGrant (s.dieNow core ctx) pasid (ha / 4096) with
        | none => .error (.host (s.dieNow core ctx) pasid (ha / 4096) part ia)
        | some g =>
          if need.r && !g.r || need.w && !g.w then .error (.fault .prot 2 operand)
          else .ok { loc := Config.hostBase + g.frame * 4096 + ha % 4096, ia := some ia
                     leaf := some { l with host := some (ha / 4096) } }
      else
        let home := if leafRepl l.leaf then dieOf core else leafFrame l.leaf / 2 ^ 46
        let m := (findLeaf ((Table.find s.memXlat home).getD []) part ia).getD l
        let pa := leafFrame m.leaf + (ia - m.base)
        let pa := if leafRepl l.leaf then pa % 2 ^ 46 + home * 2 ^ 46 else pa
        if !s.okPa pa then .error (.fault .prot 10 operand)
        else
          let shipped := ((s.core core).ctx ctx).shippedTo.isSome
          let away := home != s.dieNow core ctx || leafFar l.leaf && !shipped
          match (if ships && 1 ≤ ctx && ctx ≤ 10 && away then s.serviceCore part home else none) with
          | some c => .error (.ship c)
          | none => .ok { loc := pa, ia := some ia, leaf := some l, si := leafCoh l.leaf == 1, tracked := leafCoh l.leaf == 0 }

/-- An access as an instruction makes it: mode, needs, the cell and view of AM 6, the cache hint. -/
structure Access where
  am : Nat
  need : Need
  cell : Word := 0
  vw : BitVec 2 := 0
  ch : BitVec 2 := 0
  /-- a cache maintenance that is no store: a CELL page admits it -/
  upkeep : Bool := false
  /-- it needs R but reads nothing: no UCE, no comparator (Table 6-3 step 9, R140) -/
  unread : Bool := false

/-- Chip-scratchpad segments of a partition on a die: the sites of its clusters in ascending order (R121). -/
def State.segments (s : State) (part die : Nat) : List Nat :=
  (List.range 64).filter (fun i => ((s.part part).clu.getD die 0).getLsbD i && (s.service.live.getD die 0).getLsbD i)

/-- The core that a cluster core number names for a core of a gang (R121). -/
def State.clusterCore (s : State) (core c : Nat) : Option Nat :=
  let me := s.core core
  s.peer core (8 * (me.vx.toNat / 8) + c % 8) (4 * (me.vy.toNat / 4) + c / 8)

/-- The wave, not yet flipped or aborted, of which a cell is a member (R290). -/
def Partition.waveOf (p : Partition) (id : Nat) : Option Wave :=
  p.waves.find? (fun w => w.members.any (fun m => m.1 == id))

/-- The extent of a cell in bytes (R284). -/
def Cell.extent (c : Cell) : Nat := (c.rows * c.cols * typeBits c.ty.toNat + 7) / 8
/-- The front buffer (R284). -/
def Cell.front (c : Cell) : Nat := if c.sel then c.buf1 else c.buf0
/-- The back buffer (R284). -/
def Cell.back (c : Cell) : Nat := if c.sel then c.buf0 else c.buf1

/-- Whether an access in AM 6 may reach the buffer that R123 gives it, or its fault or wait (R123, R295, step 8 of Table
6-3). `formula` is the cell and wave of the issuing gang when it is a formula task. -/
def Partition.cellBuffer (p : Partition) (formula : Option (Nat × Nat)) (id : Nat) (c : Cell) (vw : BitVec 2)
    (write : Bool) (operand : Word) : Except Trap Nat :=
  if write then
    match formula with
    | some (own, _) => if own == id then .ok c.back else .error (.fault .cellStore 0 operand)
    | none => .error (.fault .cellStore 0 operand)
  else
    let mine := match formula, p.waveOf id with
      | some (_, w), some v => v.number.toNat == w
      | _, _ => false
    if mine then .error (.fault .cellState 2 (BitVec.ofNat 64 id))
    else if vw == 1 then .ok c.front
    else match p.waveOf id with
    | some v => .error (.wait (.cell id v.number.toNat))
    | none => match c.state with
      | .circular | .blocked => .error (.fault .cellCyc 0 operand)
      | .failed => .error (.fault .cellState 1 (BitVec.ofNat 64 id))
      | _ => .ok c.front

/-- The selection of a read of a cell as its directory entry stands: none while the read waits for a wave, or may not be
made (R296). -/
def Partition.selects (p : Partition) (formula : Option (Nat × Nat)) (id : Nat) (vw : BitVec 2) : Option CellRead :=
  match Table.find p.cells id with
  | none => none
  | some c => match p.cellBuffer formula id c vw false 0 with
    | .error (.wait _) => none
    | .error (.fault .cellState 2 _) => none
    | _ => some { id := id, extent := c.extent, buf := c.front, state := if vw = 1 then .settled else c.state }

/-- What a waiting read of a cell has selected (R123, R296). -/
def Context.selected (x : Context) (id : Nat) : Option CellRead :=
  if x.wait.isSome then x.cellSel.filter (·.id == id) else none

/-- The fault of a read whose cell was CIRCULAR, BLOCKED or FAILED when it selected (R123, R306). -/
def CellRead.denies (r : CellRead) (operand : Word) : Option Trap :=
  match r.state with
  | .circular | .blocked => some (.fault .cellCyc 0 operand)
  | .failed => some (.fault .cellState 1 (BitVec.ofNat 64 r.id))
  | _ => none

/-- A read that has selected a buffer of a partition has not completed (R297). -/
def State.bufferRead (s : State) (part buf : Nat) : Bool :=
  s.cores.any (fun e => e.2.part.toNat == part && e.2.ctxs.toList.any (fun x =>
    x.wait.isSome && x.cellSel.any (fun r => r.buf == buf && (r.denies 0).isNone)))

/-- The formula cell and wave of the gang of a core. -/
def State.formulaOf (s : State) (core : Nat) : Option (Nat × Nat) := (s.gangOf core).bind (·.formula)

/-- A byte of a scratchpad in the gang, with the undo-log check of R120. -/
def State.spPlace (s : State) (core off : Nat) (operand : Word) : Except Trap Place :=
  if (s.core core).resil && off ≥ Config.undoBase then .error (.fault .prot 6 operand)
  else .ok { loc := Config.spLoc core off }

/-- Places the byte at offset `o` (lane `lane` in AM 4) under an access of a context or an engine, with the windows and
the chip-scratchpad segments in force for it: steps 3 to 8 of Table 6-3. -/
def State.placeIn (s : State) (windows : List (Word × Word × Word)) (chip : Nat × List Nat) (core ctx : Nat)
    (acc : Access) (lane : Nat) (o : Word) : Except Trap Place :=
  let me := s.core core
  let n := o.toNat
  match acc.am with
  | 0 =>
    match windowHit o windows with
    | none => .error (.fault .winMiss 0 o)
    | some ((_, _, i), ia) =>
      if ia ≥ 2 ^ 56 then .error (.fault .winMiss 1 o)
      else if acc.need.r && !i.getLsbD 0 || acc.need.w && !i.getLsbD 1 || acc.need.x && !i.getLsbD 2 then
        .error (.fault .prot 1 o)
      else s.translate core ctx me.part.toNat ia acc.need o (acc.need.w && !acc.upkeep) (!acc.need.x)
  | 1 => if n ≥ Config.spBytes then .error (.fault .prot 4 o) else s.spPlace core n o
  | 2 =>
    if n ≥ 2 ^ 22 then .error (.fault .prot 4 o)
    else match s.clusterCore core (n / 2 ^ 17) with
      | none => .error (.fault .prot 5 o)
      | some c => s.spPlace c (n % 2 ^ 17) o
  | 3 =>
    if n ≥ 2 ^ 22 then .error (.fault .prot 4 o)
    else match s.clusterCore core (n / 4 % 32) with
      | none => .error (.fault .prot 5 o)
      | some c => s.spPlace c (n / 128 * 4 + n % 4) o
  | 4 => if n ≥ 256 then .error (.fault .prot 4 o) else .ok { loc := Config.laneLoc core lane n }
  | 5 =>
    match chip.2[n / 2 ^ 20]? with
    | none => .error (.fault .prot 5 o)
    | some site => .ok { loc := Config.chipLoc chip.1 site (n % 2 ^ 20) }
  | _ =>
    let p := s.part me.part.toNat
    let at_ (buf : Nat) : Except Trap Place :=
      (s.translate core ctx me.part.toNat (buf + n) acc.need o false).map (fun pl => { pl with si := false, tracked := false })
    match (if acc.need.w then none else (me.ctx ctx).selected acc.cell.toNat) with
    | some r =>
      if n ≥ r.extent then .error (.fault .prot 4 o)
      else match at_ r.buf, r.denies o with
        | .error t, _ => .error t
        | .ok _, some t => .error t
        | .ok pl, none => .ok pl
    | none => match Table.find p.cells acc.cell.toNat with
      | none => .error (.fault .cellState 0 acc.cell)
      | some c =>
        if n ≥ c.extent then .error (.fault .prot 4 o)
        else match p.cellBuffer (s.formulaOf core) acc.cell.toNat c acc.vw acc.need.w o with
          | .error (.wait k) => .error (.wait k)
          | r => match at_ (if acc.need.w then c.back else c.front), r with
            | .error t, _ => .error t
            | .ok _, .error t => .error t
            | .ok pl, .ok buf =>
              if acc.need.w && s.bufferRead me.part.toNat buf then .error (.wait (.cell acc.cell.toNat 0)) else .ok pl

/-- The segments that a core reaches in AM 5: its die and their sites. -/
def State.chipOf (s : State) (core : Nat) : Nat × List Nat :=
  (dieOf core, s.segments (s.core core).part.toNat (dieOf core))

/-- The windows of an access of a context: those with which its instruction issued, when it has waited since (R27). -/
def State.accessWindows (s : State) (core ctx : Nat) : List (Word × Word × Word) :=
  let x := (s.core core).ctx ctx
  if x.wait.isSome then x.held else (s.core core).seenWindows s.clk ctx

/-- Places a byte under an access of a context. -/
def State.placeByte (s : State) (core ctx : Nat) (acc : Access) (lane : Nat) (o : Word) : Except Trap Place :=
  s.placeIn (s.accessWindows core ctx) (s.chipOf core) core ctx acc lane o

end Sys2Proof.Machine
end

