-- ==== Sys2Proof/Machine/Codes.lean ====
section
/-! DEFINITION. The check codes of DRAM (R312 to R314): arithmetic in GF(2^8), the systematic Reed–Solomon codes of Table
19-3, their decoding, and poison. A code word is a list of bytes, the coefficient of the highest power first. -/

namespace Sys2Proof.Machine

/-! The field (R312): x^8 + x^4 + x^3 + x^2 + 1, α = 0x02. -/

/-- Multiplication by α. -/
def gfDouble (a : Byte) : Byte := if a.getLsbD 7 then (a <<< 1) ^^^ 0x1D else a <<< 1

/-- The product of two elements: `b` is taken bit by bit from the top. -/
def gfMul (a b : Byte) : Byte :=
  (List.range 8).foldl (fun r i => if b.getLsbD (7 - i) then gfDouble r ^^^ a else gfDouble r) 0

/-- A power of an element. -/
def gfPow (a : Byte) : Nat → Byte
  | 0 => 1
  | n + 1 => gfMul (gfPow a n) a

/-- The inverse of a nonzero element: a^254. -/
def gfInv (a : Byte) : Byte := gfPow a 254

/-- α^n. -/
def alpha (n : Nat) : Byte := gfPow 2 (n % 255)

/-- Value of a polynomial, highest power first, at a point. -/
def polyEval (p : List Byte) (x : Byte) : Byte := p.foldl (fun r c => gfMul r x ^^^ c) 0

/-- The sum of scaled list `b` and a list `a`, position by position; the longer tail of `a` stays. -/
def addScaled : List Byte → List Byte → Byte → List Byte
  | [], _, _ => []
  | a :: as, [], _ => a :: as
  | a :: as, b :: bs, k => (a ^^^ gfMul k b) :: addScaled as bs k

/-! Encoding. -/

/-- The generator with roots α^b to α^(b + n − 1), highest power first; its first coefficient is 1. -/
def generator (b : Nat) : Nat → List Byte
  | 0 => [1]
  | n + 1 =>
    let g := generator b n
    addScaled (g ++ [0]) (0 :: g) (alpha (b + n))

/-- The remainder of a polynomial after division by a monic generator: one step for every coefficient above its
degree. -/
def polyRem (g : List Byte) : Nat → List Byte → List Byte
  | 0, p => p
  | _ + 1, [] => []
  | n + 1, c :: p => polyRem g n ((addScaled (c :: p) g c).drop 1)

/-- The `n` check bytes of data bytes, highest power first (R312). -/
def checkBytes (b n : Nat) (data : List Byte) : List Byte :=
  polyRem (generator b n) data.length (data ++ List.replicate n 0)

/-! Decoding. -/

/-- The syndromes of a word at α^b to α^(b + n − 1). -/
def syndromes (b n : Nat) (word : List Byte) : List Byte := (List.range n).map (fun i => polyEval word (alpha (b + i)))

/-- Gaussian elimination over the rows of an augmented matrix, one column at a time; `done` holds the pivot rows. -/
def eliminate : Nat → Nat → List (List Byte) → List (List Byte) → Option (List (List Byte))
  | 0, _, done, _ => some done
  | n + 1, col, done, rows =>
    match rows.find? (fun r => r.getD col 0 != 0) with
    | none => none
    | some r =>
      let pivot := r.map (gfMul (gfInv (r.getD col 0)))
      let clear (q : List Byte) : List Byte := addScaled q pivot (q.getD col 0)
      eliminate n (col + 1) (done.map clear ++ [pivot]) ((rows.erase r).map clear)

/-- The solution of `n` linear equations in `n` unknowns, each a row of `n` coefficients and the value; none when they
are dependent. -/
def solve (n : Nat) (rows : List (List Byte)) : Option (List Byte) :=
  (eliminate n 0 [] rows).map (fun m => m.map (fun r => r.getD n 0))

/-- The magnitudes at given powers that a list of syndromes from α^b on asks for, checked against every syndrome. -/
def magnitudes (b : Nat) (syn : List Byte) (powers : List Nat) : Option (List (Nat × Byte)) :=
  let n := powers.length
  let row (i : Nat) : List Byte := powers.map (fun p => alpha ((b + i) * p)) ++ [syn.getD i 0]
  match solve n ((List.range n).map row) with
  | none => none
  | some es =>
    let sum (i : Nat) : Byte := (powers.zip es).foldl (fun r e => r ^^^ gfMul (alpha ((b + i) * e.1)) e.2) 0
    if (List.range syn.length).all (fun i => sum i == syn.getD i 0) then some (powers.zip es) else none

/-- Errors in exactly `v` bytes of a word of `len` bytes that its syndromes show: the locator from the syndromes, its
roots, and the magnitudes there. -/
def errorsOf (b len v : Nat) (syn : List Byte) : Option (List (Nat × Byte)) :=
  let row (i : Nat) : List Byte := (List.range (v + 1)).map (fun k => syn.getD (i + k) 0)
  match solve v ((List.range v).map row) with
  | none => none
  | some ks =>
    let locator := ((1 : Byte) :: ks.reverse)
    let powers := (List.range len).filter (fun p => polyEval locator (alpha p) == 0)
    if powers.length == v then magnitudes b syn powers else none

/-- The correction of a word with up to `t` wrong bytes and 2t syndromes from α^b on: powers and magnitudes; none when
it cannot be corrected. -/
def correct (b len : Nat) (syn : List Byte) : Nat → Option (List (Nat × Byte))
  | 0 => if syn.all (· == 0) then some [] else none
  | t + 1 => if syn.all (· == 0) then some [] else (errorsOf b len (t + 1) syn).or (correct b len syn t)

/-- The byte by which poison differs from the correct check bytes (R314). -/
def poisonByte : Byte := 0x5A

/-- What a read of a code word gives (R314): the errors to correct, by power; poison; or failure. -/
inductive WordRead where
  | corrected (errors : List (Nat × Byte))
  | poisoned
  | failed
  deriving DecidableEq, Repr

/-- Decodes a word of a line or gang granule with `n` check bytes and roots from α^0 on; `lost` are powers read as
erasures, which all the check bytes then recover (R312, R314). -/
def readWord (n : Nat) (lost : List Nat) (word : List Byte) : WordRead :=
  let k := word.length - n
  let syn := syndromes 0 n word
  if (word.drop k) == (checkBytes 0 n (word.take k)).map (· ^^^ poisonByte) then .poisoned
  else match (if lost.isEmpty then correct 0 word.length syn (n / 2) else magnitudes 0 syn lost) with
    | some es => .corrected es
    | none => .failed

/-- The extension byte X of a sector: the XOR of its 34 bytes (Table 19-3). -/
def xorBytes (bs : List Byte) : Byte := bs.foldl (· ^^^ ·) 0

/-- Decodes a sector word, C1 and C0 last, with its X: one byte is corrected when all three checks agree on it; X
counts as the power 34 (R312, R314). -/
def readSector (word : List Byte) (x : Byte) : WordRead :=
  let checks := checkBytes 1 2 (word.take 32)
  let syn := syndromes 1 2 word
  let off := xorBytes word ^^^ x
  if word.drop 32 == checks.map (· ^^^ poisonByte) && x == xorBytes (word.take 32 ++ checks) ^^^ poisonByte then .poisoned
  else if syn.all (· == 0) then .corrected (if off == 0 then [] else [(34, off)])
  else match errorsOf 1 34 1 syn with
    | some [(p, e)] => if e == off then .corrected [(p, e)] else .failed
    | _ => .failed

end Sys2Proof.Machine
end

