-- ==== Sys2Proof/Machine/Dram.lean ====
section
/-! DEFINITION. DRAM granules and their codes (R308 to R314), and the L2 slices (R245, R310, R311, R320). The bytes of the
home, L2 or DRAM, are those of State.mem; what DRAM holds differently from what was written is State.errs (log 50). -/

namespace Sys2Proof.Machine

/-! Slices (R245). -/

/-- The live sites of a die in ascending order (R245). -/
def State.liveSites (s : State) (die : Nat) : List Nat :=
  (List.range 64).filter (fun i => (s.service.live.getD die 0).getLsbD i)

/-- The home slice of an intermediate address on a die, counted 64 × die + site (R245). -/
def State.homeSlice (s : State) (die ia : Nat) : Nat :=
  let live := s.liveSites die
  64 * die + live.getD (ia / 64 % live.length) 0

/-- The set of its slice that a line falls in (R245). -/
def State.setOf (s : State) (die ia : Nat) : Nat := ia / 64 / (s.liveSites die).length % 2048

/-- The tag of a line in its set (R245); a slice finds a line by it, its set and its partition, which together are the
partition and the IA that L2Line holds. -/
def State.tagOf (s : State) (die ia : Nat) : Nat := ia / 64 / (2048 * (s.liveSites die).length)

/-! Granules (R308 to R312). -/

/-- A byte of DRAM. -/
def inDram (loc : Nat) : Bool := loc < 2 ^ 48

/-- Bytes of a granule (Table 19-2). -/
def granBytes (gran : BitVec 2) : Nat := if gran = 0 then 32 else if gran = 2 then 256 else 64

/-- The first byte of the granule that holds a byte. -/
def granBase (gran : BitVec 2) (loc : Nat) : Nat := loc - loc % granBytes gran

/-- The sub-channel that holds the burst of a byte, counted die × 128 + 8 × gang group + sub-channel (R309). -/
def subChannel (loc : Nat) : Nat := loc / 2 ^ 46 * 128 + loc / 256 % 16 * 8 + loc / 32 % 8

/-- A code word of a granule (Table 19-3): the locations of its data bytes and of its check bytes, highest power first,
and of X in a sector. -/
structure CodeWord where
  data : List Nat
  checks : List Nat
  ext : Option Nat := none

/-- The code words of the granule that begins at a location (Table 19-3). -/
def codeWords (gran : BitVec 2) (base : Nat) : List CodeWord :=
  let side := Config.sideLoc
  if gran = 0 then
    [{ data := (List.range 32).map (base + ·), checks := [side base 1, side base 0], ext := some (side base 2) }]
  else if gran = 2 then
    (List.range 4).map (fun w =>
      { data := (List.range 8).flatMap (fun j => (List.range 8).map (fun k => base + 32 * j + 8 * w + k))
        checks := (List.range 8).map (fun j => side (base + 32 * j) w) })
  else
    [{ data := (List.range 64).map (base + ·)
       checks := [side (base + 32) 1, side (base + 32) 0, side base 1, side base 0] }]

/-- The check bytes that belong to data bytes (R312). -/
def CodeWord.correctChecks (c : CodeWord) (data : List Byte) : List Byte :=
  if c.ext.isSome then checkBytes 1 2 data else checkBytes 0 c.checks.length data

/-- What a location of DRAM holds differently from what was written. -/
def State.err (s : State) (loc : Nat) : Byte := (Table.find s.errs loc).getD 0

/-- Sets it; equality is not listed. -/
def State.setErr (s : State) (loc : Nat) (b : Byte) : State :=
  { s with errs := if b = 0 then Table.erase s.errs loc else Table.set s.errs loc b }

/-- The stored bytes of a code word, and its stored X. -/
def State.storedWord (s : State) (c : CodeWord) : List Byte × Byte :=
  let data := c.data.map s.mem.read
  let checks := c.correctChecks data
  let stored := (data.zip c.data ++ checks.zip c.checks).map (fun e => e.1 ^^^ s.err e.2)
  (stored, xorBytes (data ++ checks) ^^^ (match c.ext with | some l => s.err l | none => 0))

/-- The powers of the data bytes of a word that lie on a sub-channel marked failed: a gang word reads them as erasures
(R314). -/
def State.lostPowers (s : State) (gran : BitVec 2) (c : CodeWord) : List Nat :=
  if gran ≠ 2 then []
  else (c.data.zipIdx.filter (fun e =>
    s.failed.any (fun f => f.1 * 128 + f.2.1 * 8 + f.2.2 == subChannel e.1))).map (fun e => c.data.length + c.checks.length - 1 - e.2)

/-- Decodes one code word. -/
def State.readCode (s : State) (gran : BitVec 2) (c : CodeWord) : WordRead :=
  let (stored, x) := s.storedWord c
  if c.ext.isSome then readSector stored x else readWord c.checks.length (s.lostPowers gran c) stored

/-- What a read of a granule from DRAM gives (R314): the locations to correct, poison, or failure. -/
inductive GranuleRead where
  | corrected (errors : List (Nat × Byte))
  | poisoned
  | failed
  deriving DecidableEq, Repr

/-- Where the errors of a word lie: power 34 of a sector is X. -/
def CodeWord.places (c : CodeWord) (errors : List (Nat × Byte)) : List (Nat × Byte) :=
  let locs := c.data ++ c.checks
  errors.map (fun e => (if e.1 < locs.length then locs.getD (locs.length - 1 - e.1) 0 else c.ext.getD 0, e.2))

/-- Decodes a granule, word by word (R314); one whose bytes are as written reads as written. -/
def State.readGranule (s : State) (gran : BitVec 2) (base : Nat) : GranuleRead :=
  if s.errs.isEmpty then .corrected []
  else
    let reads := (codeWords gran base).map (fun c => (c, s.readCode gran c))
    if reads.all (·.2 == .poisoned) then .poisoned
    else reads.foldl (fun r e => match r, e.2 with
      | .corrected l, .corrected m => .corrected (l ++ e.1.places m)
      | _, _ => .failed) (.corrected [])

/-- Every location of a granule, data and side bytes. -/
def granLocs (gran : BitVec 2) (base : Nat) : List Nat :=
  let n := granBytes gran
  (List.range n).map (base + ·) ++ (List.range (n / 32 * 4)).map (fun k => Config.sideLoc base k)

/-- A granule is written: DRAM holds what was written. -/
def State.writeGranule (s : State) (gran : BitVec 2) (base : Nat) : State :=
  { s with errs := s.errs.filter (fun e => !(granLocs gran base).contains e.1) }

/-- A granule is written poisoned (R314): its check bytes, and X, differ from the correct ones. -/
def State.poisonGranule (s : State) (gran : BitVec 2) (base : Nat) : State :=
  (codeWords gran base).foldl (fun s c => (c.checks ++ c.ext.toList).foldl (fun s l => s.setErr l poisonByte) s)
    (s.writeGranule gran base)

/-- Counts a correction against its sub-channel (R314). -/
def State.countCorrection (s : State) (n : Nat) : State :=
  { s with corrections := Table.set s.corrections n ((Table.find s.corrections n).getD 0 + 1) }

/-- The location of the burst that a data or side byte belongs to. -/
def burstOf (loc : Nat) : Nat := if loc < 2 ^ 69 then loc else (loc - 2 ^ 69) / 4 * 32

/-- Takes the bytes of a granule from DRAM for the lines of it that are `wanted` (R314): corrected data, which is counted
and which DRAM then holds, or with the next writeback of a line that is dirty in the L2 (`later`); or the data is known to be
bad. -/
def State.takeGranule (s : State) (gran : BitVec 2) (base : Nat) (wanted : Nat → Bool) (later : Bool := false) : State :=
  if s.errs.isEmpty then s
  else
    let locs := ((List.range (granBytes gran)).map (base + ·)).filter wanted
    let spoil (poisoned : Bool) : State := { s with bad := locs.foldl (fun t l => Table.set t l (poisoned, 0)) s.bad }
    match s.readGranule gran base with
    | .poisoned => spoil true
    | .failed => spoil false
    | .corrected es =>
      let fix (l : Nat) : Byte := s.mem.read l ^^^ s.err l ^^^ (es.foldl (fun r e => if e.1 = l then r ^^^ e.2 else r) 0)
      let t := { s with mem := locs.foldl (fun m l => m.write l (fix l)) s.mem }
      (es.filter (fun e => e.2 != 0)).foldl (fun t e => t.countCorrection (subChannel (burstOf e.1)))
        (if later then t else t.writeGranule gran base)

/-! The lines of the L2 slices. -/

/-- The lines of a slice, the last used first. -/
def State.l2Slice (s : State) (n : Nat) : List L2Line := (Table.find s.l2 n).getD []

/-- Replaces the lines of a slice. -/
def State.setL2 (s : State) (n : Nat) (l : List L2Line) : State :=
  { s with l2 := if l.isEmpty then Table.erase s.l2 n else Table.set s.l2 n l }

/-- A line of a slice is the one of an address: equal partition and IA (R320), and die (R263). -/
def L2Line.at_ (part ia die : Nat) (l : L2Line) : Bool := l.part == part && l.line == ia / 64 && l.loc / 2 ^ 46 == die

/-- The line of an address that the home slice of a die holds. -/
def State.l2Line? (s : State) (part ia die : Nat) : Option L2Line :=
  (s.l2Slice (s.homeSlice die ia)).find? (L2Line.at_ part ia die)

/-- The sector of its line that holds a byte. -/
def sectorOf (loc : Nat) : Nat := loc / 32 % 2

/-- The bits of a line that an access to a byte needs: its sector on a sector page, else the line (Table 19-2). -/
def sectorBits (gran : BitVec 2) (loc : Nat) : BitVec 2 := if gran = 0 then 1#2 <<< sectorOf loc else 3

/-- A line of the L2 holds a byte. -/
def L2Line.holds (loc : Nat) (l : L2Line) : Bool := l.valid.getLsbD (sectorOf loc)

/-- The bytes whose error marks go with one unit of a line. -/
def unitBytes (gran : BitVec 2) : Nat := if gran = 0 then 32 else 64

/-- Some byte of a run is known to be bad. -/
def State.badIn (s : State) (lo n : Nat) : Bool := s.bad.any (fun e => decide (lo ≤ e.1) && decide (e.1 < lo + n))

/-- Takes the error marks of a run away: the bytes leave the L2. -/
def State.forget (s : State) (lo n : Nat) : State :=
  { s with bad := s.bad.filter (fun e => !(decide (lo ≤ e.1) && decide (e.1 < lo + n))) }

/-- Writes a unit of a line to DRAM, poisoned when its data is known to be bad (R314). -/
def State.writeUnit (s : State) (gran : BitVec 2) (base : Nat) : State :=
  if s.badIn base (granBytes gran) then s.poisonGranule gran base else s.writeGranule gran base

/-- The lines of a gang block that the slices hold: the block's offset from the line's first byte is that of its IA. -/
def State.siblings (s : State) (l : L2Line) : List L2Line :=
  let block := l.line / 4 * 4
  (List.range 4).filterMap (fun i => s.l2Line? l.part ((block + i) * 64) (l.loc / 2 ^ 46))

/-- Clears the dirty bits of a line of a slice. -/
def State.cleanL2 (s : State) (l : L2Line) : State :=
  let n := s.homeSlice (l.loc / 2 ^ 46) (l.line * 64)
  s.setL2 n ((s.l2Slice n).map (fun k => if k.at_ l.part (l.line * 64) (l.loc / 2 ^ 46) then { k with dirty := 0 } else k))

/-- GANG_WRITEBACK (R311): the siblings that are present supply their bytes and their dirty bits are cleared; the lines
that are not are read from DRAM and merged; the gang is written once. -/
def State.gangWriteback (s : State) (l : L2Line) : State :=
  let base := granBase 2 l.loc
  let present := s.siblings l
  let here (a : Nat) : Bool := present.any (fun k => k.loc == a / 64 * 64)
  let s := if present.length = 4 then s else s.takeGranule 2 base (fun a => !here a)
  present.foldl State.cleanL2 (s.writeUnit 2 base)

/-- Writes the dirty sectors, the line or the gang of a line to DRAM (Table 19-2) and keeps it clean. -/
def State.writeBackL2 (s : State) (l : L2Line) : State :=
  if l.dirty = 0 then s
  else if l.gran = 2 then s.gangWriteback l
  else if l.gran = 0 then
    ((List.range 2).foldl (fun s i => if l.dirty.getLsbD i then s.writeUnit 0 (l.loc + 32 * i) else s) s).cleanL2 l
  else (s.writeUnit 1 l.loc).cleanL2 l

/-- A line leaves the L2: it is written back when it is dirty. -/
def State.evictL2 (s : State) (l : L2Line) : State :=
  let s := (s.writeBackL2 l).forget l.loc 64
  let n := s.homeSlice (l.loc / 2 ^ 46) (l.line * 64)
  s.setL2 n ((s.l2Slice n).filter (fun k => !k.at_ l.part (l.line * 64) (l.loc / 2 ^ 46)))

/-- Tags of the contexts that are resident (R320). -/
def State.residentTag (s : State) (t : BitVec 12) : Bool := s.gangs.any (fun g => g.tag == t && g.state != .saved)

/-- Enters a line into its slice as the last used; in a full set of 16 ways the oldest line whose tag no resident
context has is replaced, else the oldest (R320; log 12). -/
def State.enterL2 (s : State) (l : L2Line) : State :=
  let die := l.loc / 2 ^ 46
  let n := s.homeSlice die (l.line * 64)
  let rest := (s.l2Slice n).filter (fun k => !k.at_ l.part (l.line * 64) die)
  let set := rest.filter (fun k => s.setOf die (k.line * 64) == s.setOf die (l.line * 64))
  let old := set.reverse
  let s := match (if set.length < 16 then none else (old.find? (fun k => !s.residentTag k.tag)).or old.head?) with
    | none => s
    | some k => s.evictL2 k
  s.setL2 n (l :: (s.l2Slice n).filter (fun k => !k.at_ l.part (l.line * 64) die))

/-- The home of a byte of a page: partition, IA, granule, and the tag and era of the context that reaches it. -/
structure Home where
  part : Nat
  ia : Nat
  loc : Nat
  gran : BitVec 2
  tag : BitVec 12
  era : BitVec 1

/-- DRAM holds a granule otherwise than it was written, correctably. -/
def State.correctable (s : State) (gran : BitVec 2) (base : Nat) : Bool :=
  !s.errs.isEmpty && match s.readGranule gran base with
    | .corrected es => es.any (fun e => e.2 != 0)
    | _ => false

/-- A line of the slice of a byte's home takes bits of it from DRAM. -/
def State.fillOne (s : State) (h : Home) (bits : BitVec 2) : State :=
  let l := (s.l2Line? h.part h.ia (h.loc / 2 ^ 46)).getD
    { part := h.part, line := h.ia / 64, loc := h.loc - h.loc % 64, gran := h.gran, tag := 0, era := 0, valid := 0, dirty := 0 }
  s.enterL2 { l with tag := h.tag, era := h.era, valid := l.valid ||| bits }

/-- Sectors of the line of a byte's home are dirty. -/
def State.markDirty (s : State) (h : Home) (bits : BitVec 2) : State :=
  match s.l2Line? h.part h.ia (h.loc / 2 ^ 46) with
  | none => s
  | some l => s.enterL2 { l with dirty := l.dirty ||| bits }

/-- The L2 fill of Table 19-2 for an access to a byte at its home: nothing when its slice holds the byte; else the missing
sector, the line, or every line of the gang block that is not present, each in its own slice. -/
def State.fillL2 (s : State) (h : Home) : State :=
  let die := h.loc / 2 ^ 46
  if !inDram h.loc then s
  else match s.l2Line? h.part h.ia die with
    | some l =>
      if l.holds h.loc then s.enterL2 l
      else
        let base := granBase h.gran h.loc
        let later := l.dirty != 0
        let fixed := later && s.correctable h.gran base
        let bits := sectorBits h.gran h.loc
        let s := (s.takeGranule h.gran base (fun _ => true) later).fillOne h bits
        if fixed then s.markDirty h bits else s
    | none =>
      if h.gran = 2 then
        let base := granBase 2 h.loc
        let first := h.ia / 256 * 256
        let missing := (List.range 4).filter (fun i => (s.l2Line? h.part (first + 64 * i) die).isNone)
        let s := s.takeGranule 2 base (fun a => missing.contains (a % 256 / 64))
        missing.foldl (fun s i => s.fillOne { h with ia := first + 64 * i, loc := base + 64 * i } 3) s
      else (s.takeGranule h.gran (granBase h.gran h.loc) (fun _ => true)).fillOne h (sectorBits h.gran h.loc)

/-- A write to a byte at its home: the line is brought in and its sector, or on other pages the line, is dirty. -/
def State.dirtyL2 (s : State) (h : Home) : State :=
  if !inDram h.loc then s
  else
    let s := s.fillL2 h
    match s.l2Line? h.part h.ia (h.loc / 2 ^ 46) with
    | none => s
    | some l => s.enterL2 { l with tag := h.tag, era := h.era, dirty := l.dirty ||| sectorBits h.gran h.loc }

/-- The home of a place as a core reaches it. -/
def State.homeOf (s : State) (core : Nat) (p : Place) : Option Home :=
  match p.leaf, p.ia with
  | some l, some ia =>
    if leafHost l.leaf || !inDram p.loc then none
    else some { part := l.part, ia := ia, loc := p.loc, gran := leafGran l.leaf, tag := (s.core core).tag, era := (s.core core).era }
  | _, _ => none

/-- A read of a place at its home. -/
def State.homeRead (s : State) (core : Nat) (p : Place) : State :=
  match s.homeOf core p with
  | some h => s.fillL2 h
  | none => s

/-- A write of a place at its home. -/
def State.homeWrite (s : State) (core : Nat) (p : Place) : State :=
  match s.homeOf core p with
  | some h => s.dirtyL2 h
  | none => s

/-- Every line of the L2 that a test selects. -/
def State.l2Lines (s : State) (sel : L2Line → Bool) : List L2Line := (s.l2.flatMap (·.2)).filter sel

/-- Writes the dirty lines that a test selects to DRAM and keeps them. -/
def State.cleanL2Lines (s : State) (sel : L2Line → Bool) : State := (s.l2Lines sel).foldl (fun s l =>
  match s.l2Line? l.part (l.line * 64) (l.loc / 2 ^ 46) with
  | some l => s.writeBackL2 l
  | none => s) s

/-- Writes back and drops the lines that a test selects. -/
def State.flushL2Lines (s : State) (sel : L2Line → Bool) : State := (s.l2Lines sel).foldl (fun s l =>
  match s.l2Line? l.part (l.line * 64) (l.loc / 2 ^ 46) with
  | some l => s.evictL2 l
  | none => s) s

/-- A line of the L2 of a partition in a range of addresses. -/
def l2In (part lo hi : Nat) (l : L2Line) : Bool := l.part == part && lo < l.line * 64 + 64 && l.line * 64 < hi

/-! The metadata byte H (R313). -/

/-- The locations of the H bytes of the line at a location: one for each sector on a sector page, two on a line page
(Table 19-3). -/
def hBytes (gran : BitVec 2) (line : Nat) : List Nat :=
  if gran = 0 then [Config.sideLoc line 3, Config.sideLoc (line + 32) 3]
  else if gran = 1 then [Config.sideLoc line 2, Config.sideLoc (line + 32) 2]
  else []

/-- RD as a read of one H byte gives it: its nibbles, or 0xF when they differ (R313). -/
def rdOfH (h : Byte) : BitVec 4 := if h.extractLsb' 0 4 = h.extractLsb' 4 4 then h.extractLsb' 0 4 else 0xF

/-- RD of the line at a location of a sector or line page: that of either H byte (DEDUCED, log 50). -/
def State.readH (s : State) (gran : BitVec 2) (line : Nat) : BitVec 4 :=
  let rd := (Table.find s.rd line).getD 0
  (hBytes gran line).foldl (fun r l => r ||| rdOfH ((rd ++ rd) ^^^ s.err l)) 0

/-- Writes it: the code words stay as they are (R313). -/
def State.writeH (s : State) (gran : BitVec 2) (line : Nat) (v : BitVec 4) : State :=
  { s with rd := if v = 0 then Table.erase s.rd line else Table.set s.rd line v
           errs := s.errs.filter (fun e => !(hBytes gran line).contains e.1) }

/-! Uncorrectable errors (step 9 of Table 6-3). -/

/-- The UCE code of a byte whose unit is known to be bad (R360). -/
def State.markedBad (s : State) (p : Place) : Option Nat :=
  let code (e : Bool × BitVec 3) : Nat := (if e.1 then 1 else 0) + 2 * e.2.toNat
  match p.leaf with
  | some l =>
    if leafHost l.leaf || !inDram p.loc then (Table.find s.bad p.loc).map code
    else
      let n := unitBytes (leafGran l.leaf)
      let base := p.loc - p.loc % n
      (s.bad.find? (fun e => decide (base ≤ e.1) && decide (e.1 < base + n))).map (fun e => code e.2)
  | none => (Table.find s.bad p.loc).map code

/-- The UCE code of a byte, if it cannot be read (R314, R360): the error mark of its unit, or of its granule when the L2
must take it from DRAM. -/
def State.uceAt (s : State) (p : Place) : Option Nat :=
  match s.markedBad p, p.leaf, p.ia with
  | some code, _, _ => some code
  | none, some l, some ia =>
    if leafHost l.leaf || !inDram p.loc || s.errs.isEmpty || (s.l2Line? l.part ia (p.loc / 2 ^ 46)).any (·.holds p.loc) then none
    else match s.readGranule (leafGran l.leaf) (granBase (leafGran l.leaf) p.loc) with
      | .corrected _ => none
      | .poisoned => some 1
      | .failed => some 0
  | none, _, _ => none

end Sys2Proof.Machine
end

