-- ==== Sys2Proof/Machine/Lines.lean ====
section
/-! DEFINITION. The core data caches (R315, R316, R320) and the directory that keeps DT lines coherent (R317 to R319), and
how an access brings its lines in. A DT line is coherent, so its bytes are the home's; an SI line holds what its core has
written and not yet written back, and an access takes every other byte of it from the home (log 50). -/

namespace Sys2Proof.Machine

/-- A location lies in a run. -/
def inRun (lo n a : Nat) : Bool := lo ≤ a && a < lo + n

/-! Lines of a core data cache. -/

/-- The byte of a line. -/
def CacheLine.byte (l : CacheLine) (i : Nat) : Byte := l.data.extractLsb' (8 * i) 8

/-- The home of a byte of a line. -/
def CacheLine.home (l : CacheLine) (i : Nat) : Home :=
  { part := l.part, ia := l.line * 64 + i, loc := l.loc + i, gran := l.gran, tag := l.tag, era := l.era }

/-- A byte is written back poisoned (R360). -/
def State.poison (s : State) (loc : Nat) : State := { s with bad := Table.set s.bad loc (true, 1) }

/-- The dirty bytes of a line that cannot be read are written back poisoned. -/
def State.poisonLine (s : State) (l : CacheLine) : State :=
  if l.bad = 0 then s
  else (List.range 64).foldl (fun s i => if (l.dirty &&& l.bad).getLsbD i then s.poison (l.loc + i) else s) s

/-- Writes the dirty bytes of a line to its home, with their mask (R316): those of a DT line are there already. -/
def State.writeBackBytes (s : State) (l : CacheLine) : State :=
  if l.dirty = 0 then s
  else
    let s := (List.range 2).foldl (fun s i => if (l.dirty >>> (32 * i)).extractLsb' 0 32 != 0 then s.dirtyL2 (l.home (32 * i)) else s) s
    if l.coh = 0 then s
    else (List.range 64).foldl (fun s i => if l.dirty.getLsbD i then s.poke (l.loc + i) (l.byte i) else s) s

/-- Writes a line back, its bytes that cannot be read poisoned. -/
def State.writeBackLine (s : State) (l : CacheLine) : State := (s.writeBackBytes l).poisonLine l

/-- Writes back the lines that a test selects and keeps them clean. -/
def State.cleanLines (s : State) (core : Nat) (sel : CacheLine → Bool) : State :=
  let s' := ((s.core core).dcache.filter sel).foldl State.writeBackLine s
  s'.modCore core (fun c => { c with dcache := c.dcache.map (fun l => if sel l then { l with dirty := 0 } else l) })

/-- A core's monitors of a line that leaves its cache see it (Table 6-7). -/
def Monitor.seesEviction (core : Nat) (lines : List CacheLine) (m : Monitor) : Bool :=
  m.core == core && m.am == 0 && lines.any (fun l => inRun l.loc 64 (m.sector * 32))

/-- Drops the lines that a test selects. -/
def State.dropLines (s : State) (core : Nat) (sel : CacheLine → Bool) : State :=
  let gone := (s.core core).dcache.filter sel
  let s := { s with monitors := s.monitors.map (fun (m : Monitor) => if m.seesEviction core gone then { m with evicted := true } else m) }
  s.modCore core (fun c => { c with dcache := c.dcache.filter (fun l => !sel l) })

/-- Writes back and drops the lines of a core that a test selects. -/
def State.flushLines (s : State) (core : Nat) (sel : CacheLine → Bool) : State :=
  (s.cleanLines core sel).dropLines core sel

/-- A release writes back the dirty bytes of every SI line (R316). At .core it does so too: the core's own copy and gather
engines are agents of that scope, and they read the home (R252, R261). -/
def State.release (s : State) (core : Nat) : State := s.cleanLines core (fun l => l.coh == 1)

/-- An acquire of a scope wider than .core writes back and then drops every SI line (R316). -/
def State.acquire (s : State) (core : Nat) (wide : Bool) : State :=
  if wide then s.flushLines core (fun l => l.coh == 1) else s

/-- A line of the cache hits: same partition, line, tag and era (R320). -/
def Core.hits (c : Core) (ia : Nat) (l : CacheLine) : Bool :=
  l.part == c.part.toNat && l.line == ia / 64 && l.tag == c.tag && l.era == c.era

/-- The line of the cache that holds an address. -/
def Core.line? (c : Core) (ia : Nat) : Option CacheLine := c.dcache.find? (c.hits ia)

/-- A cache line of a partition in a range of addresses (R279). -/
def lineIn (part lo hi : Nat) (l : CacheLine) : Bool := l.part == part && lo < l.line * 64 + 64 && l.line * 64 < hi

/-- Every core in ascending number. -/
def State.everyCore (s : State) (f : State → Nat → State) : State := (s.cores.map (·.1)).foldl f s

/-- Lines of a core's cache are evicted: they are written back and dropped, and the clock notes it, since an eviction in the
clock of a recall serves as its reply (R323). -/
def State.evictLines (s : State) (core : Nat) (sel : CacheLine → Bool) : State :=
  let gone := ((s.core core).dcache.filter sel).map (fun l => (core, l.part, l.line))
  if gone.isEmpty then s
  else { s.flushLines core sel with evictions := (s.clk, (if s.evictions.1 = s.clk then s.evictions.2 else []) ++ gone) }

/-- A line of another tag at the place of a line is a miss and is first written back (R320). -/
def State.displace (s : State) (core part ia : Nat) : State :=
  s.evictLines core (fun l => l.part == part && l.line == ia / 64)

/-- Makes room in a core's cache for a line: the place of the line is clear, and the oldest of 512 lines is evicted (R320;
log 12). -/
def State.makeRoom (s : State) (core part ia : Nat) : State :=
  let s := s.displace core part ia
  match (s.core core).dcache.getLast? with
  | none => s
  | some l => if (s.core core).dcache.length < 512 then s else s.evictLines core (fun k => k.part == l.part && k.line == l.line)

/-- The home's bytes of a line. -/
def State.homeLine (s : State) (loc : Nat) : BitVec 512 := BitVec.ofNat 512 (s.mem.readNat loc 64)

/-- The bits of a line that a byte mask selects. -/
def maskBits (dirty : BitVec 64) : BitVec 512 :=
  (List.range 64).foldl (fun (m : BitVec 512) i => if dirty.getLsbD i then m ||| (0xFF#512 <<< (8 * i)) else m) 0

/-- A line's bytes after its clean ones have been taken from the home. -/
def CacheLine.refreshed (l : CacheLine) (home : BitVec 512) : CacheLine :=
  { l with data := (l.data &&& maskBits l.dirty) ||| (home &&& ~~~(maskBits l.dirty)), bad := l.bad &&& l.dirty }

/-- Enters the line of a home byte into a core's cache. -/
def State.enterLine (s : State) (core : Nat) (h : Home) (coh : BitVec 2) : State :=
  let s := s.makeRoom core h.part h.ia
  let loc := h.loc - h.loc % 64
  s.modCore core (fun c => { c with dcache :=
    { part := h.part, line := h.ia / 64, loc := loc, tag := c.tag, era := c.era, coh := coh, gran := h.gran,
      data := s.homeLine loc, dirty := 0 } :: c.dcache })

/-- A read that allocates nothing misses on a line of another tag, which is first written back (R69, R320). -/
def State.cleanPlace (s : State) (core : Nat) (h : Home) : State :=
  s.cleanLines core (fun l => l.part == h.part && l.line == h.ia / 64)

/-- Brings the line of an SI place into the cache, or its clean bytes anew; a hint of no allocation allocates nothing for
a read (R69). A read of a line with dirty bytes first writes them back, so that every read takes one point of each sector's
coherence order, at which the core's own earlier writes are performed (R253, R260; log 50). -/
def State.fillLine (s : State) (core : Nat) (ch : BitVec 2) (write : Bool) (h : Home) : State :=
  if ((s.core core).line? h.ia).isSome then
    let s := if write then s else s.cleanLines core ((s.core core).hits h.ia)
    let home := s.homeLine (h.loc - h.loc % 64)
    s.modCore core (fun c => { c with dcache := c.dcache.map (fun l => if c.hits h.ia l then l.refreshed home else l) })
  else
    let s := s.fillL2 h
    if ch == 2 && !write then s.cleanPlace core h else s.enterLine core h 1

/-! The sweeper and sleeping arrays (R321). -/

/-- A tag and era stand at a position of the tag counter that lies in a run of fewer than 8,192 (R320). -/
def sweptTag (lo hi : Nat) (tag : BitVec 12) (era : BitVec 1) : Bool :=
  let v := era.toNat * 4096 + tag.toNat
  decide (lo + (v + 8192 - lo % 8192) % 8192 ≤ hi)

/-- Array number of the L2 slice of a line. -/
def State.l2Array (s : State) (l : L2Line) : Nat := 8192 + s.homeSlice (l.loc / 2 ^ 46) (l.line * 64)

/-- TAG_SWEEP (R321): the sweeper passes positions of the counter, and no line with their tags and eras is left in an
awake array. -/
def State.sweep (s : State) (lo hi : Nat) : State :=
  let awake (n : Nat) : Bool := (Table.find s.asleep n).isNone
  (s.everyCore (fun s c => if awake c then s.flushLines c (fun l => sweptTag lo hi l.tag l.era) else s)).flushL2Lines
    (fun l => sweptTag lo hi l.tag l.era && awake (s.l2Array l))

/-- Writes back and drops lines of an array. -/
def State.flushArray (s : State) (n : Nat) (sel : BitVec 12 → BitVec 1 → Bool) : State :=
  if n < 8192 then s.flushLines n (fun l => sel l.tag l.era)
  else s.flushL2Lines (fun l => s.l2Array l == n && sel l.tag l.era)

/-- An array wakes: it acts by the wraps of the counter since it fell asleep, before it serves any request. -/
def State.wakeArray (s : State) (n : Nat) : State :=
  match Table.find s.asleep n with
  | none => s
  | some p0 =>
    let p := s.tagsIssued
    let wraps := p / 4096 - p0 / 4096
    let s := { s with asleep := Table.erase s.asleep n }
    if wraps = 0 then s
    else s.flushArray n (if wraps = 1 then sweptTag (p0 + 1025) (p + 1024) else fun _ _ => true)

/-! The directory of a home slice (R317 to R319). -/

/-- An entry covers a line of a partition. -/
def DirEntry.covers (part ia : Nat) (e : DirEntry) : Bool := e.part == part && inRun e.base (2 ^ e.span) ia

/-- An entry's span meets a range of a partition. -/
def DirEntry.meets (part lo hi : Nat) (e : DirEntry) : Bool :=
  e.part == part && decide (e.base < hi) && decide (lo < e.base + 2 ^ e.span)

/-- The entries of a slice, the last used first. -/
def State.slice (s : State) (n : Nat) : List DirEntry := (Table.find s.dirs n).getD []

/-- Replaces the entries of a slice. -/
def State.setSlice (s : State) (n : Nat) (l : List DirEntry) : State :=
  { s with dirs := if l.isEmpty then Table.erase s.dirs n else Table.set s.dirs n l }

/-- The DT lines of an entry's span that its slice homes, in a cache: lines of its die (R317). -/
def State.inSpan (s : State) (slice : Nat) (e : DirEntry) (l : CacheLine) : Bool :=
  l.coh == 0 && l.loc / 2 ^ 46 == slice / 64 && e.covers l.part (l.line * 64) && s.homeSlice (slice / 64) (l.line * 64) == slice

/-- The cores of a cluster. -/
def clusterCores (c : Nat) : List Nat := (List.range 32).map (· + 32 * c)

/-- The clusters that count as holders: with more than four, every one of the home die. -/
def DirEntry.heldBy (slice : Nat) (e : DirEntry) : List Nat :=
  if e.ovf then (List.range 64).map (· + slice / 64 * 64) else e.holders

/-- A core of a cluster has evicted a line in this clock. -/
def State.justEvicted (s : State) (c part line : Nat) : Bool :=
  s.evictions.1 == s.clk && s.evictions.2.any (fun e => clusterOf e.1 == c && e.2.1 == part && e.2.2 == line)

/-- What a recall of a cluster finds: the requested line held, and lines of the span held. An eviction of the line in this
clock serves as the reply for it (R323). -/
def State.recallReply (s : State) (slice : Nat) (e : DirEntry) (ia c : Nat) : Bool × Nat :=
  let held := (clusterCores c).flatMap (fun n => (s.core n).dcache.filter (s.inSpan slice e))
  (held.any (fun l => l.line == ia / 64) || s.justEvicted c e.part (ia / 64), held.length)

/-- A recall is a false-sharing conflict (R318). -/
def State.conflict (s : State) (slice : Nat) (e : DirEntry) (ia c : Nat) : Bool :=
  let r := s.recallReply slice e ia c
  !r.1 && decide (r.2 > 0)

/-- A recall of a cluster for a whole span: dirty bytes are written back and the lines invalidated. -/
def State.recall (s : State) (slice : Nat) (e : DirEntry) (c : Nat) : State :=
  (clusterCores c).foldl (fun s n => s.flushLines n (s.inSpan slice e)) s

/-- A holder writes back its dirty bytes of a span and keeps its lines clean. -/
def State.downgrade (s : State) (slice : Nat) (e : DirEntry) (c : Nat) : State :=
  (clusterCores c).foldl (fun s n => s.cleanLines n (s.inSpan slice e)) s

/-- A recall of one line from every cluster of the dies in a mask. -/
def State.recallDies (s : State) (mask : BitVec 4) (part ia : Nat) : State :=
  if mask = 0 then s
  else s.everyCore (fun s n => if mask.getLsbD (dieOf n) then
    s.flushLines n (fun l => l.coh == 0 && l.part == part && l.line == ia / 64) else s)

/-- A recall of an entry's span from every cluster of the dies in its RDIE. -/
def State.recallRdie (s : State) (slice : Nat) (e : DirEntry) : State :=
  if e.rdie = 0 then s
  else s.everyCore (fun s n => if e.rdie.getLsbD (dieOf n) then s.flushLines n (s.inSpan slice e) else s)

/-- A holder is added (Table 19-5): more than four overflow. -/
def DirEntry.addHolder (e : DirEntry) (c : Nat) : DirEntry :=
  if e.ovf || e.holders.contains c then e
  else if e.holders.length ≥ 4 then { e with ovf := true, holders := [] }
  else { e with holders := e.holders ++ [c] }

/-- An entry recalls every holder of its span, RDIE dies included, and is freed (R319). -/
def State.freeEntry (s : State) (slice : Nat) (e : DirEntry) : State :=
  let s := (e.heldBy slice).foldl (fun s c => s.recall slice e c) s
  let s := s.recallRdie slice e
  s.setSlice slice ((s.slice slice).filter (fun k => !(k.part == e.part && k.base == e.base)))

/-- The least recently used entry of a slice that holds more than 16,384 is evicted. -/
def State.evictOver (s : State) (slice limit : Nat) : State :=
  let l := s.slice slice
  if l.length ≤ limit then s
  else match l.getLast? with
    | none => s
    | some e => s.freeEntry slice e

/-- The widest span around a line that meets no entry of its partition. -/
def freeSpan (l : List DirEntry) (part ia : Nat) : Nat :=
  ((List.range 11).map (fun i => 16 - i)).find? (fun n => !l.any (DirEntry.meets part (ia - ia % 2 ^ n) (ia - ia % 2 ^ n + 2 ^ n)))
  |>.getD 6

/-- The entry of a line, made anew in state I when there is none, in a slice that has room for it. -/
def State.entryFor (s : State) (slice part ia : Nat) : DirEntry × State :=
  match (s.slice slice).find? (·.covers part ia) with
  | some e => (e, s)
  | none =>
    let s := s.evictOver slice 16383
    let n := freeSpan (s.slice slice) part ia
    let e : DirEntry :=
      { part := part, span := n, base := ia - ia % 2 ^ n, st := 0, holders := [], ovf := false, rdie := 0, qt := s.clk, asked := s.clk }
    (e, s.setSlice slice (e :: s.slice slice))

/-- An entry is replaced by others, which are now the last used; a split in a full slice evicts another (R319). -/
def State.putEntries (s : State) (slice : Nat) (old : DirEntry) (new : List DirEntry) : State :=
  let new := new.map (fun e => { e with asked := s.clk })
  (s.setSlice slice (new ++ (s.slice slice).filter (fun e => !(e.part == old.part && e.base == old.base)))).evictOver slice 16384

/-- The halves of an entry after a conflict (R319): the half of the requested line takes the requester's state, the other
what remained. -/
def DirEntry.halves (e : DirEntry) (mine other : DirEntry) (ia : Nat) : List DirEntry :=
  let n := e.span - 1
  let lo := ia - ia % 2 ^ n
  [{ mine with span := n, base := lo }, { other with span := n, base := if lo = e.base then e.base + 2 ^ n else e.base }]

/-- A read of a cluster of the home die (R318). -/
def State.dirRead (s : State) (slice : Nat) (e : DirEntry) (c : Nat) : State :=
  if e.st = 0 then s.putEntries slice e [{ e with st := 1, holders := [c], ovf := false, qt := s.clk }]
  else if e.st = 1 then
    s.putEntries slice e [if e.addHolder c == e then e else { e.addHolder c with qt := s.clk }]
  else if e.holders = [c] then s.putEntries slice e [e]
  else
    let s := (e.heldBy slice).foldl (fun s h => s.downgrade slice e h) s
    s.putEntries slice e [{ e.addHolder c with st := 1, qt := s.clk }]

/-- The clusters of the dies in RDIE. -/
def DirEntry.awayHolders (e : DirEntry) : List Nat :=
  (List.range 4).flatMap (fun d => if e.rdie.getLsbD d then (List.range 64).map (· + d * 64) else [])

/-- The recalls of a write: every other holder and the dies of RDIE, for the whole span; answers whether one of them was a
conflict. -/
def State.recallOthers (s : State) (slice : Nat) (e : DirEntry) (c ia : Nat) : Bool × State :=
  let others := (e.heldBy slice).filter (· != c) ++ e.awayHolders
  (others.any (s.conflict slice e ia), others.foldl (fun s h => s.recall slice e h) s)

/-- The entry of a write after its recalls, in two halves when one of them was a conflict (R319): `mine` for the requested
line, `other` for what remained. -/
def State.putWritten (s : State) (slice : Nat) (e mine other : DirEntry) (clash : Bool) (ia : Nat) : State :=
  if clash && e.span > 6 then s.putEntries slice e (e.halves mine other ia) else s.putEntries slice e [mine]

/-- A write of a cluster of the home die (R318, R319). -/
def State.dirWrite (s : State) (slice : Nat) (e : DirEntry) (c ia : Nat) : State :=
  if e.st = 2 && e.holders = [c] && e.rdie = 0 then s.putEntries slice e [e]
  else
    let (clash, s) := s.recallOthers slice e c ia
    let none_ := { e with st := 0, holders := [], ovf := false, rdie := 0, qt := s.clk }
    s.putWritten slice e { none_ with st := 2, holders := [c] }
      (if (e.heldBy slice).contains c then { none_ with st := e.st, holders := [c] } else none_) clash ia

/-- A core of another die, or the home itself for an atomic or an engine, reads or writes: the home die's holders give way
as they do to one another. -/
def State.dirAway (s : State) (slice : Nat) (e : DirEntry) (ia : Nat) (write : Bool) : State :=
  if write then
    if e.st = 0 && e.rdie = 0 then s.putEntries slice e [e]
    else
      let (clash, s) := s.recallOthers slice e 256 ia
      let none_ := { e with st := 0, holders := [], ovf := false, rdie := 0, qt := s.clk }
      s.putWritten slice e none_ none_ clash ia
  else if e.st = 2 then
    let s := (e.heldBy slice).foldl (fun s h => s.downgrade slice e h) s
    s.putEntries slice e [{ e with st := 1, qt := s.clk }]
  else s.putEntries slice e [e]

/-- Resolves a request against the entry that covers its line; a core of another die needs one only on gang pages. -/
def State.dirResolve (s : State) (slice part ia : Nat) (away gang : Bool) (cluster : Nat) (write : Bool) : State :=
  if away && !gang && !(s.slice slice).any (·.covers part ia) then s
  else
    let (e, s) := s.entryFor slice part ia
    if away then s.dirAway slice e ia write
    else if write then s.dirWrite slice e cluster ia else s.dirRead slice e cluster

/-- RD of a line of a sector or line page, or RDIE of the entry of a gang page (R313, R319). -/
def State.rdOf (s : State) (slice : Nat) (gran : BitVec 2) (loc part ia : Nat) : BitVec 4 :=
  if gran = 2 then match (s.slice slice).find? (·.covers part ia) with
    | some e => e.rdie
    | none => 0
  else s.readH gran loc

/-- Sets it. -/
def State.setRd (s : State) (slice : Nat) (gran : BitVec 2) (loc part ia : Nat) (v : BitVec 4) : State :=
  if gran = 2 then s.setSlice slice ((s.slice slice).map (fun e =>
    if e.covers part ia && e.rdie != v then { e with rdie := v, qt := s.clk } else e))
  else s.writeH gran loc v

/-- A write to a line of a sector or line page recalls it from the dies in RD, and clears the bits; on a gang page the span's
entry has RDIE, which its own recalls clear (recallOthers). -/
def State.recallAway (s : State) (slice : Nat) (gran : BitVec 2) (loc part ia : Nat) : State :=
  let rd := s.rdOf slice gran loc part ia
  if rd = 0 || gran = 2 then s else (s.recallDies rd part ia).setRd slice gran loc part ia 0

/-- A request of a core's cache for a DT line, resolved at its home slice (R318, R319); the die of a core of another die is
noted. -/
def State.requestLine (s : State) (core : Nat) (h : Home) (write : Bool) : State :=
  let home := h.loc / 2 ^ 46
  let loc := h.loc - h.loc % 64
  let slice := s.homeSlice home h.ia
  let away := dieOf core != home
  let s := s.dirResolve slice h.part h.ia away (h.gran == 2) (clusterOf core) write
  let s := if write then s.recallAway slice h.gran loc h.part h.ia else s
  if away then s.setRd slice h.gran loc h.part h.ia (s.rdOf slice h.gran loc h.part h.ia ||| (1#4 <<< dieOf core)) else s

/-- An atomic or an engine writes, or an engine reads, a DT line at its home: holders give way (R259, R315). -/
def State.homeRequest (s : State) (h : Home) (write : Bool) : State :=
  let slice := s.homeSlice (h.loc / 2 ^ 46) h.ia
  let loc := h.loc - h.loc % 64
  let s := if (s.slice slice).any (·.covers h.part h.ia) then s.dirResolve slice h.part h.ia true true 0 write else s
  if write then s.recallAway slice h.gran loc h.part h.ia else s

/-- The requester's cache takes a DT line (R315). -/
def State.fillTracked (s : State) (core : Nat) (h : Home) : State :=
  if ((s.core core).line? h.ia).isSome then s else (s.fillL2 h).enterLine core h 0

/-- Every entry of a partition that meets a range recalls its holders and is freed; RD dies are recalled (R322, R335). -/
def State.freeEntries (s : State) (part lo hi : Nat) : State :=
  let s := s.dirs.foldl (fun s d => (d.2.filter (·.meets part lo hi)).foldl (fun s e => s.freeEntry d.1 e) s) s
  s.everyCore (fun s n => s.flushLines n (fun l => l.coh == 0 && lineIn part lo hi l))

/-! What an access does to the caches. -/

/-- The statistics of a page (R337). -/
def Partition.stat (p : Partition) (page : Nat) : PageStat :=
  (Table.find p.stats page).getD { settledUntil := none, moves := [], counts := [0, 0, 0, 0] }

/-- Changes the statistics of a page. -/
def Partition.setStat (p : Partition) (page : Nat) (k : PageStat) : Partition := { p with stats := Table.set p.stats page k }

/-- A page that may move: a leaf of the partition in device memory without replicas (R335). -/
def movable (part : Nat) (e : Word) : Bool := leafOwner e == part && !leafHost e && !leafRepl e

/-- An access from another die counts toward the automatic migration of its page (R337). -/
def State.countAccess (s : State) (die home : Nat) (l : CachedLeaf) : State :=
  if die = home || !movable l.part l.leaf then s
  else s.modPart l.part (fun p =>
    let k := p.stat l.base
    p.setStat l.base { k with counts := k.counts.modify die (· + 1) })

/-- The die that an access of a core in this turn issues from (R334). -/
def State.dieHere (s : State) (core : Nat) : Nat := if core = s.cur.core then s.dieNow core s.cur.ctx.val else dieOf core

/-- An access of a core from a die to a place fills the attribute cache of the issuing cluster with its leaf and, when it
reaches the home, the memory translator of the home die, which counts it (R327, R337). -/
def State.noteLeaf (s : State) (core die : Nat) (p : Place) (reaches : Bool := true) : State :=
  match p.leaf with
  | none => s
  | some l =>
    let cl := clusterOf core
    let attr := (Table.find s.attrCache cl).getD []
    let s := if (findLeaf attr l.part l.base).isSome then s
      else { s with attrCache := Table.set s.attrCache cl ((l :: attr).take 64) }
    if leafHost l.leaf || !reaches then s
    else
      let s := s.countAccess die (p.loc / 2 ^ 46) l
      let home := p.loc / 2 ^ 46
      let mt := (Table.find s.memXlat home).getD []
      if (findLeaf mt l.part l.base).isSome then s
      else { s with memXlat := Table.set s.memXlat home ((l :: mt).take 4096) }

/-- An access of a core to a place goes to its home: the cache does not hold the line, or a DT line of another die is written
(R315, R318). -/
def State.reachesHome (s : State) (core : Nat) (write : Bool) (p : Place) : Bool :=
  !(p.si || p.tracked) || p.ia.any (fun ia => ((s.core core).line? ia).isNone) || write && !p.si

/-- The line of a place is brought in for a read or a write (R315): an SI place into the cache; a DT place after a request to
the directory, when the cache does not hold it or it is written; any other at the home. -/
def State.visitLine (s : State) (core : Nat) (ch : BitVec 2) (write : Bool) (p : Place) : State :=
  let s := s.noteLeaf core (s.dieHere core) p (s.reachesHome core write p)
  match s.homeOf core p with
  | some h =>
    if p.si then s.fillLine core ch write h
    else if p.tracked then
      let miss := ((s.core core).line? h.ia).isNone
      let s := if write || miss then s.requestLine core h write else s
      if miss && ch == 2 && !write then (s.fillL2 h).cleanPlace core h else s.fillTracked core h
    else if write then s.dirtyL2 h else s.fillL2 h
  | none => s

/-- The first place of each line of a list of places, and of each sector where it is a sector of its own. -/
def lineHeads : List Place → List Place
  | [] => []
  | p :: ps => p :: (lineHeads ps).filter (fun q => q.loc / 32 != p.loc / 32)

/-- Brings in the lines and cached leaves of places. -/
def State.visit (s : State) (core : Nat) (ch : BitVec 2) (write : Bool) (ps : List Place) : State :=
  (lineHeads (ps.filter (fun p => p.leaf.isSome))).foldl (fun s p => s.visitLine core ch write p) s

/-- The byte of a place as a context of the core sees it: in the core's SI line if it holds one, else in memory. -/
def State.byteAt (s : State) (core : Nat) (p : Place) : Byte :=
  match p.si, p.ia with
  | true, some ia =>
    match (s.core core).line? ia with
    | some l => l.byte (ia % 64)
    | none => s.mem.read p.loc
  | _, _ => s.mem.read p.loc

/-- The UCE code of a byte that a context of a core reads: a line that the core's cache holds is not read from DRAM (R314), and
has a mark of its own (source 2 of Table 24-3). -/
def State.uceSeen (s : State) (core : Nat) (p : Place) : Option Nat :=
  match (if p.si || p.tracked then p.ia.bind (fun ia => ((s.core core).line? ia).map (fun l => (ia, l))) else none) with
  | some (ia, l) => if l.bad.getLsbD (ia % 64) then some 4 else s.markedBad p
  | none => s.uceAt p

/-- A byte written into a line. -/
def CacheLine.put (l : CacheLine) (i : Nat) (b : Byte) : CacheLine :=
  { l with data := (l.data &&& ~~~(0xFF#512 <<< (8 * i))) ||| (b.zeroExtend 512 <<< (8 * i)),
           dirty := l.dirty ||| (1#64 <<< i), bad := l.bad &&& ~~~(1#64 <<< i) }

/-- Writes a byte into the line of an address that a core holds. -/
def State.putLine (s : State) (core ia : Nat) (b : Byte) : State :=
  s.modCore core (fun c => { c with dcache := c.dcache.map (fun l => if c.hits ia l then l.put (ia % 64) b else l) })

/-- Writes one byte of a place from a core (R362, R363, R316): into the core's SI line, which its release writes back; of a
DT line also at the home, where every other agent finds it. -/
def State.putByte (s : State) (core : Nat) (p : Place) (b : Byte) : State :=
  if 2 ^ 70 ≤ p.loc && p.loc < 2 ^ 71 then
    let t := (p.loc - 2 ^ 70) / 131072
    if t == core then s.spWriteOwn core ((p.loc - 2 ^ 70) % 131072) b
    else s.spWriteForeign t ((p.loc - 2 ^ 70) % 131072) b
  else match p.si, p.ia with
    | true, some ia =>
      if ((s.core core).line? ia).isSome then (s.touch p.loc).putLine core ia b
      else s.poke p.loc b
    | false, some ia => if p.tracked && ((s.core core).line? ia).isSome then (s.poke p.loc b).putLine core ia b else s.poke p.loc b
    | _, none => s.poke p.loc b

/-- Writes the bytes of places in order. -/
def State.putBytes (s : State) (core : Nat) : List (Place × Byte) → State
  | [] => s
  | (p, b) :: ps => State.putBytes (s.putByte core p b) core ps

end Sys2Proof.Machine
end

