-- ==== Sys2Proof/Machine/Places.lean ====
section
/-! DEFINITION. The checks of a whole access (Table 6-3): the comparator (R222), engines that hold lines (R259), and reading
and writing the bytes of an access; what becomes of one that does not complete. -/

namespace Sys2Proof.Machine

/-! The comparator (step 10, R222). -/

/-- Inserts a dimension by ascending |DSTR|, ties in index order; the dimension carries its index weight. -/
def insertDim (d : Nat × Int × Nat) : List (Nat × Int × Nat) → List (Nat × Int × Nat)
  | [] => [d]
  | e :: es => if d.2.1.natAbs < e.2.1.natAbs then d :: e :: es else e :: insertDim d es

/-- The used dimensions with EXT above 1 as (EXT, DSTR, weight in the landing order), by ascending |DSTR|. -/
def Copy.sorted (c : Copy) : List (Nat × Int × Nat) :=
  let ws := c.dims.foldl (fun (acc : List (Nat × Int × Nat) × Nat) d => (acc.1 ++ [(d.1, d.2.1, acc.2)], acc.2 * d.1)) ([], 1)
  (ws.1.filter (fun d => d.1 > 1)).foldl (fun l d => insertDim d l) []

/-- The footprint is proper (R221). -/
def Copy.proper (c : Copy) : Bool :=
  (c.sorted.foldl (fun (acc : Bool × Nat) d =>
    (acc.1 && d.2.1.natAbs ≥ acc.2, acc.2 + d.2.1.natAbs * (d.1 - 1))) (true, c.esz)).1

/-- The first byte of the footprint relative to the destination base, and the bytes from the lowest to the highest. -/
def Copy.span (c : Copy) : Int × Nat :=
  c.dims.foldl (fun acc d =>
    (acc.1 + (if d.2.1 < 0 then d.2.1 * ((d.1 : Int) - 1) else 0), acc.2 + d.2.1.natAbs * (d.1 - 1))) (0, c.esz)

/-- The landing position of the element that holds the byte at a distance from the lowest byte, by descending |DSTR|
(R220, R221); none in a gap. -/
def positionIn (esz : Nat) : List (Nat × Int × Nat) → Nat → Option Nat
  | [], rel => if rel < esz then some 0 else none
  | (ext, d, wt) :: ds, rel =>
    let q := rel / d.natAbs
    if d.natAbs = 0 || q ≥ ext then none
    else (positionIn esz ds (rel % d.natAbs)).map (· + (if d < 0 then ext - 1 - q else q) * wt)

/-- Position of the element holding the byte at coordinate `x` of a copy whose destination base is `base` (R221,
R222). -/
def Copy.position (c : Copy) (base : Int) (x : Nat) : Option Nat :=
  let (lo, len) := c.span
  let rel := (x : Int) - (base + lo)
  if rel < 0 || rel ≥ len then none
  else if c.proper then positionIn c.esz c.sorted.reverse rel.toNat
  else some (c.total - 1)

/-- The addresses that a list of windows maps to an intermediate address (R27). -/
def addressesOf (windows : List (Word × Word × Word)) (ia : Nat) : List Nat :=
  windows.filterMap (fun w =>
    let n := (w.2.1.extractLsb' 0 6).toNat
    let base := (w.2.2.extractLsb' 16 40).toNat * 65536
    let va : Word := (w.1 >>> n <<< n) + BitVec.ofNat 64 (ia - base)
    if decide (base ≤ ia) && decide (ia < base + 2 ^ n) && (windowHit va windows).any (fun h => h.1 == w && h.2 == ia) then
      some va.toNat else none)

/-- The offsets in the destination space of a copy of a core's hod that name a place (R221): in AM 0 the addresses that the
windows of its acceptance map to the place. -/
def State.copyOffsets (s : State) (core : Nat) (c : Copy) (p : Place) : List Nat :=
  let spOf := if 2 ^ 70 ≤ p.loc && p.loc < 2 ^ 71 then some ((p.loc - 2 ^ 70) / 131072, (p.loc - 2 ^ 70) % 131072) else none
  let block (n : Nat) := (List.range 32).find? (fun i => s.clusterCore core i == some n)
  match c.dam.toNat with
  | 0 => match p.ia with
    | some ia => addressesOf c.windows ia
    | none => []
  | 2 => match spOf with
    | some (n, off) => (block n).toList.map (fun i => i * 2 ^ 17 + off)
    | none => []
  | 3 => match spOf with
    | some (n, off) => (block n).toList.map (fun i => off / 4 * 128 + i * 4 + off % 4)
    | none => []
  | 5 =>
    if p.loc < 2 ^ 72 then []
    else
      let site := (p.loc - 2 ^ 72) / 1048576
      if site / 64 != c.chip.1 then []
      else (c.chip.2.findIdx? (· == site % 64)).toList.map (fun i => i * 2 ^ 20 + (p.loc - 2 ^ 72) % 1048576)
  | _ => match spOf with
    | some (n, off) => if n == core then [off] else []
    | none => []

/-- The landing position of the element of a copy that holds a place (R221, R222). -/
def State.copyPosition (s : State) (core : Nat) (c : Copy) (p : Place) : Option Nat :=
  (s.copyOffsets core c p).findSome? (c.position c.dst.toNat)

/-- COUNT of a copy as an access sees it: from before a landing of this clock (R18, R230). -/
def Copy.seenCount (k : Copy) (clk : Nat) : Nat := match k.landed with
  | some (at_, before) => if at_ = clk then before else k.count
  | none => k.count

/-- What a watermark register reads of its copy: the register with the copy's fields (R18, R178, R223). -/
def Core.watermark (c : Core) (clk n : Nat) : Watermark :=
  let w := c.wm.getD n Watermark.clear
  match w.copy with
  | none => w
  | some q =>
    match c.copies.find? (fun k => k.seq == q) with
    | none => w
    | some k => { w with poison := k.state == .cancelled, frozen := k.state == .frozen,
                         done := k.state == .complete && !k.landed.any (fun l => l.1 == clk), count := k.seenCount clk }

/-- A register was bound when an access of a context issued: an access that issued before the WMSET that binds it is not
compared with that binding (R222); h1 to h10 act after the hod in one clock (R141). -/
def Context.boundFor (x : Context) (ctx : Nat) (w : Watermark) : Bool :=
  x.wait.isNone || decide (w.boundAt < x.began) || w.boundAt == x.began && 1 ≤ ctx && ctx ≤ 10

/-- The comparison of one byte with one register: none passes, some true poisoned, some false held (R222). -/
def State.compare (s : State) (core ctx n : Nat) (p : Place) : Option Bool :=
  let c := s.core core
  let w := c.watermark s.clk n
  if !w.arm || !(c.ctx ctx).boundFor ctx w then none
  else match w.copy with
    | none => none
    | some q =>
      match c.copies.find? (fun k => k.seq == q) with
      | none => none
      | some k =>
        match s.copyPosition core k p with
        | none => none
        | some pos => if pos ≥ w.count then some w.poison else none

/-- The comparator over one byte: the lowest-numbered poisoned register, or a hold. -/
def State.comparator (s : State) (core ctx : Nat) (p : Place) : Option Nat × Bool :=
  let rs := (List.range 8).map (fun n => (n, s.compare core ctx n p))
  ((rs.find? (fun r => r.2 == some true)).map (·.1), rs.any (fun r => r.2 == some false))

/-! The checks of a whole access, byte by byte (R124). -/

/-- Places every byte in order, with the checks of steps 3 to 10 of each; answers the places and whether the
comparator holds the access. -/
def State.placeAll (s : State) (core ctx : Nat) (acc : Access) : List (Nat × Word) → Except Trap (List Place × Bool)
  | [] => .ok ([], false)
  | (lane, o) :: os =>
    match s.placeByte core ctx acc lane o with
    | .error t => .error t
    | .ok p =>
      let reads := acc.need.r && !acc.unread
      match (if !reads then none else if acc.need.w then s.uceAt p else s.uceSeen core p) with
      | some code => .error (.fault .uce code o)
      | none =>
        match (if reads then s.comparator core ctx p else (none, false)) with
        | (some n, _) => .error (.fault .wmPoison n o)
        | (none, held) =>
          match State.placeAll s core ctx acc os with
          | .error t => .error t
          | .ok (ps, h) => .ok (p :: ps, held || h)

/-- A copy engine with a destination in AM 0 holds the line of an intermediate address: some byte of the line is still
to land (R259). -/
def Copy.holdsLine (k : Copy) (ia : Nat) : Bool :=
  k.state == .running && k.dam == 0 &&
  (List.range 64).any (fun i => (addressesOf k.windows (ia / 64 * 64 + i)).any (fun va => match k.position k.dst.toNat va with
    | some pos => decide (pos ≥ k.count)
    | none => false))

/-- A copy engine of a partition holds the line of an address. -/
def State.engineHolds (s : State) (part : BitVec 4) (ia : Nat) : Bool :=
  s.cores.any (fun e => e.2.part == part && e.2.copies.any (·.holdsLine ia))

/-- A thread access to a place waits for a copy engine of the partition (R140, R259). -/
def State.engineStops (s : State) (core : Nat) (p : Place) : Bool :=
  p.ia.any (s.engineHolds (s.core core).part)

/-- The places of an access that may go on: no fault, no wait, no hold (R140). -/
def State.places (s : State) (core ctx : Nat) (acc : Access) (os : List (Nat × Word)) : Except Trap (List Place) :=
  match s.placeAll core ctx acc os with
  | .error t => .error t
  | .ok (ps, held) =>
    if acc.am == 0 && (lineHeads ps).any (s.engineStops core) then .error (.wait .engine)
    else if held then .error (.wait .watermark) else .ok ps

/-- An access in this mode is arbitrated (Table 6-2). -/
def arbitrated (am : Nat) : Bool := am != 1 && am != 4

/-- The offsets of `n` bytes from `o` up, for a lane. -/
def offsets (lane : Nat) (o : Word) (n : Nat) : List (Nat × Word) :=
  (List.range n).map (fun i => (lane, o + BitVec.ofNat 64 i))

/-- Reads the bytes of an access of the context whose turn it is: the checks, the lines brought in, the bytes. -/
def State.loadBytes (s : State) (acc : Access) (os : List (Nat × Word)) : Except Trap (List Byte × State) :=
  match s.places s.cur.core s.cur.ctx.val acc os with
  | .error t => .error t
  | .ok ps =>
    let s := s.visit s.cur.core acc.ch false ps
    .ok (ps.map (s.byteAt s.cur.core), s)

/-- Writes bytes by an access of the context whose turn it is: every check of every byte first (R124). -/
def State.storeBytes (s : State) (acc : Access) (os : List ((Nat × Word) × Byte)) : Except Trap State :=
  match s.places s.cur.core s.cur.ctx.val acc (os.map (·.1)) with
  | .error t => .error t
  | .ok ps =>
    let s := s.visit s.cur.core acc.ch true ps
    let s := if arbitrated acc.am then s.nonRestartable s.cur.core 3 else s
    .ok (s.putBytes s.cur.core (ps.zip (os.map (·.2))))

/-- The notice with which a page request goes to the host. -/
def State.pageNotice (s : State) (r : PageRequest) : HostNotice :=
  let p := s.part r.part
  match r.host with
  | none => .pageRequest p.dpasid (r.page / 4096)
  | some h => .pageRequest p.hpasid h

/-- The page requests that are outstanding: the first of those the device holds, as many as the host allows. -/
def State.outstanding (s : State) : List PageRequest := s.pageRequests.take (Config.spareRequests + 1)

/-- Takes requests off the list; those that waited in the device and are now among the outstanding are sent (R331). -/
def State.closeRequests (s : State) (gone : PageRequest → Bool) : State :=
  let rest := s.pageRequests.filter (fun r => !gone r)
  let sent := (rest.take (Config.spareRequests + 1)).filter (fun r => !s.outstanding.contains r)
  { s with pageRequests := rest, notices := sent.foldl (fun l r => s.pageNotice r :: l) s.notices }

/-- Asks the host for a page, once while a request for it is outstanding; a request beyond the host's allocation waits in
the device (R331). -/
def State.requestPage (s : State) (part ia : Nat) (host : Option Nat) : State :=
  let page := ia - ia % 4096
  if s.pageRequests.any (fun r => r.part == part && r.page == page && r.host == host) then s
  else
    let r : PageRequest := { part := part, page := page, host := host }
    { s with pageRequests := s.pageRequests ++ [r]
             notices := if s.pageRequests.length ≤ Config.spareRequests then s.pageNotice r :: s.notices else s.notices }

/-- A request for a host page is outstanding under a PASID. -/
def State.hostRequested (s : State) (pasid : BitVec 20) (page : Nat) : Bool :=
  s.pageRequests.any (fun r => (s.part r.part).hpasid == pasid && r.host == some page)

/-- Sends a Translation Request, once while it or a page request for the page is outstanding (R330, R331). -/
def State.askHost (s : State) (die : Nat) (pasid : BitVec 20) (page : Nat) : State :=
  if s.hostAsked.contains (die, pasid, page) || s.hostRequested pasid page then s
  else { s with hostAsked := s.hostAsked ++ [(die, pasid, page)] }

/-- What becomes of the instruction whose access does not complete: its fault, its wait, or its stop. -/
def State.settle (s : State) : Trap → Out
  | .fault c n o => .next (s.raise c n o)
  | .wait k => .next (s.waitTh k)
  | .page part ia => .next ((s.requestPage part ia none).waitTh (.page part ia))
  | .host die pasid page part ia => .next ((s.askHost die pasid page).waitTh (.hostPage part ia page))
  | .ship c => .next (s.modMy (fun x => { x with shippedTo := some c }))
  | .stop f => .fault f

end Sys2Proof.Machine
end

