-- ==== Sys2Proof/Machine/Operands.lean ====
section
/-! DEFINITION. The operand forms: integers of a type, the second operand of a vector form, the compares of Table
3-10 on integers, and the fields that format I keeps in SH. -/

namespace Sys2Proof.Machine

/-- An operand word read as the type of a saturating form: nat64 under T1 = 7, int64 otherwise (R76). -/
def readInt (t1 : BitVec 4) (w : Word) : Int := if t1 = 7 then (w.toNat : Int) else w.toInt

/-- The result of a saturating form: clamped under SAT, else the low 64 bits (R76). -/
def saturate (sat : BitVec 1) (t1 : BitVec 4) (e : Int) : Word :=
  if sat = 1 then
    if t1 = 3 then BitVec.ofInt 64 (min (max e (-2 ^ 63)) (2 ^ 63 - 1))
    else BitVec.ofInt 64 (min (max e 0) (2 ^ 64 - 1))
  else BitVec.ofInt 64 e

/-- IMM32 sign-extended to 64 bits (R63). -/
def sextImm (imm : BitVec 32) : Word := imm.signExtend 64

/-- A condition code on two values of one width: the signed column for EQ to GT, the unsigned forms as nat (R67,
Table 3-10). -/
def condInt {n : Nat} (cc : BitVec 4) (a b : BitVec n) : Bool :=
  match cc.toNat with
  | 0 => a == b
  | 1 => a != b
  | 2 => a.toInt < b.toInt
  | 3 => b.toInt ≤ a.toInt
  | 4 => a.toNat < b.toNat
  | 5 => b.toNat ≤ a.toNat
  | 6 => a.toInt ≤ b.toInt
  | 7 => b.toInt < a.toInt
  | 8 => a.toNat ≤ b.toNat
  | 9 => b.toNat < a.toNat
  | _ => false

/-- The compare of CMP, CMPI and CHK: 64 bits under T1 = 3, the low 32 under T1 = 2 (R80). -/
def condScalar (t1 cc : BitVec 4) (a b : Word) : Bool :=
  if t1 = 2 then condInt cc (a.extractLsb' 0 32) (b.extractLsb' 0 32) else condInt cc a b

/-- The second operand of lane `i` of a vector instruction (R96). -/
def State.bval (s : State) (f : FV) (i : Nat) : Lane :=
  if f.var = 0 then (s.vreg f.b).getD i 0
  else if f.var = 1 then (s.sa f.b).extractLsb' 0 32
  else f.imm

/-- The third operand of lane `i`: C, or the old D in form 10 (R96, R101). -/
def State.cval (s : State) (f : FV) (i : Nat) : Lane :=
  (s.vreg (if f.var = 2 then f.d else f.c)).getD i 0

/-- The second operand of a mask instruction, all 64 bits (R113). -/
def State.kval (s : State) (f : FV) : Word :=
  if f.var = 0 then s.kreg f.b else if f.var = 1 then s.sa f.b else sextImm f.imm

/-- Lane `i` is active: k0[i] = 0 (R97). -/
def State.active (s : State) (i : Nat) : Bool := !(s.me.k.getD 0 0).getLsbD i

/-- The lanes of a register with the active ones replaced (R97). -/
def State.mergeActive (s : State) (old : VReg) (new : Nat → Lane) : VReg :=
  Vector.ofFn (fun i : Fin 64 => if s.active i.val then new i.val else old.getD i.val 0)

end Sys2Proof.Machine
end

