-- ==== Sys2Proof/Machine/Scalar.lean ====
section
/-! DEFINITION. The scalar family: integer arithmetic and logic, fields, moves, addresses, compares and predicates
(R70, R73 to R81). -/

namespace Sys2Proof.Machine

/-- Writes a result to D and retires. -/
def retire (s : State) (d : BitVec 8) (v : Word) : Out := .next (s.setSA d v).advance

/-- A register form: its result from reg(A) and reg(B) (Table 4-2). -/
def binary (f : FQ) (s : State) (op : Word → Word → Word) : Out :=
  guarded f.g f.gn s (fun s => retire s f.d (op (s.sa f.a) (s.sa f.b)))

/-- A form with one register operand. -/
def unary (f : FQ) (s : State) (op : Word → Word) : Out :=
  guarded f.g f.gn s (fun s => retire s f.d (op (s.sa f.a)))

/-- An immediate form: its result from reg(A). -/
def immediate (f : FI) (s : State) (op : Word → Word) : Out :=
  guarded f.g f.gn s (fun s => retire s f.d (op (s.sa f.a)))

/-- NOP (R70). -/
def execNop (f : FQ) (s : State) : Out := guarded f.g f.gn s (fun s => .next s.advance)

/-- ADD (R76). -/
def execAdd (f : FQ) (s : State) : Out :=
  binary f s (fun a b => saturate f.sat f.t1 (readInt f.t1 a + readInt f.t1 b))
/-- SUB (R76). -/
def execSub (f : FQ) (s : State) : Out :=
  binary f s (fun a b => saturate f.sat f.t1 (readInt f.t1 a - readInt f.t1 b))
/-- ADDI (R76): SAT is SH[5], and the immediate is signed in every form. -/
def execAddi (f : FI) (s : State) : Out :=
  immediate f s (fun a => saturate (f.sh.extractLsb' 5 1) f.t1 (readInt f.t1 a + f.imm.toInt))
/-- MUL (R76). -/
def execMul (f : FQ) (s : State) : Out :=
  binary f s (fun a b => saturate f.sat f.t1 (readInt f.t1 a * readInt f.t1 b))
/-- MULH (R75). -/
def execMulh (f : FQ) (s : State) : Out :=
  binary f s (fun a b => BitVec.ofInt 64 (a.toInt * b.toInt / 2 ^ 64))
/-- MULHU (R75). -/
def execMulhu (f : FQ) (s : State) : Out :=
  binary f s (fun a b => BitVec.ofNat 64 (a.toNat * b.toNat / 2 ^ 64))
/-- DIV (R77). -/
def execDiv (f : FQ) (s : State) : Out :=
  binary f s (fun a b => if b = 0 then -1 else BitVec.ofInt 64 (a.toInt.tdiv b.toInt))
/-- DIVU (R77). -/
def execDivu (f : FQ) (s : State) : Out :=
  binary f s (fun a b => if b = 0 then -1 else BitVec.ofNat 64 (a.toNat / b.toNat))
/-- REM (R77). -/
def execRem (f : FQ) (s : State) : Out :=
  binary f s (fun a b => if b = 0 then a else BitVec.ofInt 64 (a.toInt.tmod b.toInt))
/-- REMU (R77). -/
def execRemu (f : FQ) (s : State) : Out :=
  binary f s (fun a b => if b = 0 then a else BitVec.ofNat 64 (a.toNat % b.toNat))
/-- AND (R75). -/
def execAnd (f : FQ) (s : State) : Out := binary f s (· &&& ·)
/-- OR (R75). -/
def execOr (f : FQ) (s : State) : Out := binary f s (· ||| ·)
/-- XOR (R75). -/
def execXor (f : FQ) (s : State) : Out := binary f s (· ^^^ ·)
/-- ANDN (R75). -/
def execAndn (f : FQ) (s : State) : Out := binary f s (fun a b => a &&& ~~~b)
/-- ANDI (R75). -/
def execAndi (f : FI) (s : State) : Out := immediate f s (· &&& sextImm f.imm)
/-- ORI (R75). -/
def execOri (f : FI) (s : State) : Out := immediate f s (· ||| sextImm f.imm)
/-- XORI (R75). -/
def execXori (f : FI) (s : State) : Out := immediate f s (· ^^^ sextImm f.imm)

/-- A shift count: the low six bits (R75). -/
def count6 (w : Word) : Nat := w.toNat % 64
/-- The shift count of an immediate form: SH[5:0] (R75). -/
def sh6 (sh : BitVec 8) : Nat := sh.toNat % 64
/-- Rotation left (Table 4-2). -/
def rotl (a : Word) (n : Nat) : Word := if n = 0 then a else (a <<< n) ||| (a >>> (64 - n))

/-- SHL (R75). -/
def execShl (f : FQ) (s : State) : Out := binary f s (fun a b => a <<< count6 b)
/-- SHR (R75). -/
def execShr (f : FQ) (s : State) : Out := binary f s (fun a b => a >>> count6 b)
/-- SRA (R75). -/
def execSra (f : FQ) (s : State) : Out := binary f s (fun a b => a.sshiftRight (count6 b))
/-- SHLI (R75). -/
def execShli (f : FI) (s : State) : Out := immediate f s (· <<< sh6 f.sh)
/-- SHRI (R75). -/
def execShri (f : FI) (s : State) : Out := immediate f s (· >>> sh6 f.sh)
/-- SRAI (R75). -/
def execSrai (f : FI) (s : State) : Out := immediate f s (fun a => a.sshiftRight (sh6 f.sh))
/-- ROL (R75). -/
def execRol (f : FQ) (s : State) : Out := binary f s (fun a b => rotl a (count6 b))
/-- ROLI (R75). -/
def execRoli (f : FI) (s : State) : Out := immediate f s (fun a => rotl a (sh6 f.sh))

/-- The lowest position from 0 where a test holds, 64 when none. -/
def firstBit (t : Nat → Bool) : Nat := ((List.range 64).find? t).getD 64
/-- The number of one bits. -/
def popCount (a : Word) : Nat := ((List.range 64).filter a.getLsbD).length

/-- CLZ (R75). -/
def execClz (f : FQ) (s : State) : Out := unary f s (fun a => BitVec.ofNat 64 (firstBit a.getMsbD))
/-- CTZ (R75). -/
def execCtz (f : FQ) (s : State) : Out := unary f s (fun a => BitVec.ofNat 64 (firstBit a.getLsbD))
/-- POPC (R75). -/
def execPopc (f : FQ) (s : State) : Out := unary f s (fun a => BitVec.ofNat 64 (popCount a))
/-- MIN (R75). -/
def execMin (f : FQ) (s : State) : Out := binary f s (fun a b => if a.toInt ≤ b.toInt then a else b)
/-- MAX (R75). -/
def execMax (f : FQ) (s : State) : Out := binary f s (fun a b => if a.toInt ≤ b.toInt then b else a)
/-- MINU (R75). -/
def execMinu (f : FQ) (s : State) : Out := binary f s (fun a b => if a.toNat ≤ b.toNat then a else b)
/-- MAXU (R75). -/
def execMaxu (f : FQ) (s : State) : Out := binary f s (fun a b => if a.toNat ≤ b.toNat then b else a)

/-- The low `w` bits, sign-extended. -/
def sextFrom (w : Nat) (a : Word) : Word := (a <<< (64 - w)).sshiftRight (64 - w)
/-- The low `w` bits, zero-extended. -/
def zextFrom (w : Nat) (a : Word) : Word := (a <<< (64 - w)) >>> (64 - w)

/-- SEXT (R78): SH[5:0] is the width less one. -/
def execSext (f : FI) (s : State) : Out := immediate f s (sextFrom (sh6 f.sh + 1))
/-- ZEXT (R78). -/
def execZext (f : FI) (s : State) : Out := immediate f s (zextFrom (sh6 f.sh + 1))
/-- The length of a bit field: IMM32[5:0] + 1 (R78). -/
def fieldLen (imm : BitVec 32) : Nat := imm.toNat % 64 + 1
/-- BFX (R78). -/
def execBfx (f : FI) (s : State) : Out := immediate f s (fun a => zextFrom (fieldLen f.imm) (a >>> sh6 f.sh))
/-- BFX.SX (R78). -/
def execBfxSx (f : FI) (s : State) : Out := immediate f s (fun a => sextFrom (fieldLen f.imm) (a >>> sh6 f.sh))
/-- A field of one word replaced by the low bits of another (R78). -/
def insertField (old a : Word) (pos len : Nat) : Word :=
  let mask := zextFrom len (-1) <<< pos
  (old &&& ~~~mask) ||| ((a <<< pos) &&& mask)
/-- BFI (R78): D is a source as well. -/
def execBfi (f : FI) (s : State) : Out :=
  immediate f s (fun a => insertField (s.sa f.d) a (sh6 f.sh) (fieldLen f.imm))
/-- SEL (R78). -/
def execSel (f : FQ) (s : State) : Out := binary f s (fun a b => if s.preg f.c then a else b)
/-- LI (R78). -/
def execLi (f : FI) (s : State) : Out := immediate f s (fun _ => sextImm f.imm)
/-- LIH (R78). -/
def execLih (f : FI) (s : State) : Out :=
  immediate f s (fun _ => f.imm ++ (s.sa f.d).extractLsb' 0 32)
/-- MOV (R78): a k register is ILLEGAL in a helper or in the hod (R15). -/
def execMov (f : FQ) (s : State) : Out :=
  if (okK f.d || okK f.a) && !s.isControl then illegal (f.word 0x039) s
  else guarded f.g f.gn s (fun s => .next (s.setSAK f.d (s.sak f.a)).advance)
/-- AADD (R79). -/
def execAadd (f : FQ) (s : State) : Out := binary f s (fun a b => if f.na = 1 then a - b else a + b)
/-- AADDI (R79). -/
def execAaddi (f : FI) (s : State) : Out := immediate f s (· + (sextImm f.imm <<< (f.sh.toNat % 8)))

/-- CMP (R80). -/
def execCmp (f : FQ) (s : State) : Out :=
  guarded f.g f.gn s (fun s => .next (s.setPreg f.d (condScalar f.t1 f.t2 (s.sa f.a) (s.sa f.b))).advance)
/-- CMPI (R80). -/
def execCmpi (f : FI) (s : State) : Out :=
  guarded f.g f.gn s (fun s => .next (s.setPreg f.d (condScalar f.t1 f.t2 (s.sa f.a) (sextImm f.imm))).advance)

/-- A predicate form on p[A] XOR NA and p[B] (R81). -/
def predicate (f : FQ) (s : State) (op : Bool → Bool → Bool) : Out :=
  guarded f.g f.gn s (fun s =>
    .next (s.setPreg f.d (op (s.preg f.a != (f.na == 1)) (s.preg f.b))).advance)

/-- PAND (R81). -/
def execPand (f : FQ) (s : State) : Out := predicate f s (· && ·)
/-- POR (R81). -/
def execPor (f : FQ) (s : State) : Out := predicate f s (· || ·)
/-- PXOR (R81). -/
def execPxor (f : FQ) (s : State) : Out := predicate f s (· != ·)
/-- PNOT (R81). -/
def execPnot (f : FQ) (s : State) : Out :=
  guarded f.g f.gn s (fun s => .next (s.setPreg f.d (!s.preg f.a)).advance)

end Sys2Proof.Machine
end

