-- ==== Sys2Proof/Machine/Control.lean ====
section
/-! DEFINITION. Control registers (R22 to R27, R82), branches (R83, R84), traps and checks (R87, R88), system calls,
the return from a fault, halt, fetch fence and yield (R91 to R95). -/

namespace Sys2Proof.Machine

/-! Control registers. -/

/-- HLIVE: bit n for helper hn (Table 1-7). -/
def Core.hlive (c : Core) : Word :=
  BitVec.ofNat 64 (((List.range 11).filter (fun n => n ≥ 1 && (c.ctx n).live)).foldl (fun a n => a + 2 ^ n) 0)

/-- VXY (Table 1-7). -/
def Core.vxy (c : Core) : Word := 0#35 ++ c.ghm1 ++ 0#2 ++ c.gwm1 ++ 0#3 ++ c.vy ++ 0#2 ++ c.vx

/-- PXY of a core: package, die, and the position on the die (Table 1-7). -/
def pxy (pkg : BitVec 12) (core : Nat) : Word :=
  let site := core / 32 % 64
  0#32 ++ pkg ++ 0#2 ++ BitVec.ofNat 2 (dieOf core) ++ 0#3 ++ BitVec.ofNat 5 (4 * (site / 8) + core % 32 / 8) ++ 0#2
    ++ BitVec.ofNat 6 (8 * (site % 8) + core % 8)

/-- SKEW: VX + VY (Table 1-7). -/
def Core.skew (c : Core) : Nat := c.vx.toNat + c.vy.toNat

/-- SIGCTL (Table 1-7). -/
def Core.sigctl (c : Core) : Word :=
  c.sigCnt ++ c.sigLast ++ 0#14 ++ BitVec.ofBool c.sigLock ++ BitVec.ofBool c.sigEn

/-- The value a control register reads in the context whose turn it is (R22, R23). -/
def State.readCr (s : State) (n : Nat) : Word :=
  let c := s.me
  match n with
  | 0x000 => BitVec.ofNat 64 s.clk
  | 0x001 => s.tbase
  | 0x002 => c.vxy
  | 0x003 => pxy s.service.pkg s.cur.core
  | 0x004 => c.gid.zeroExtend 64
  | 0x005 => c.part.zeroExtend 64
  | 0x006 => (c.era ++ c.tag).zeroExtend 64
  | 0x008 => BitVec.ofNat 64 c.skew
  | 0x020 => c.waitth.zeroExtend 64
  | 0x021 => c.bto.zeroExtend 64
  | 0x022 => c.hlive
  | 0x040 => c.fpmode.zeroExtend 64
  | 0x041 => c.fpflags.zeroExtend 64
  | 0x060 => c.sigctl
  | 0x070 => c.trappc
  | 0x071 => c.fltrec.w0
  | 0x072 => c.fltrec.w1
  | 0x073 => c.fltrec.w2
  | 0x074 => c.fltrec.w3
  | 0x080 => s.my.monaddr
  | _ =>
    if n < 0x018 then (c.tshp.getD (n - 0x010) 0).zeroExtend 64
    else if n < 0x034 then c.evw.getD (n - 0x030) 0
    else if n < 0x110 then c.vwb.getD (n - 0x100) 0
    else if n < 0x120 then c.vwl.getD (n - 0x110) 0
    else c.vwi.getD (n - 0x120) 0

/-- A control register that only the control context may write (Table 1-7, Ctx). -/
def crControlOnly (n : Nat) : Bool := [0x020, 0x021, 0x040, 0x041, 0x060, 0x070].contains n

/-- WAITTH as stored (R24). -/
def storedWaitth (limit v : BitVec 32) : BitVec 32 :=
  BitVec.ofNat 32 (min (max v.toNat 1024) limit.toNat)

/-- VWL as stored: V falls when LOG2 lies outside 16 to 40 (R24). -/
def storedVwl (v : Word) : Word :=
  let l := (v &&& 0x3F).toNat
  if 16 ≤ l && l ≤ 40 then v &&& 0x13F else v &&& 0x3F

/-- The core after a write of a control register; a read-only one ignores it (R22, R24). `wtmax` is the partition's. -/
def Core.writeCr (c : Core) (wtmax : BitVec 32) (n : Nat) (v : Word) : Core :=
  match n with
  | 0x020 => { c with waitth := storedWaitth wtmax (v.extractLsb' 0 32) }
  | 0x021 => { c with bto := BitVec.ofNat 32 (max (v.extractLsb' 0 32).toNat 4096) }
  | 0x040 => { c with fpmode := v.extractLsb' 0 4 }
  | 0x041 => { c with fpflags := c.fpflags &&& ~~~(v.extractLsb' 0 5) }
  | 0x060 => if c.sigLock then c else { c with sigEn := v.getLsbD 0 }
  | 0x070 => { c with trappc := v &&& ~~~0x38 }
  | _ =>
    if 0x030 ≤ n && n < 0x034 then { c with evw := c.evw.setIfInBounds (n - 0x030) v }
    else if 0x100 ≤ n && n < 0x110 then { c with vwb := c.vwb.setIfInBounds (n - 0x100) (v &&& ~~~0xFFFF) }
    else if 0x110 ≤ n && n < 0x120 then { c with vwl := c.vwl.setIfInBounds (n - 0x110) (storedVwl v) }
    else if 0x120 ≤ n && n < 0x130 then { c with vwi := c.vwi.setIfInBounds (n - 0x120) (v &&& 0x00FFFFFFFFFF0007) }
    else c

/-- MFC (R82): a number absent from Table 1-7 is ILLEGAL when the guard is true (R22, R61). The value is that from before
a write of another context in the same clock (R25). -/
def execMfc (f : FI) (s : State) : Out :=
  guarded f.g f.gn s (fun s =>
    let n := f.imm.toNat
    if okCr n then retire s f.d (s.me.seenCr s.clk s.cur.ctx.val n (s.readCr n)) else illegal (f.word 0x03C) s)

/-- A control register that no program writes (Table 1-7). -/
def crReadOnly (n : Nat) : Bool := n ≤ 0x018 || n == 0x022 || 0x071 ≤ n && n ≤ 0x080

/-- Notes the value that a control register holds before a write of a context in a clock (R25, R27); a write that the
register ignores is none (R22). -/
def Core.noteCr (c : Core) (clk n ctx : Nat) (old : Word) : Core :=
  if crReadOnly n then c
  else { c with crWrites := (clk, (if c.crWrites.1 = clk then c.crWrites.2 else []) ++ [(n, ctx, old)]) }

/-- The context issues nothing for some clocks after this one (Table 4-8). -/
def State.rest (s : State) (n : Nat) : State := s.modMy (fun x => { x with notBefore := s.clk + n })

/-- MTC (R82): a number absent from Table 1-7, or a register of the control context alone written elsewhere, is ILLEGAL
when the guard is true (R22, R61). -/
def execMtc (f : FI) (s : State) : Out :=
  let n := f.imm.toNat
  guarded f.g f.gn s (fun s =>
    if !okCr n || crControlOnly n && !s.isControl then illegal (f.word 0x03D) s
    else .next ((s.modMe (fun c => (c.writeCr (s.part c.part.toNat).wtmax n (s.sa f.a)).noteCr s.clk n s.cur.ctx.val
      (s.readCr n))).rest 3).advance)

/-! Branches. -/

/-- The condition of BR: reg(C) with zero, or a predicate (R84). -/
def State.brCond (s : State) (f : FB) : Bool :=
  if okP f.c then s.preg f.c == (f.cc == 1) else condInt f.cc (s.sa f.c) 0

/-- The count of LOOP after its decrement (R84). -/
def State.loopCount (s : State) (f : FB) : Word := s.sa f.c - 1

/-- Whether an instruction transfers control in the core that decides, and where to (R83, R84). -/
def State.decides (s : State) : Instr → Option Word
  | .br f => if s.guard f.g f.gn && s.brCond f then some (linePc s.my.pc f.dline f.tslot) else none
  | .j f => if s.guard f.g f.gn then some (linePc s.my.pc f.dline f.tslot) else none
  | .jr f => if s.guard f.g f.gn then some (s.sa f.a) else none
  | .loop f => if s.guard f.g f.gn && s.loopCount f != 0 then some (linePc s.my.pc f.dline f.tslot) else none
  | _ => none

/-- The target of a taken branch: the deciding core's own, or the one forwarded to a follower; none when it is not
taken (R83). -/
def State.outcome (s : State) (i : Instr) : Option Word :=
  match s.cur.forwarded with
  | some f => if f.taken then some f.next else none
  | none => s.decides i

/-- Goes where a branch goes: a follower at the forwarded PC, the deciding core by a transfer that is checked (R55,
R83). -/
def State.steer (s : State) : Option Word → State
  | none => s.advance
  | some t => if s.cur.forwarded.isSome then s.goTo t else s.transfer t

/-- A branch: its register effects where the core's own guard is true, then its direction (R83, R84). The link is the
PC that follows, written when the branch is taken. -/
def branch (i : Instr) (g : BitVec 3) (gn : BitVec 1) (link : BitVec 8) (effect : State → State) (s : State) : Out :=
  let o := s.outcome i
  let next := nextPc s.my.pc
  let s' := if s.guard g gn then (if o.isSome then (effect s).setSA link next else effect s) else s
  .next (s'.steer o)

/-- BR (R84). -/
def execBr (f : FB) (s : State) : Out := branch (.br f) f.g f.gn f.l id s
/-- J (R84). -/
def execJ (f : FB) (s : State) : Out := branch (.j f) f.g f.gn f.l id s
/-- JR (R84). -/
def execJr (f : FQ) (s : State) : Out := branch (.jr f) f.g f.gn f.d id s
/-- LOOP (R84). -/
def execLoop (f : FB) (s : State) : Out :=
  branch (.loop f) f.g f.gn 0 (fun s => s.setSA f.c (s.loopCount f)) s

/-! Traps, checks, calls and the return. -/

/-- TRAP (R87). -/
def execTrap (f : FI) (s : State) : Out :=
  guarded f.g f.gn s (fun s => .next (s.raise .trap 0 (f.imm.zeroExtend 64)))

/-- CHK (R88). -/
def execChk (f : FI) (s : State) : Out :=
  guarded f.g f.gn s (fun s =>
    if condScalar f.t1 f.t2 (s.sa f.a) (sextImm f.imm) then .next s.advance
    else .next (s.raise .trap 0 (0x01#8 ++ f.sh ++ f.t2 ++ 0#12 ++ (s.sa f.a).extractLsb' 0 32)))

/-- SYSC (R92): one request to firmware; the context waits for the reply that SYSC_REPLY brings. -/
def execSysc (f : FI) (s : State) : Out :=
  guarded f.g f.gn s (fun s =>
    let c := s.cur.core
    let x := s.cur.ctx.val
    if s.sysc.any (fun r => r.gid == s.me.gid && r.core == c && r.ctx == x) then .next (s.waitTh .sysc)
    else
      let r : SyscRequest := { core := c, ctx := x, gid := s.me.gid, service := f.imm.extractLsb' 0 16, since := s.clk,
                               begun := false, s2 := s.sa 2, s3 := s.sa 3, answer := none }
      .next (({ s with sysc := s.sysc ++ [r] }.nonRestartable c 3).waitTh .sysc))

/-- The context is h10 of the supervisor core of a supervised gang (R91). -/
def State.isHandler (s : State) : Bool :=
  s.cur.ctx.val == 10 && match s.gangOf s.cur.core with
    | some g => g.supervisor == some s.cur.core
    | none => false

/-- The status of Table 4-12 for the context that a TRET names, with the core. -/
def State.tretStatus (s : State) (w : Word) : Nat × Option Nat :=
  let n := (w.extractLsb' 16 4).toNat
  match s.namedCore w with
  | none => (2, none)
  | some c =>
    if n ≥ 12 then (2, none)
    else if (((s.core c).ctx n).stop).isSome then (0, some c) else (1, none)

/-- TRET (R91, R358): the status is written, and the action goes on its way to the named core; action 2 ends the
gang, as actions 0 and 1 do for a context stopped by XPHASE or XCOLLIDE. -/
def execTret (f : FI) (s : State) : Out :=
  if !s.isHandler then illegal (f.word 0x049) s
  else guarded f.g f.gn s (fun s =>
    let w := s.sa f.a
    let n := (w.extractLsb' 16 4).toNat
    let (status, core) := s.tretStatus w
    let s' := ((s.setSA f.d (BitVec.ofNat 64 status)).rest 6).advance
    match core with
    | none => .next s'
    | some c =>
      let cls := (((s.core c).ctx n).stop).map (·.cls)
      if f.imm = 2 || cls == some .xPhase || cls == some .xCollide then
        .next (s'.modGang s.me.gid (fun g => { g with fate := g.fate.or (some 2) }))
      else .next { s' with posts := s'.posts ++ [.tret c n (f.imm.extractLsb' 0 2)] })

/-- A copy of the hod owes a record, for which its core's end waits (R93, R179). -/
def Core.owes (c : Core) : Bool := c.copies.any (fun k => !k.owed.isEmpty)

/-- A copy of the hod is still landing (R93). -/
def Core.landing (c : Core) : Bool := c.copies.any (fun k => k.state == .running && decide (k.count < k.total))

/-- Every condition of a core's end but its copies (R93). -/
def Core.programsEnded (c : Core) : Bool :=
  (c.ctx 0).halted && ((c.ctx 11).halted || !(c.ctx 11).live) && c.hlive == 0

/-- A record of a copy as it stands. -/
def Copy.recordNow (k : Copy) (status : Nat) : CopyRecord := { status := status, fcode := k.fcode, count := k.count }

/-- A copy with a ring owes one more record. -/
def Copy.owe (k : Copy) (status : Nat) : Copy :=
  { k with owed := if k.ring.isSome then k.owed ++ [k.recordNow status] else k.owed }

/-- A copy cancelled: its record is owed, and none of completion (R225). -/
def Copy.cancelled (k : Copy) (clk : Nat) : Copy :=
  { k with state := .cancelled, ended := clk, owed := k.owed.filter (·.status != 0) }.owe 2

/-- A frozen copy is cancelled when every other end condition holds, and its record is owed (R93, R225). -/
def Core.settleEnd (clk : Nat) (c : Core) : Core :=
  if c.programsEnded && !c.landing then
    { c with copies := c.copies.map (fun k => if k.state == .frozen then k.cancelled clk else k) }
  else c

/-- HALT (R93): in an attached core it takes effect exactly when it does in the header; it releases as R316 states. -/
def execHalt (f : FI) (s : State) : Out :=
  if 1 ≤ s.cur.ctx.val && s.cur.ctx.val ≤ 10 then illegal (f.word 0x04A) s
  else
    let takes := match s.cur.forwarded with
      | some fw => fw.guard
      | none => s.guard f.g f.gn
    if !takes then .next s.advance
    else
      let s := s.release s.cur.core
      let s := s.modMy (fun x => { x with halted := true, live := false, wait := none, issued := false })
      let s := if s.isControl then s.modMe (fun c => { c with exit := f.imm.extractLsb' 0 16, haltedAt := s.clk }) else s
      .next (s.modMe (Core.settleEnd s.clk))

/-- FENCE.I (R94): what the core has written goes home, where the fetch unit reads, and the fetch unit drops its lines; in
an attached stretcher it only serialises. The header of a course, whose helpers and hod fetch through its unit, is none
(R9). -/
def execFenceI (f : FI) (s : State) : Out :=
  guarded f.g f.gn s (fun s =>
    if s.cur.forwarded.isSome && s.me.mode == .attached && s.me.vx != 0 then .next s.advance
    else .next (((s.release s.cur.core).modMe (fun c => { c with lines := [] })).rest 12).advance)

/-- YIELD (R95). -/
def execYield (f : FI) (s : State) : Out :=
  guarded f.g f.gn s (fun s =>
    .next (s.modMy (fun x => { x with notBefore := s.clk + max 1 (f.imm.toNat % 65536) })).advance)

end Sys2Proof.Machine
end

