-- ==== Sys2Proof/Machine/Helpers.lean ====
section
/-! DEFINITION. Helpers and the hod (R166 to R168), and the bonds (R169, R170, R214 to R216). -/

namespace Sys2Proof

/-- The scope of a barrier instruction (R171). -/
def FE.scope (f : FE) : BitVec 3 := f.sub.extractLsb' 0 3
/-- IMM32[15:0]: a copy id, a bond label. -/
def FE.id16 (f : FE) : BitVec 16 := f.imm.extractLsb' 0 16

end Sys2Proof

namespace Sys2Proof.Machine

/-- An engine instruction writes its result and retires. -/
def retireE (s : State) (f : FE) (v : Word) : Out := .next (s.setSA f.d v).advance

/-! Helpers and the hod. -/

/-- A context as HSTART starts it (R166): start values, s2, the target, the first issue 4 clk later. -/
def Context.started (pc arg : Word) (at_ : Nat) : Context :=
  { Context.reset with s := Context.reset.s.setIfInBounds 2 arg, pc := pc, live := true, entryCheck := true,
                       notBefore := at_ }

/-- h10 of the supervisor core of a supervised gang: no HSTART and no task starts it (R90, R166). R229's "h10 excluded under
supervision" is read of that core alone, not of every core of the gang (DESIGN CHOICE, log 52). -/
def State.reserved (s : State) (core n : Nat) : Bool :=
  n == 10 && match s.gangOf core with
    | some g => g.supervisor == some core
    | none => false

/-- A helper that can be started (R166). -/
def State.freeHelper (s : State) (core n : Nat) : Bool :=
  let x := (s.core core).ctx n
  !x.live && x.ticket.isNone && !s.reserved core n

/-- The helper that an HSTART of number `n` starts, 11 for the hod; none when it starts nothing. -/
def State.startable (s : State) (core n : Nat) : Option Nat :=
  if n = 0 then (List.range 11).find? (fun h => 1 ≤ h && s.freeHelper core h)
  else if n = 11 then
    if ((s.core core).ctx 11).live || ((s.core core).ctx 11).halted then none else some 11
  else if s.freeHelper core n then some n else none

/-- Starts a context; a helper that is live makes the superstep non-restartable (R363). The start PC of a queued task is
checked against TGT as that of HSTART is: R55 lists it among neither the checked nor the unchecked (DESIGN CHOICE, log
52). -/
def State.startContext (s : State) (core n : Nat) (pc arg : Word) (at_ : Nat) : State :=
  (if n = 11 then s else s.nonRestartable core 4).modCtx core n (fun _ => Context.started pc arg at_)

/-- HSTART (R166). -/
def execHstart (f : FE) (s : State) : Out :=
  guarded f.g f.gn s (fun s =>
    if !s.isControl then retireE s f 3
    else match s.startable s.cur.core (f.flg.extractLsb' 0 4).toNat with
      | none => retireE s f 0
      | some n =>
        let pc := linePc s.my.pc f.imm (f.sub.extractLsb' 0 3)
        retireE (s.startContext s.cur.core n pc (s.sa f.b) (s.clk + 4)) f (BitVec.ofNat 64 n))

/-- A context ends: the tasks that it has put no longer have an issuer (R229). -/
def State.issuerEnds (s : State) (core n : Nat) : State :=
  { s with tasks := s.tasks.map (fun k => if k.issuer == (core, n) then { k with gone := true } else k) }

/-- Ends a helper: its state is discarded, and its task retires with its pins (R167, R229). -/
def State.endHelper (s : State) (core n : Nat) : State :=
  let t := ((s.core core).ctx n).ticket
  let s := (s.modCtx core n (fun _ => Context.reset)).modCore core (Core.settleEnd s.clk)
  { s with tasks := s.tasks.filter (fun k => t != some k.number) }

/-- HEND (R167): a release (R316); a shipped helper ends where it runs, which releases its task's pins (R332), and its
return message ends it at home; the hod becomes idle. -/
def execHend (f : FE) (s : State) : Out :=
  if s.isControl then illegal (f.word 0x1C1) s
  else guarded f.g f.gn s (fun s =>
    let core := s.cur.core
    let n := s.cur.ctx.val
    let t := s.my.ticket
    let s := (s.release core).issuerEnds core n
    if s.isHod then
      .next ((s.modCtx core n (fun _ => Context.reset)).modCore core (Core.settleEnd s.clk))
    else if s.my.shippedTo.isSome then
      .next { s.modMy (fun x => { x with halted := true }) with
        posts := s.posts ++ [.helperReturn core n]
        tasks := s.tasks.map (fun k => if t == some k.number then { k with pins := [] } else k) }
    else .next (s.endHelper core n))

/-- HELPER_RETURN_MESSAGE (R167): the return message of a shipped helper reaches its home core. -/
def execHelperReturnMessage (s : State) : Out :=
  let core := s.cur.args.core
  let n := s.cur.args.ctx.val
  if s.posts.contains (.helperReturn core n) then
    .next ({ s with posts := s.posts.erase (.helperReturn core n) }.endHelper core n)
  else .next s

/-- The mask of an HJOIN, without the helper's own bit (R168). -/
def State.joinMask (s : State) (f : FE) : Word :=
  (f.imm.extractLsb' 0 11 &&& 0x7FE).zeroExtend 64 &&& ~~~(1#64 <<< s.cur.ctx.val)

/-- HJOIN (R168). -/
def execHjoin (f : FE) (s : State) : Out :=
  guarded f.g f.gn s (fun s =>
    if s.me.hlive &&& s.joinMask f = 0 then retireE s f s.me.hlive else .next (s.waitTh .hjoin))

/-- The status word of HSTAT (R168). -/
def Context.status (x : Context) (hod : Bool) : Word :=
  BitVec.ofBool (x.live && !(hod && x.halted)) ++ BitVec.ofBool x.shippedTo.isSome ++ BitVec.ofBool x.wait.isSome
    ++ BitVec.ofBool x.stop.isSome ++ 0#60

/-- HSTAT (R168). -/
def execHstat (f : FE) (s : State) : Out :=
  guarded f.g f.gn s (fun s =>
    let n := (f.imm.extractLsb' 0 4).toNat
    retireE s f ((s.me.ctx n).status (n == 11)))

/-! Bonds. -/

/-- A core that has left the gang stream (R169). -/
def Core.detached (c : Core) : Bool := c.mode != .attached

/-- The core becomes the header of a bond of its own at a PC, issuing from a clock on (R214, R216). -/
def State.becomeHeader (s : State) (core : Nat) (pc : Word) (at_ : Nat) : State :=
  s.modCore core (fun c =>
    { c with mode := .bondHeader, stream := [], conds := [], again := false, redo := false }.modCtx 0 (fun x =>
      { x with pc := pc, notBefore := at_, wait := none, issued := false, afterGissue := false, entryCheck := false }))

/-- The instruction of a bond stream that a follower executes next: the one at its place, or the one that the last
leads to (R216). A follower that has executed no bond instruction yet takes the same, and its own PC when its header has
forwarded none: the spec speaks only of the instruction after the last one executed (DESIGN CHOICE, log 49). -/
def State.nextInBond (s : State) (core header : Nat) : Word :=
  match (s.core header).stream[(s.core core).spos]? with
  | some i => i.pc
  | none => match (s.core header).stream.getLast? with
    | some i => i.next
    | none => ((s.core core).ctx 0).pc

/-- A follower whose header has rejoined becomes a header of its own, issuing at r + 5, r the clock of the rejoin
(R216). -/
def State.releaseFollower (s : State) (n header : Nat) : State :=
  s.becomeHeader n (s.nextInBond n header) ((s.core header).rejoinedAt + 5)

/-- Followers of a bond whose header has rejoined and now detaches anew become headers of their own (R216). -/
def State.releaseFollowers (s : State) (core : Nat) : State :=
  (match s.gangOf core with | some g => g.cores | none => []).foldl (fun s n =>
    if (s.core n).mode == StreamMode.follower core then s.releaseFollower n core else s) s

/-- A bond instruction: control only (R15). -/
def bondOp (opc : BitVec 10) (f : FE) (s : State) (k : State → Out) : Out :=
  controlOnly (f.word opc) f.g f.gn s k

/-- GDETACH is ILLEGAL where the core has VX 0 or is detached already (R169). -/
def detachable (f : FE) (s : State) (k : State → Out) : Out :=
  bondOp 0x1C4 f s (fun s => if s.me.vx = 0 || s.me.detached then illegal (f.word 0x1C4) s else k s)

/-- GDETACH (R169, R215): the target is fetched as a transfer of control (R55). -/
def execGdetach (f : FE) (s : State) : Out :=
  detachable f s (fun s =>
    let pc := linePc s.my.pc f.imm (f.sub.extractLsb' 0 3)
    let s := (s.setSA f.d 0).releaseFollowers s.cur.core
    let s := (s.advance.becomeHeader s.cur.core s.my.pc (s.clk + 5))
    .next (s.transfer pc))

/-- The block in progress is not checked (R368). -/
def Core.uncheck (c : Core) : Core := { c with checker := { c.checker.reopen with active := false } }

/-- GDETACH.JOIN (R169, R215): the core takes its place in the bond stream of its west neighbour at the first
instruction that the neighbour issues after this clock. -/
def execGdetachJoin (f : FE) (s : State) : Out :=
  detachable f s (fun s =>
    match s.peer s.cur.core (s.me.vx.toNat - 1) s.me.vy.toNat with
    | none => retireE s f 2
    | some west =>
      if !(s.core west).detached then retireE s f 2
      else
        let lead := match (s.core west).mode with
          | .follower h => h
          | _ => west
        let lag := (s.core west).skew - (s.core lead).skew
        let stream := (s.core lead).stream
        let at_ := (stream.findIdx? (fun i => decide (i.clk + lag ≥ s.clk + 1))).getD stream.length
        let s := (s.setSA f.d 1).advance
        .next (s.modMe (fun c => { c.uncheck with mode := .follower lead, spos := at_, redo := false })))

/-- The place in the gang stream after the first GMERGE of a label that has reached the core's skew point since a
clock (R170, R188). -/
def State.mergePoint (s : State) (core : Nat) (label : BitVec 16) (since : Nat) : Option Nat :=
  match s.gangOf core with
  | none => none
  | some g =>
    let skew := (s.core core).skew
    ((s.core g.origin).stream.findIdx? (fun i => match i.instr with
      | .gmerge f => i.guard && f.id16 == label && decide (since ≤ i.clk + skew) && decide (i.clk + skew ≤ s.clk)
      | _ => false)).map (· + 1)

/-- GATTACH (R170): a detached core waits for its GMERGE and rejoins the gang stream there. -/
def execGattach (f : FE) (s : State) : Out :=
  bondOp 0x1C5 f s (fun s =>
    if !s.me.detached then retireE s f 1
    else
      let k := WaitKind.gattach f.id16
      let since := match s.my.wait with
        | some w => if w.kind = k then w.since else s.clk
        | none => s.clk
      match s.mergePoint s.cur.core f.id16 since with
      | none => .next (s.waitBto k)
      | some n => .next ((s.setSA f.d 0).advance.modMe (fun c =>
          { c.uncheck with mode := .attached, spos := n, conds := [], again := false, redo := false, rejoinedAt := s.clk })))

/-- GMERGE (R170): no effect of its own. -/
def execGmerge (f : FE) (s : State) : Out := bondOp 0x1C6 f s (fun s => .next s.advance)

end Sys2Proof.Machine
end

