-- ==== Sys2Proof/Machine/Flags.lean ====
section
/-! DEFINITION. Number formats, rounding and the floating-point flags (R29 to R49): exact values, decoding and rounding
of the binary formats, the logarithmic formats, conversion between every pair of types, and the estimates of R103 to
R105. -/

namespace Sys2Proof.Machine

/-- FPFLAGS: IV[4] DZ[3] OF[2] UF[1] NX[0] (Table 1-7). -/
abbrev FpFlags := BitVec 5

/-- Invalid. -/
def flagIV : FpFlags := 16
/-- Division by zero. -/
def flagDZ : FpFlags := 8
/-- Overflow, which raises NX too (R33). -/
def flagOF : FpFlags := 5
/-- Underflow, which raises NX too (R33). -/
def flagUF : FpFlags := 3
/-- Inexact. -/
def flagNX : FpFlags := 1

/-- Raises flags: FPFLAGS is sticky (R34). -/
def State.raiseFlags (s : State) (core : Nat) (f : FpFlags) : State :=
  s.modCore core (fun c => { c with fpflags := c.fpflags ||| f })

/-! Exact values. -/

/-- An exact value: a NaN, an infinity of a sign, or a sign and a magnitude num/den; a zero keeps its sign. -/
inductive Exact where
  | nan
  | inf (neg : Bool)
  | fin (neg : Bool) (num den : Nat)
  deriving DecidableEq, Repr

/-- The value with its sign changed. -/
def Exact.neg : Exact → Exact
  | .nan => .nan
  | .inf n => .inf (!n)
  | .fin n a b => .fin (!n) a b

/-- An integer as an exact value; zero is +0. -/
def Exact.ofInt (i : Int) : Exact := .fin (i < 0) i.natAbs 1

/-- The signed numerator. -/
def signed (neg : Bool) (n : Nat) : Int := if neg then -(n : Int) else n

/-- The exact value of a signed fraction; an exact zero has the sign given. -/
def Exact.ofFrac (zeroNeg : Bool) (n : Int) (d : Nat) : Exact :=
  if n = 0 then .fin zeroNeg 0 1 else .fin (n < 0) n.natAbs d

/-- The exact sum of two values, with the flags it raises (R32); RM decides the sign of an exact zero sum. -/
def Exact.add (rm : BitVec 2) : Exact → Exact → Exact × FpFlags
  | .nan, _ => (.nan, 0)
  | _, .nan => (.nan, 0)
  | .inf a, .inf b => if a = b then (.inf a, 0) else (.nan, flagIV)
  | .inf a, .fin _ _ _ => (.inf a, 0)
  | .fin _ _ _, .inf b => (.inf b, 0)
  | .fin s a b, .fin t c d =>
    if a = 0 ∧ c = 0 then (.fin (if s = t then s else rm = 3) 0 1, 0)
    else if b = d then (.ofFrac (rm = 3) (signed s a + signed t c) b, 0)
    else (.ofFrac (rm = 3) (signed s a * d + signed t c * b) (b * d), 0)

/-- The exact product of two values, with its flags (R32). -/
def Exact.mul : Exact → Exact → Exact × FpFlags
  | .nan, _ => (.nan, 0)
  | _, .nan => (.nan, 0)
  | .inf a, .inf b => (.inf (a != b), 0)
  | .inf a, .fin t c _ => if c = 0 then (.nan, flagIV) else (.inf (a != t), 0)
  | .fin s a _, .inf t => if a = 0 then (.nan, flagIV) else (.inf (s != t), 0)
  | .fin s a b, .fin t c d => (.fin (s != t) (a * c) (b * d), 0)

/-- The exact quotient of two values, with its flags (R32). -/
def Exact.div : Exact → Exact → Exact × FpFlags
  | .nan, _ => (.nan, 0)
  | _, .nan => (.nan, 0)
  | .inf _, .inf _ => (.nan, flagIV)
  | .inf a, .fin t _ _ => (.inf (a != t), 0)
  | .fin s _ _, .inf t => (.fin (s != t) 0 1, 0)
  | .fin s a b, .fin t c d =>
    if c = 0 then (if a = 0 then (.nan, flagIV) else (.inf (s != t), flagDZ))
    else (.fin (s != t) (a * d) (b * c), 0)

/-- a × b + c exactly (R32, R45): an invalid product counts whatever the addend is. -/
def Exact.fma (rm : BitVec 2) (a b c : Exact) : Exact × FpFlags :=
  let (p, f) := a.mul b
  let (r, g) := p.add rm c
  (r, f ||| g)

/-- Comparison of two values that are not NaN: −0 equals +0 (R67). -/
def Exact.compare : Exact → Exact → Ordering
  | .inf a, .inf b => if a = b then .eq else if a then .lt else .gt
  | .inf a, .fin _ _ _ => if a then .lt else .gt
  | .fin _ _ _, .inf b => if b then .gt else .lt
  | .fin s a b, .fin t c d => Ord.compare (signed s a * d) (signed t c * b)
  | _, _ => .eq

/-- The sign of a value. -/
def Exact.isNeg : Exact → Bool
  | .nan => false
  | .inf n => n
  | .fin n _ _ => n

/-! The binary formats (R31, R32). -/

/-- A binary format: exponent and fraction bits. -/
structure Fmt where
  ebits : Nat
  fbits : Nat
  deriving DecidableEq, Repr

/-- F32. -/
def f32 : Fmt := ⟨8, 23⟩
/-- BF16. -/
def bf16 : Fmt := ⟨8, 7⟩
/-- F16. -/
def f16 : Fmt := ⟨5, 10⟩
/-- F8. -/
def f8 : Fmt := ⟨5, 2⟩

/-- The binary format of a type code (Table 2-2). -/
def fmtOf (t : Nat) : Fmt := if t = 8 then f32 else if t = 9 then bf16 else if t = 10 then f16 else f8

/-- The bias. -/
def Fmt.bias (f : Fmt) : Nat := 2 ^ (f.ebits - 1) - 1
/-- The code of +∞. -/
def Fmt.infCode (f : Fmt) : Nat := (2 ^ f.ebits - 1) * 2 ^ f.fbits
/-- The sign bit's weight. -/
def Fmt.signBit (f : Fmt) : Nat := 2 ^ (f.ebits + f.fbits)
/-- The canonical quiet NaN (R32). -/
def Fmt.nanCode (f : Fmt) : Nat := f.infCode + 2 ^ (f.fbits - 1)
/-- Every finite value of the format is a whole number over this (the smallest subnormal is its inverse). -/
def Fmt.den (f : Fmt) : Nat := 2 ^ (f.bias - 1 + f.fbits)

/-- The exact value of a code, and IV for a signalling NaN (R31, R32); `fiz` reads a subnormal as a zero of its sign
(R35). -/
def Fmt.value (f : Fmt) (fiz : Bool) (code : Nat) : Exact × FpFlags :=
  let code := code % (2 * f.signBit)
  let neg := decide (code ≥ f.signBit)
  let e := code / 2 ^ f.fbits % 2 ^ f.ebits
  let m := code % 2 ^ f.fbits
  if e = 2 ^ f.ebits - 1 then
    if m = 0 then (.inf neg, 0) else (.nan, if m < 2 ^ (f.fbits - 1) then flagIV else 0)
  else if e = 0 then (.fin neg (if fiz then 0 else m) f.den, 0)
  else (.fin neg ((2 ^ f.fbits + m) * 2 ^ (e - 1)) f.den, 0)

/-! Rounding (R33). -/

/-- A nonnegative fraction rounded to a whole number; the second part says whether it was inexact. -/
def roundNat (rm : BitVec 2) (neg : Bool) (num den : Nat) : Nat × Bool :=
  let q := num / den
  let r := num % den
  let up := match rm.toNat with
    | 0 => 2 * r > den || 2 * r = den && q % 2 = 1
    | 1 => false
    | 2 => !neg && r ≠ 0
    | _ => neg && r ≠ 0
  (if up then q + 1 else q, r ≠ 0)

/-- The exponent e of a positive fraction: 2^e ≤ num/den < 2^(e+1). -/
def expOf (num den : Nat) : Int :=
  let k : Int := (num.log2 : Int) - den.log2
  if (if k ≥ 0 then den * 2 ^ k.toNat ≤ num else den ≤ num * 2 ^ (-k).toNat) then k else k - 1

/-- num/den × 2^k as a fraction. -/
def scale (num den : Nat) (k : Int) : Nat × Nat :=
  if k ≥ 0 then (num * 2 ^ k.toNat, den) else (num, den * 2 ^ (-k).toNat)

/-- A positive fraction rounded to a multiple of 2^(e − fbits). -/
def roundAt (rm : BitVec 2) (neg : Bool) (num den fbits : Nat) (e : Int) : Nat × Bool :=
  let (n, d) := scale num den ((fbits : Int) - e)
  roundNat rm neg n d

/-- The overflow result of a mode (Table 2-3): +∞ or the largest finite magnitude. -/
def Fmt.overflow (f : Fmt) (rm : BitVec 2) (neg sat : Bool) : Nat :=
  let toInf := match rm.toNat with
    | 0 => true
    | 1 => false
    | 2 => !neg
    | _ => neg
  if toInf && !sat then f.infCode else f.infCode - 1

/-- A value rounded to a format: code and flags (R33, R35). An infinite result that is no overflow, of an infinite operand or of a
division by zero, gives the maximum under SAT and raises neither OF nor NX: "still raised" is read of what the result raises
without SAT (DESIGN CHOICE, log 53). -/
def Fmt.round (f : Fmt) (rm : BitVec 2) (sat foz : Bool) : Exact → Nat × FpFlags
  | .nan => (f.nanCode, 0)
  | .inf neg => ((if neg then f.signBit else 0) + (if sat then f.infCode - 1 else f.infCode), 0)
  | .fin neg num den =>
    let s := if neg then f.signBit else 0
    if num = 0 then (s, 0)
    else
      let e := expOf num den
      let emin : Int := 1 - (f.bias : Int)
      let tiny := e < emin && !(e = emin - 1 && (roundAt rm neg num den f.fbits e).1 = 2 ^ (f.fbits + 1))
      if tiny && foz then (s, flagUF)
      else
        let (n, inexact) := roundAt rm neg num den f.fbits (max e emin)
        let code := ((max e emin) - emin).toNat * 2 ^ f.fbits + n
        if code ≥ f.infCode then (s + f.overflow rm neg sat, flagOF)
        else (s + code, if inexact then (if tiny then flagUF else flagNX) else 0)

/-! Square root and the seed table (R45, R103). -/

/-- The largest number below 2^bits that a test holds of, from `r` up, when it holds of all smaller ones. -/
def largest (test : Nat → Bool) : Nat → Nat → Nat
  | 0, r => r
  | k + 1, r => largest test k (if test (r + 2 ^ k) then r + 2 ^ k else r)

/-- √(num/2^149) of a binary32 value as a fraction: the root of the value scaled by 2^350, with a sticky half when it
is not exact, so that it rounds as the exact root does. -/
def sqrtFrac (num : Nat) : Nat × Nat :=
  let n := num * 2 ^ 201
  let r := largest (fun x => x * x ≤ n) 240 0
  (2 * r + (if r * r = n then 0 else 1), 2 ^ 176)

/-- √ of a value (R32, R45). -/
def Exact.sqrt : Exact → Exact × FpFlags
  | .nan => (.nan, 0)
  | .inf neg => if neg then (.nan, flagIV) else (.inf false, 0)
  | .fin neg num _ =>
    if num = 0 then (.fin neg 0 1, 0)
    else if neg then (.nan, flagIV)
    else (.fin false (sqrtFrac num).1 (sqrtFrac num).2, 0)

/-- RCP[k] (R103). -/
def rcpSeed (k : Nat) : Nat := (2 ^ 26 + (513 + 2 * k)) / (2 * (513 + 2 * k))
/-- RSQ[k] (R103): the largest y with (2y − 1)/2 ≤ 2^16/√u. -/
def rsqSeed (k : Nat) : Nat :=
  let (n, d) := if k < 128 then (257 + 2 * k, 256) else (2 * k + 1, 128)
  largest (fun y => (2 * y - 1) * (2 * y - 1) * n ≤ 2 ^ 34 * d) 17 0
/-- EXP[k] (R103), EXP[256] = 2^32: the largest y with (2y − 1)/2 ≤ 2^(31 + k/256). -/
def expSeed (k : Nat) : Nat := largest (fun y => (2 * y - 1) ^ 256 ≤ 2 ^ (8192 + k)) 33 0

/-- A nonzero binary32 magnitude num/2^149 as M × 2^(e − 150) with 2^23 ≤ M < 2^24 (R104). -/
def normalise (num : Nat) : Nat × Int :=
  let t := num.log2
  (if t ≤ 23 then num * 2 ^ (23 - t) else num / 2 ^ (t - 23), (t : Int) - 22)

/-- y × 2^k as a value. -/
def Exact.shifted (neg : Bool) (y : Nat) (k : Int) : Exact := .fin neg (scale y 1 k).1 (scale y 1 k).2

/-- VRCPE before rounding (R104). -/
def Exact.rcpe : Exact → Exact × FpFlags
  | .nan => (.nan, 0)
  | .inf neg => (.fin neg 0 1, 0)
  | .fin neg num _ =>
    if num = 0 then (.inf neg, flagDZ)
    else
      let (m, e) := normalise num
      let y0 := rcpSeed (m / 2 ^ 15 % 256)
      let y1 := y0 * (2 ^ 40 - m * y0) / 2 ^ 31
      (.shifted neg y1 (103 - e), 0)

/-- VRSQE before rounding (R104). -/
def Exact.rsqe : Exact → Exact × FpFlags
  | .nan => (.nan, 0)
  | .inf neg => if neg then (.nan, flagIV) else (.fin false 0 1, 0)
  | .fin neg num _ =>
    if num = 0 then (.inf neg, flagDZ)
    else if neg then (.nan, flagIV)
    else
      let (m, e) := normalise num
      let even := (e - 127) % 2 = 0
      let u := if even then m else 2 * m
      let h : Int := if even then e - 127 else e - 128
      let y0 := rsqSeed ((if e % 2 = 0 then 128 else 0) + m / 2 ^ 16 % 128)
      let y1 := y0 * (3 * 2 ^ 55 - u * y0 * y0) / 2 ^ 48
      (.shifted false y1 (-24 - h / 2), 0)

/-- VEXP2 before rounding (R105). The power of two is limited to what lies far outside the range of F32, where every
rounding gives what the unlimited one does. -/
def Exact.exp2 : Exact → Exact × FpFlags
  | .nan => (.nan, 0)
  | .inf neg => (if neg then .fin false 0 1 else .inf false, 0)
  | .fin neg num den =>
    let x := signed neg num
    let n := x / (den : Int)
    let frac := (x % (den : Int)).toNat
    let k := frac * 256 / den
    let rd := den * 256 * 2 ^ 53
    let rn := (frac * 256 - k * den) * 0x162E42FEFA39EF
    let top := expSeed k * (6 * rd ^ 3 + 6 * rn * rd ^ 2 + 3 * rn ^ 2 * rd + rn ^ 3)
    let (a, b) := scale top (2 ^ 31 * 6 * rd ^ 3) (max (-400) (min n 200))
    (.fin false a b, 0)

/-- VLOG2 before rounding (R105). -/
def Exact.log2 : Exact → Exact × FpFlags
  | .nan => (.nan, 0)
  | .inf neg => if neg then (.nan, flagIV) else (.inf false, 0)
  | .fin neg num _ =>
    if num = 0 then (.inf true, flagDZ)
    else if neg then (.nan, flagIV)
    else
      let (m, e) := normalise num
      let x := m * 256
      let k := largest (fun k => k ≤ 255 && expSeed k ≤ x) 8 0
      let j := if x - expSeed k ≤ expSeed (k + 1) - x then k else k + 1
      let d : Int := expSeed j
      let w : Int := (x : Int) - d
      let top : Int := (e - 127) * 256 * 6 * 2 ^ 52 * d ^ 3 + j * 6 * 2 ^ 52 * d ^ 3
        + 256 * 0x171547652B82FE * (6 * w * d ^ 2 - 3 * w ^ 2 * d + 2 * w ^ 3)
      (.ofFrac false top (256 * 6 * 2 ^ 52 * expSeed j ^ 3), 0)

/-! The logarithmic formats (R36 to R41). -/

/-- The L table, Q1.15 (Table 2-4). -/
def ltab (k : Nat) : Nat :=
  [0x8000, 0x8B96, 0x9839, 0xA5FF, 0xB505, 0xC567, 0xD745, 0xEAC1].getD k 0

/-- Bits of an L code: 8 for type L8, 6 for L6. -/
def lBits (t : Nat) : Nat := if t = 12 then 8 else 6
/-- Steps of an octave: 8 for L8, 4 for L6. -/
def lSteps (t : Nat) : Nat := if t = 12 then 8 else 4
/-- The weight of the sign bit; the largest C is this less one. -/
def lTop (t : Nat) : Nat := 2 ^ (lBits t - 1)
/-- The largest C. -/
def lMax (t : Nat) : Int := 2 ^ (lBits t - 2) - 1
/-- The zero code (Table 2-5). -/
def lZero (t : Nat) : Nat := 2 ^ (lBits t - 2)
/-- The reserved code (Table 2-5). -/
def lReserved (t code : Nat) : Bool := code % 2 ^ lBits t = lTop t + lZero t
/-- S of a code. -/
def lNeg (t code : Nat) : Bool := code / lTop t % 2 = 1
/-- C of a code. -/
def lC (t code : Nat) : Int := (BitVec.ofNat (lBits t - 1) code).toInt
/-- The code of a sign and a C. -/
def lCode (t : Nat) (neg : Bool) (c : Int) : Nat :=
  (if neg then lTop t else 0) + (BitVec.ofInt (lBits t - 1) c).toNat

/-- The magnitude of product code p aligned into Q25.23, and whether it lost bits (R39). -/
def lAlign (t : Nat) (p : Int) : Nat × Bool :=
  let q := p / (lSteps t : Int)
  let m := ltab ((p % (lSteps t : Int)).toNat * (8 / lSteps t))
  if q + 8 ≥ 0 then (m * 2 ^ (q + 8).toNat, false) else roundNat 0 false m (2 ^ (-(q + 8)).toNat)

/-- An L code that is not reserved as a term of Q25.23; zero contributes nothing. -/
def lTerm (t code : Nat) : Int :=
  if code % 2 ^ lBits t = lZero t then 0 else signed (lNeg t code) (lAlign t (lC t code)).1

/-- The product of two codes as a term of Q25.23, and whether it lost bits (R38, R39). -/
def lProduct (t a b : Nat) : Int × Bool :=
  if a % 2 ^ lBits t = lZero t ∨ b % 2 ^ lBits t = lZero t then (0, false)
  else
    let (m, x) := lAlign t (lC t a + lC t b)
    (signed (lNeg t a != lNeg t b) m, x)

/-- A complete sum clamped to 48 bits, OF when it clamps (R39). -/
def lClampSum (x : Int) : Int × FpFlags :=
  if x > 2 ^ 47 - 1 then (2 ^ 47 - 1, 4) else if x < -2 ^ 47 then (-2 ^ 47, 4) else (x, 0)

/-- A product written back as a code (R38). -/
def lMul (t a b : Nat) : Nat × FpFlags :=
  if a % 2 ^ lBits t = lZero t ∨ b % 2 ^ lBits t = lZero t then (lZero t, 0)
  else
    let p := lC t a + lC t b
    let neg := lNeg t a != lNeg t b
    if p > lMax t then (lCode t neg (lMax t), flagOF)
    else if p < -lMax t then (lZero t, flagUF)
    else (lCode t neg p, 0)

/-- The exact value of an L code (R36). -/
def lValue (t code : Nat) : Exact := .ofFrac false (lTerm t code) (2 ^ 23)

/-- A magnitude, in units of 2^−23 as num/den, against the members of an L format from the smallest: the highest C at
or below it (none for zero). -/
def lFloor (t num den : Nat) : Option Int :=
  ((List.range (2 * (lMax t).toNat + 1)).map (fun (i : Nat) => (i : Int) - lMax t)).reverse.find?
    (fun c => (lAlign t c).1 * den ≤ num)

/-- Conversion of a value into an L format (R41). -/
def lRound (t : Nat) (rm : BitVec 2) : Exact → Nat × FpFlags
  | .nan => (lZero t, flagIV)
  | .inf neg => (lCode t neg (lMax t), flagIV)
  | .fin neg num0 den =>
    let num := num0 * 2 ^ 23
    if num = 0 then (lZero t, 0)
    else if num > (lAlign t (lMax t)).1 * den then (lCode t neg (lMax t), flagOF)
    else
      let lo := lFloor t num den
      let loMag := match lo with | some c => (lAlign t c).1 | none => 0
      if loMag * den = num then (match lo with | some c => lCode t neg c | none => lZero t, 0)
      else
        let hi : Int := match lo with | some c => c + 1 | none => -lMax t
        let hiMag := (lAlign t hi).1
        let evenLo : Bool := match lo with | some c => c % 2 = 0 | none => true
        let up := match rm.toNat with
          | 0 => 2 * num > (loMag + hiMag) * den || 2 * num = (loMag + hiMag) * den && !evenLo
          | 1 => false
          | 2 => !neg
          | _ => neg
        let code := if up then lCode t neg hi else match lo with | some c => lCode t neg c | none => lZero t
        (code, if lo.isNone then flagUF else flagNX)

/-! Conversion between every pair of types (R42 to R44). -/

/-- A type is an integer type (Table 2-1). -/
def isIntType (t : Nat) : Bool := t < 8
/-- A type is a logarithmic type. -/
def isLType (t : Nat) : Bool := t = 12 || t = 13
/-- An integer type is unsigned. -/
def isNat (t : Nat) : Bool := 4 ≤ t && t < 8

/-- The least value of an integer type. -/
def intMin (t : Nat) : Int := if isNat t then 0 else -2 ^ (typeBits t - 1)
/-- The greatest value of an integer type. -/
def intMax (t : Nat) : Int := if isNat t then 2 ^ typeBits t - 1 else 2 ^ (typeBits t - 1) - 1
/-- An element of an integer type as an integer. -/
def intOf (t code : Nat) : Int :=
  if isNat t then ((code % 2 ^ typeBits t : Nat) : Int) else (BitVec.ofNat (typeBits t) code).toInt
/-- An integer kept in an integer type: clamped under SAT, else wrapped (R30). -/
def intTo (t : Nat) (sat : Bool) (x : Int) : Nat :=
  ((if sat then max (intMin t) (min x (intMax t)) else x) % 2 ^ typeBits t).toNat

/-- A value rounded to an integer type (R43). -/
def toIntType (t : Nat) (rm : BitVec 2) : Exact → Nat × FpFlags
  | .nan => (0, flagIV)
  | .inf neg => (intTo t true (if neg then intMin t else intMax t), flagIV)
  | .fin neg num den =>
    let (n, x) := roundNat rm neg num den
    let v := signed neg n
    if v < intMin t ∨ v > intMax t then (intTo t true v, flagIV)
    else (intTo t true v, if x then flagNX else 0)

/-- The exact value of an element of any type, with IV for a signalling NaN. -/
def valueOf (t : Nat) (fiz : Bool) (code : Nat) : Exact × FpFlags :=
  if isIntType t then (.ofInt (intOf t code), 0)
  else if isLType t then (lValue t code, 0)
  else (fmtOf t).value fiz code

/-- VCVT and TCVT of one element whose L code is not reserved (R41 to R44). -/
def convert (rm : BitVec 2) (sat fiz foz : Bool) (ts td code : Nat) : Nat × FpFlags :=
  if isIntType ts && isIntType td then (intTo td sat (intOf ts code), 0)
  else if ts = td && isLType ts then (code % 2 ^ lBits ts, 0)
  else
    let (v, f) := valueOf ts fiz code
    let (r, g) := if isIntType td then toIntType td rm v
      else if isLType td then lRound td rm v
      else (fmtOf td).round rm sat foz v
    (r, f ||| g)

/-! Compares, classes and extremes of floats (R67, R101, R106). -/

/-- A condition code on two float elements, with its flags (R67, Table 3-10). -/
def condFloat (cc : Nat) (a b : Exact) (signalling : FpFlags) : Bool × FpFlags :=
  let un := a = .nan || b = .nan
  let c := a.compare b
  let r := match cc with
    | 0 => !un && c = .eq
    | 1 => un || c ≠ .eq
    | 2 => !un && c = .lt
    | 3 => !un && c ≠ .lt
    | 4 => un || c = .lt
    | 5 => un || c ≠ .lt
    | 6 => !un && c ≠ .gt
    | 7 => !un && c = .gt
    | 8 => un || c ≠ .gt
    | 9 => un || c = .gt
    | 10 => un
    | _ => !un
  (r, signalling ||| (if un && [2, 3, 6, 7].contains cc then flagIV else 0))

/-- The bit of VCLASS (R106). -/
def Fmt.classBit (f : Fmt) (code : Nat) : Nat :=
  let code := code % (2 * f.signBit)
  let neg := decide (code ≥ f.signBit)
  let e := code / 2 ^ f.fbits % 2 ^ f.ebits
  let m := code % 2 ^ f.fbits
  if e = 2 ^ f.ebits - 1 then
    if m = 0 then (if neg then 0 else 7) else if m < 2 ^ (f.fbits - 1) then 8 else 9
  else if e = 0 then
    if m = 0 then (if neg then 3 else 4) else (if neg then 2 else 5)
  else if neg then 1 else 6

/-- The lesser or greater of two F32 values: −0 is less than +0, and a NaN gives way to the other operand (R45). The
result is one of the operands, unrounded. -/
def Exact.extreme (greater : Bool) (a b : Exact) : Exact :=
  match a, b with
  | .nan, b => b
  | a, .nan => a
  | a, b =>
    let less := match a.compare b with
      | .lt => true
      | .gt => false
      | .eq => a.isNeg
    if less != greater then a else b

end Sys2Proof.Machine
end

