-- ==== Sys2Proof/Machine/Vector.lean ====
section
/-! DEFINITION. The vector family: lane arithmetic, rearrangement, masks, neighbour channels and the logarithmic lane
operations (R96 to R118). -/

namespace Sys2Proof.Machine

/-! Shared operations. -/

/-- FPMODE.FIZ (R35). -/
def State.fiz (s : State) : Bool := s.me.fpmode.getLsbD 2
/-- FPMODE.FOZ (R35). -/
def State.foz (s : State) : Bool := s.me.fpmode.getLsbD 3

/-- An opcode of the vector family: ILLEGAL outside the control context, else under its guard (R99). -/
def vectorOp (opc : BitVec 10) (f : FV) (s : State) (k : State → Out) : Out := controlOnly (f.word opc) f.g f.gn s k

/-- Flags that the active lanes raise (R34). -/
def State.laneFlags (s : State) (r : Vector (Nat × FpFlags) 64) : FpFlags :=
  (List.range 64).foldl (fun acc i => if s.active i then acc ||| (r.getD i (0, 0)).2 else acc) 0

/-- Writes the active lanes of D with what an operation gives, raises their flags, retires (R97, R34). -/
def State.writeLanes (s : State) (d : BitVec 8) (op : Nat → Nat × FpFlags) : Out :=
  let r : Vector (Nat × FpFlags) 64 := Vector.ofFn (fun i => op i.val)
  let v := s.mergeActive (s.vreg d) (fun i => BitVec.ofNat 32 (r.getD i (0, 0)).1)
  .next ((s.setVreg d v).raiseFlags s.cur.core (s.laneFlags r)).advance

/-- Lane `i` of A. -/
def State.aval (s : State) (f : FV) (i : Nat) : Lane := (s.vreg f.a).getD i 0

/-- A value negated when its negation bit is set (R101). -/
def negated (n : BitVec 1) (v : Exact × FpFlags) : Exact × FpFlags := if n = 1 then (v.1.neg, v.2) else v

/-- Operand a of a float lane operation (R101). -/
def State.fa (s : State) (f : FV) (i : Nat) : Exact × FpFlags := negated f.na (f32.value s.fiz (s.aval f i).toNat)
/-- Operand b. -/
def State.fb (s : State) (f : FV) (i : Nat) : Exact × FpFlags := f32.value s.fiz (s.bval f i).toNat
/-- Operand c. -/
def State.fc (s : State) (f : FV) (i : Nat) : Exact × FpFlags := negated f.nc (f32.value s.fiz (s.cval f i).toNat)

/-- Rounds an exact result to F32 by RM and SAT, with the flags of its operands (R33, R101). -/
def State.rounded (s : State) (f : FV) (operands : FpFlags) (r : Exact × FpFlags) : Nat × FpFlags :=
  let (c, g) := f32.round f.rm (f.sat == 1) s.foz r.1
  (c, operands ||| r.2 ||| g)

/-- A float operation on a and b (Table 5-2). -/
def floatBinary (opc : BitVec 10) (f : FV) (s : State) (op : Exact → Exact → Exact × FpFlags) : Out :=
  vectorOp opc f s (fun s => s.writeLanes f.d (fun i =>
    s.rounded f ((s.fa f i).2 ||| (s.fb f i).2) (op (s.fa f i).1 (s.fb f i).1)))

/-- A float operation on a alone (Table 5-2). -/
def floatUnary (opc : BitVec 10) (f : FV) (s : State) (op : Exact → Exact × FpFlags) : Out :=
  vectorOp opc f s (fun s => s.writeLanes f.d (fun i => s.rounded f (s.fa f i).2 (op (s.fa f i).1)))

/-- A fused operation on a, b and c (Table 5-2). -/
def floatTernary (opc : BitVec 10) (f : FV) (s : State) (op : Exact → Exact → Exact → Exact × FpFlags) : Out :=
  vectorOp opc f s (fun s => s.writeLanes f.d (fun i =>
    s.rounded f ((s.fa f i).2 ||| (s.fb f i).2 ||| (s.fc f i).2) (op (s.fa f i).1 (s.fb f i).1 (s.fc f i).1)))

/-! Floating-point lane arithmetic (R101 to R105). -/

/-- VADD (R101). -/
def execVadd (f : FV) (s : State) : Out := floatBinary 0x080 f s (fun a b => a.add f.rm b)
/-- VSUB (R101). -/
def execVsub (f : FV) (s : State) : Out := floatBinary 0x081 f s (fun a b => a.add f.rm b.neg)
/-- VMUL (R101). -/
def execVmul (f : FV) (s : State) : Out := floatBinary 0x082 f s Exact.mul
/-- VFMA (R101). -/
def execVfma (f : FV) (s : State) : Out := floatTernary 0x083 f s (Exact.fma f.rm)
/-- VFMS (R101). -/
def execVfms (f : FV) (s : State) : Out := floatTernary 0x084 f s (fun a b c => Exact.fma f.rm a b c.neg)
/-- VDIV (R101). -/
def execVdiv (f : FV) (s : State) : Out := floatBinary 0x085 f s Exact.div
/-- VSQRT (R101). -/
def execVsqrt (f : FV) (s : State) : Out := floatUnary 0x086 f s Exact.sqrt
/-- VRCPE (R104). -/
def execVrcpe (f : FV) (s : State) : Out := floatUnary 0x087 f s Exact.rcpe
/-- VRSQE (R104). -/
def execVrsqe (f : FV) (s : State) : Out := floatUnary 0x088 f s Exact.rsqe
/-- VEXP2 (R105). -/
def execVexp2 (f : FV) (s : State) : Out := floatUnary 0x089 f s Exact.exp2
/-- VLOG2 (R105). -/
def execVlog2 (f : FV) (s : State) : Out := floatUnary 0x08A f s Exact.log2

/-- VMIN and VMAX: one of the operands, not rounded (R101). -/
def extremeOp (opc : BitVec 10) (greater : Bool) (f : FV) (s : State) : Out :=
  vectorOp opc f s (fun s => s.writeLanes f.d (fun i =>
    let c := (f32.round 0 false false (Exact.extreme greater (s.fa f i).1 (s.fb f i).1)).1
    (c, (s.fa f i).2 ||| (s.fb f i).2)))

/-- VMIN (R101). -/
def execVmin (f : FV) (s : State) : Out := extremeOp 0x08B false f s
/-- VMAX (R101). -/
def execVmax (f : FV) (s : State) : Out := extremeOp 0x08C true f s

/-- A lane operation on bits that raises nothing. -/
def bitLanes (opc : BitVec 10) (f : FV) (s : State) (op : State → Nat → Nat) : Out :=
  vectorOp opc f s (fun s => s.writeLanes f.d (fun i => (op s i, 0)))

/-- VABS (R102). -/
def execVabs (f : FV) (s : State) : Out := bitLanes 0x08D f s (fun s i => (s.bval f i &&& 0x7FFFFFFF).toNat)
/-- VNEG (R102). -/
def execVneg (f : FV) (s : State) : Out := bitLanes 0x08E f s (fun s i => (s.bval f i ^^^ 0x80000000).toNat)

/-! Compare, select, classify, convert (R106, R107). -/

/-- The comparison of VCMP in lane `i`, with its flags (R67). -/
def State.vcmpLane (s : State) (f : FV) (i : Nat) : Bool × FpFlags :=
  let t := f.t1.toNat
  let a := (s.aval f i).toNat
  let b := (s.bval f i).toNat
  if isIntType t then
    (condInt f.t2 (BitVec.ofNat (typeBits t) a) (BitVec.ofNat (typeBits t) b), 0)
  else
    let x := (fmtOf t).value s.fiz a
    let y := (fmtOf t).value s.fiz b
    condFloat f.t2.toNat x.1 y.1 (x.2 ||| y.2)

/-- Bits of a mask chosen lane by lane. -/
def maskOf (p : Nat → Bool) : Word :=
  BitVec.ofNat 64 ((List.range 64).foldl (fun acc i => if p i then acc + 2 ^ i else acc) 0)

/-- VCMP (R106). -/
def execVcmp (f : FV) (s : State) : Out :=
  vectorOp 0x08F f s (fun s =>
    let old := s.kreg f.d
    let k := maskOf (fun i => if s.active i then (s.vcmpLane f i).1 else old.getLsbD i)
    let g := (List.range 64).foldl (fun acc i => if s.active i then acc ||| (s.vcmpLane f i).2 else acc) 0
    .next ((s.setKreg f.d k).raiseFlags s.cur.core g).advance)

/-- VSEL (R106). -/
def execVsel (f : FV) (s : State) : Out :=
  bitLanes 0x090 f s (fun s i => (if (s.kreg f.c).getLsbD i then s.aval f i else s.bval f i).toNat)

/-- VCLASS (R106). -/
def execVclass (f : FV) (s : State) : Out :=
  bitLanes 0x09E f s (fun s i => 2 ^ (fmtOf f.t1.toNat).classBit (s.aval f i).toNat)

/-- FLTREC2 of RESFMT (R37). -/
def resfmtOperand (reg : BitVec 8) (index code : Nat) : Word :=
  0#32 ++ BitVec.ofNat 8 code ++ BitVec.ofNat 16 index ++ reg

/-- The lowest active lane in which an operand holds a reserved code, with the code. -/
def State.reservedLane (s : State) (t : Nat) (val : Nat → Lane) : Option (Nat × Nat) :=
  ((List.range 64).find? (fun i => s.active i && lReserved t (val i).toNat)).map
    (fun i => (i, (val i).toNat % 2 ^ lBits t))

/-- VCVT (R107). -/
def execVcvt (f : FV) (s : State) : Out :=
  vectorOp 0x091 f s (fun s =>
    let ts := f.t1.toNat
    match (if isLType ts then s.reservedLane ts (s.aval f) else none) with
    | some (i, c) => .next (s.raise .resFmt 0 (resfmtOperand f.a i c))
    | none => s.writeLanes f.d (fun i =>
        convert f.rm (f.sat == 1) s.fiz s.foz ts f.t2.toNat ((s.aval f i).toNat % 2 ^ typeBits ts)))

/-! Integer and bitwise lanes (R108). -/

/-- An integer lane operation: exact, then clamped under SAT or wrapped. -/
def intLanes (opc : BitVec 10) (f : FV) (s : State) (op : Int → Int → Int → Int) : Out :=
  let t := f.t1.toNat
  bitLanes opc f s (fun s i => intTo t (f.sat == 1)
    (op (intOf t (s.aval f i).toNat) (intOf t (s.bval f i).toNat) (intOf t (s.cval f i).toNat)))

/-- VIADD (R108). -/
def execViadd (f : FV) (s : State) : Out := intLanes 0x092 f s (fun a b _ => a + b)
/-- VISUB (R108). -/
def execVisub (f : FV) (s : State) : Out := intLanes 0x093 f s (fun a b _ => a - b)
/-- VIMUL (R108). -/
def execVimul (f : FV) (s : State) : Out := intLanes 0x094 f s (fun a b _ => a * b)
/-- VIMAD (R108). -/
def execVimad (f : FV) (s : State) : Out := intLanes 0x095 f s (fun a b c => a * b + c)
/-- VIMIN (R108). -/
def execVimin (f : FV) (s : State) : Out := intLanes 0x096 f s (fun a b _ => min a b)
/-- VIMAX (R108). -/
def execVimax (f : FV) (s : State) : Out := intLanes 0x097 f s (fun a b _ => max a b)
/-- VAND (R108). -/
def execVand (f : FV) (s : State) : Out := bitLanes 0x098 f s (fun s i => (s.aval f i &&& s.bval f i).toNat)
/-- VOR (R108). -/
def execVor (f : FV) (s : State) : Out := bitLanes 0x099 f s (fun s i => (s.aval f i ||| s.bval f i).toNat)
/-- VXOR (R108). -/
def execVxor (f : FV) (s : State) : Out := bitLanes 0x09A f s (fun s i => (s.aval f i ^^^ s.bval f i).toNat)

/-- A lane shift on elements of w bits by b mod w (R108). -/
def shiftLanes (opc : BitVec 10) (f : FV) (s : State) (op : (w : Nat) → BitVec w → Nat → BitVec w) : Out :=
  let w := typeBits f.t1.toNat
  bitLanes opc f s (fun s i =>
    (op w (BitVec.ofNat w (s.aval f i).toNat) ((s.bval f i).toNat % 2 ^ w % w)).toNat)

/-- VSHL (R108). -/
def execVshl (f : FV) (s : State) : Out := shiftLanes 0x09B f s (fun _ a n => a <<< n)
/-- VSHR (R108). -/
def execVshr (f : FV) (s : State) : Out := shiftLanes 0x09C f s (fun _ a n => a >>> n)
/-- VSRA (R108). -/
def execVsra (f : FV) (s : State) : Out := shiftLanes 0x09D f s (fun _ a n => a.sshiftRight n)

/-- VMOVV (R110). -/
def execVmovv (f : FV) (s : State) : Out := bitLanes 0x09F f s (fun s i => (s.bval f i).toNat)

/-! Reductions and the scan (R46, R47, R109). -/

/-- One level of the pairwise tree. -/
def pairUp {α : Type} (op : α → α → α) : List α → List α
  | x :: y :: l => op x y :: pairUp op l
  | l => l

/-- The pairwise tree over 64 entries: six levels (R46). -/
def tree {α : Type} (op : α → α → α) (x : List α) (d : α) : α :=
  ((List.range 6).foldl (fun l _ => pairUp op l) x).headD d

/-- A sum of two F32 codes rounded by a mode, with flags gathered (R46, R47). -/
def addCodes (rm : BitVec 2) (foz : Bool) (a b : Nat × FpFlags) : Nat × FpFlags :=
  let (x, f) := f32.value false a.1
  let (y, g) := f32.value false b.1
  let (r, h) := x.add rm y
  let (c, i) := f32.round rm false foz r
  (c, a.2 ||| b.2 ||| f ||| g ||| h ||| i)

/-- A lane of A as an F32 code with FIZ applied. -/
def State.flushedLane (s : State) (f : FV) (i : Nat) : Nat :=
  let a := s.aval f i
  if s.fiz && a.extractLsb' 23 8 == 0 then (a &&& 0x80000000).toNat else a.toNat

/-- VRSUM (R109). -/
def execVrsum (f : FV) (s : State) : Out :=
  vectorOp 0x0A0 f s (fun s =>
    let xs := (List.range 64).map (fun i => if s.active i then (s.flushedLane f i, (0 : FpFlags)) else (0x80000000, 0))
    let (r, g) := tree (addCodes 0 s.foz) xs (0, 0)
    .next ((s.setSA f.d (BitVec.ofNat 64 r)).raiseFlags s.cur.core g).advance)

/-- The greatest or least of the active lanes by the tree of R46. -/
def extremeTree (opc : BitVec 10) (greater : Bool) (f : FV) (s : State) : Out :=
  vectorOp opc f s (fun s =>
    let xs := (List.range 64).map (fun i => if s.active i then f32.value s.fiz (s.aval f i).toNat else (.inf greater, 0))
    let r := tree (fun a b => (Exact.extreme greater a.1 b.1, a.2 ||| b.2)) xs (.nan, 0)
    .next ((s.setSA f.d (BitVec.ofNat 64 (f32.round 0 false false r.1).1)).raiseFlags s.cur.core r.2).advance)

/-- VRMAX (R109). -/
def execVrmax (f : FV) (s : State) : Out := extremeTree 0x0A1 true f s
/-- VRMIN (R109). -/
def execVrmin (f : FV) (s : State) : Out := extremeTree 0x0A2 false f s

/-- The running sums of VSCAN from lane `i` up: `n` lanes, the sum so far and the flags (R47). -/
def State.scan (s : State) (f : FV) : Nat → Nat → Nat × FpFlags → List Nat × FpFlags
  | 0, _, acc => ([], acc.2)
  | n + 1, i, acc =>
    let acc := if s.active i then addCodes f.rm s.foz acc (s.flushedLane f i, 0) else acc
    let (l, g) := State.scan s f n (i + 1) acc
    (acc.1 :: l, g)

/-- VSCAN (R109). -/
def execVscan (f : FV) (s : State) : Out :=
  vectorOp 0x0A3 f s (fun s =>
    let (l, g) := s.scan f 64 0 (0x80000000, 0)
    let v := s.mergeActive (s.vreg f.d) (fun i => BitVec.ofNat 32 (l.getD i 0))
    .next ((s.setVreg f.d v).raiseFlags s.cur.core g).advance)

/-! Rearranging lanes (R110 to R112). -/

/-- VBCAST (R110). -/
def execVbcast (f : FV) (s : State) : Out :=
  bitLanes 0x0A4 f s (fun s i => (s.aval f ((s.bval f i).toNat % 64)).toNat)
/-- VPERM (R110). -/
def execVperm (f : FV) (s : State) : Out :=
  bitLanes 0x0A5 f s (fun s i => (s.aval f ((s.bval f i).toNat % 64)).toNat)
/-- VSLIDE (R110). -/
def execVslide (f : FV) (s : State) : Out :=
  bitLanes 0x0A6 f s (fun s i =>
    let j := (i : Int) + (s.bval f i).toInt
    if 0 ≤ j && j ≤ 63 then (s.aval f j.toNat).toNat else 0)

/-- Lanes that C selects and k0 leaves active (R111). -/
def State.selected (s : State) (f : FV) : List Nat :=
  (List.range 64).filter (fun j => (s.kreg f.c).getLsbD j && s.active j)

/-- VCOMP (R111). -/
def execVcomp (f : FV) (s : State) : Out :=
  vectorOp 0x0A7 f s (fun s =>
    let old := s.vreg f.d
    let sel := s.selected f
    .next (s.setVreg f.d (Vector.ofFn (fun i : Fin 64 => match sel[i.val]? with
      | some j => s.aval f j
      | none => old.getD i.val 0))).advance)

/-- VEXPD (R111). -/
def execVexpd (f : FV) (s : State) : Out :=
  vectorOp 0x0A8 f s (fun s =>
    let old := s.vreg f.d
    let sel := s.selected f
    .next (s.setVreg f.d (Vector.ofFn (fun i : Fin 64 => match sel.findIdx? (· == i.val) with
      | some n => s.aval f n
      | none => old.getD i.val 0))).advance)

/-- VIOTA (R111). -/
def execViota (f : FV) (s : State) : Out :=
  vectorOp 0x0A9 f s (fun s =>
    let sel := s.selected f
    .next (s.setVreg f.d (s.mergeActive (s.vreg f.d) (fun i =>
      BitVec.ofNat 32 (sel.filter (· < i)).length))).advance)

/-- VGETL (R112). -/
def execVgetl (f : FV) (s : State) : Out :=
  vectorOp 0x0AA f s (fun s =>
    retire s f.d ((s.aval f ((s.bval f 0).toNat % 64)).zeroExtend 64))

/-- VSETL (R112). -/
def execVsetl (f : FV) (s : State) : Out :=
  vectorOp 0x0AB f s (fun s =>
    .next (s.setVreg f.d ((s.vreg f.d).setIfInBounds ((s.bval f 0).toNat % 64)
      ((s.sa f.a).extractLsb' 0 32))).advance)

/-! Lane masks (R113). -/

/-- Operand k[A], inverted under NA. -/
def State.ka (s : State) (f : FV) : Word := if f.na = 1 then ~~~(s.kreg f.a) else s.kreg f.a

/-- A mask instruction that writes k[D]. -/
def maskOp (opc : BitVec 10) (f : FV) (s : State) (op : State → Word) : Out :=
  vectorOp opc f s (fun s => .next (s.setKreg f.d (op s)).advance)

/-- KPOPC (R113). -/
def execKpopc (f : FV) (s : State) : Out :=
  vectorOp 0x0AC f s (fun s => retire s f.d (BitVec.ofNat 64 (popCount (s.kreg f.a))))
/-- KFIRST (R113). -/
def execKfirst (f : FV) (s : State) : Out :=
  vectorOp 0x0AD f s (fun s => retire s f.d (BitVec.ofNat 64 (firstBit (s.kreg f.a).getLsbD)))
/-- KAND (R113). -/
def execKand (f : FV) (s : State) : Out := maskOp 0x0AE f s (fun s => s.ka f &&& s.kval f)
/-- KOR (R113). -/
def execKor (f : FV) (s : State) : Out := maskOp 0x0AF f s (fun s => s.ka f ||| s.kval f)
/-- KXOR (R113). -/
def execKxor (f : FV) (s : State) : Out := maskOp 0x0B0 f s (fun s => s.ka f ^^^ s.kval f)
/-- KNOT (R113). -/
def execKnot (f : FV) (s : State) : Out := maskOp 0x0B1 f s (fun s => ~~~(s.kreg f.a))
/-- KMOV (R113). -/
def execKmov (f : FV) (s : State) : Out := maskOp 0x0B2 f s (fun s => s.kval f)

/-! Neighbour channels (R114). Sides and directions: 0 east, 1 south, 2 west, 3 north. -/

/-- The core one step away in a direction; none off the edge of the gang. -/
def State.neighbour (s : State) (core dir : Nat) : Option Nat :=
  let x := (s.core core).vx.toNat
  let y := (s.core core).vy.toNat
  match dir with
  | 0 => s.peer core (x + 1) y
  | 1 => s.peer core x (y + 1)
  | 2 => if x = 0 then none else s.peer core (x - 1) y
  | _ => if y = 0 then none else s.peer core x (y - 1)

/-- A channel post for a side of a core that has arrived by now. -/
def Post.due (clk core side : Nat) : Post → Bool
  | .channel c d arrive _ => c == core && d == side && arrive ≤ clk
  | _ => false

/-- The entries that have arrived at a channel take their place, the last one staying, and set its full bit. -/
def State.arrive (s : State) (core side : Nat) : State :=
  let due := s.posts.filter (Post.due s.clk core side)
  let s := due.foldl (fun s p => match p with
    | .channel _ _ _ v => s.modCore core (fun c => { c with chan := c.chan.setIfInBounds side (some v) })
    | _ => s) s
  { s with posts := s.posts.filter (fun p => !Post.due s.clk core side p) }

/-- VNSEND (R114): the entry arrives at the start of the second clock after. -/
def execVnsend (f : FV) (s : State) : Out :=
  vectorOp 0x0B3 f s (fun s =>
    let dir := f.imm.toNat % 4
    match s.neighbour s.cur.core dir with
    | none => .next s.advance
    | some n => .next { s.advance with posts := s.posts ++ [.channel n ((dir + 2) % 4) (s.clk + 2) (s.vreg f.a)] })

/-- VNRECV (R114). -/
def execVnrecv (f : FV) (s : State) : Out :=
  vectorOp 0x0B4 f s (fun s =>
    let side := f.imm.toNat % 4
    let s := s.arrive s.cur.core side
    let v := (s.me.chan.getD side none).getD VReg.zero
    let s := s.modMe (fun c => { c with chan := c.chan.setIfInBounds side none })
    .next (s.setVreg f.d (s.mergeActive (s.vreg f.d) (fun i => v.getD i 0))).advance)

/-- CHANNEL_ARRIVAL (R114): entries that have reached the channel of a side take their place. -/
def execChannelArrival (s : State) : Out := .next (s.arrive s.cur.args.core s.cur.args.index)

/-! Logarithmic lanes (R116 to R118). -/

/-- The reserved code that a logarithmic operation on A and B meets first, with its register and lane (R37, R116). -/
def State.reservedOperand (s : State) (f : FV) : Option (BitVec 8 × Nat × Nat) :=
  let t := f.t1.toNat
  match s.reservedLane t (s.aval f) with
  | some (i, c) => some (f.a, i, c)
  | none => (s.reservedLane t (s.bval f)).map (fun r => (if f.var = 2 then 0xFF else f.b, r.1, r.2))

/-- VLMUL (R116). -/
def execVlmul (f : FV) (s : State) : Out :=
  vectorOp 0x0B5 f s (fun s =>
    match s.reservedOperand f with
    | some (r, i, c) => .next (s.raise .resFmt 0 (resfmtOperand r i c))
    | none => s.writeLanes f.d (fun i => lMul f.t1.toNat (s.aval f i).toNat (s.bval f i).toNat))

/-- VLSUM (R117). -/
def execVlsum (f : FV) (s : State) : Out :=
  vectorOp 0x0B6 f s (fun s =>
    let t := f.t1.toNat
    match s.reservedLane t (s.aval f) with
    | some (i, c) => .next (s.raise .resFmt 0 (resfmtOperand f.a i c))
    | none =>
      let sum := (List.range 64).foldl (fun acc i => if s.active i then acc + lTerm t (s.aval f i).toNat else acc) 0
      let (r, g) := lClampSum sum
      .next ((s.setSA f.d (BitVec.ofInt 64 r)).raiseFlags s.cur.core g).advance)

/-- A register's 2,048 bits, lane n at bits [32n+31:32n]. -/
def laneString (v : VReg) : Nat := (List.range 64).foldr (fun i acc => acc * 2 ^ 32 + (v.getD i 0).toNat) 0

/-- VLPACK (R118). -/
def execVlpack (f : FV) (s : State) : Out :=
  vectorOp 0x0B7 f s (fun s =>
    let w := lBits f.t1.toNat
    let str := (List.range 64).foldr (fun i acc => acc * 2 ^ w + (s.aval f i).toNat % 2 ^ w) 0
    .next (s.setVreg f.d (Vector.ofFn (fun i : Fin 64 => BitVec.ofNat 32 (str / 2 ^ (32 * i.val))))).advance)

/-- VLUNPK (R118). -/
def execVlunpk (f : FV) (s : State) : Out :=
  vectorOp 0x0B8 f s (fun s =>
    let w := lBits f.t1.toNat
    let str := laneString (s.vreg f.a)
    .next (s.setVreg f.d (Vector.ofFn (fun i : Fin 64 =>
      BitVec.ofNat 32 (str / 2 ^ (w * i.val) % 2 ^ w)))).advance)

end Sys2Proof.Machine
end

