-- ==== Sys2Proof/Machine/Memory.lean ====
section
/-! DEFINITION. The memory family: loads, stores, vector and sector forms, atomics, fences, cache maintenance and the
monitored wait (R119 to R142), and the arrival of a reply. -/

namespace Sys2Proof

/-- sext(DISP). -/
def FM.dispW (f : FM) : Word := f.disp.signExtend 64
/-- The width in bytes, 2^W. -/
def FM.bytes (f : FM) : Nat := 2 ^ f.w.toNat
/-- SCP is wider than .core. -/
def FM.wide (f : FM) : Bool := f.scp != 0
/-- Element bytes of LDV and STV (R128). -/
def FM.vbytes (f : FM) : Nat := if f.w = 4 then 4 else if f.w = 5 then 2 else f.bytes
/-- A CMO reaches from the L2 to DRAM as well: SCP 4 to 7 (Table 6-6). -/
def FM.toDram (f : FM) : Bool := f.scp.toNat ≥ 4

end Sys2Proof

namespace Sys2Proof.Machine

/-! Addresses (R120). -/

/-- reg(BASE), which AM 6 takes as the cell id and does not add. -/
def State.baseOf (s : State) (f : FM) : Word := if f.am = 6 then 0 else s.sa f.base
/-- The offset of a form whose IDX is an index. -/
def State.indexed (s : State) (f : FM) : Word := s.baseOf f + (s.sa f.idx <<< f.shx.toNat) + f.dispW
/-- The offset of a form whose IDX is not an index. -/
def State.based (s : State) (f : FM) : Word := s.baseOf f + f.dispW
/-- The access of an instruction: its mode, cell, view and hint. -/
def State.accessOf (s : State) (f : FM) (need : Need) : Access :=
  { am := f.am.toNat, need := need, cell := s.sa f.base, vw := f.vw, ch := f.ch }

/-- Alignment (step 1 of Table 6-3). -/
def aligned (n : Nat) (o : Word) (s : State) (k : State → Out) : Out :=
  if o.toNat % n = 0 then k s else .next (s.raise .prot 3 o)

/-- A memory instruction that only the control context may execute, or in AM 4 (R119). -/
def memOp (opc : BitVec 10) (control : Bool) (f : FM) (s : State) (k : State → Out) : Out :=
  if (control || f.am == 4) && !s.isControl then illegal (f.word opc) s else guarded f.g f.gn s k

/-! Loads (R125 to R131). -/

/-- A load's result: an access in an arbitrated mode is on its way until its reply arrives (log 8); in another mode it
is written at once. -/
def State.deliverWord (s : State) (am : Nat) (reg : BitVec 8) (v : Word) : Out :=
  if arbitrated am then .next (s.advance.modMy (fun x => { x with replies := x.replies ++ [.word reg v] }))
  else .next (s.setSAK reg v).advance

/-- An atomic's result: the context waits for the reply of an arbitrated one (R133). -/
def State.deliverAtomic (s : State) (am : Nat) (reg : BitVec 8) (v : Word) : Out :=
  if arbitrated am then .next (s.advance.modMy (fun x => { x with replies := x.replies ++ [.atomic reg v] }))
  else .next (s.setSA reg v).advance

/-- A vector load's result: the lanes of a mask. -/
def State.deliverLanes (s : State) (am : Nat) (reg : BitVec 8) (mask : Word) (v : VReg) : Out :=
  if arbitrated am then .next (s.advance.modMy (fun x => { x with replies := x.replies ++ [.lanes reg mask v] }))
  else
    let old := s.vreg reg
    .next (s.setVreg reg (Vector.ofFn (fun i : Fin 64 =>
      if mask.getLsbD i.val then v.getD i.val 0 else old.getD i.val 0))).advance

/-- Reads `n` bytes at an offset and goes on with their value. -/
def State.load (s : State) (acc : Access) (o : Word) (n : Nat) (k : State → Nat → Out) : Out :=
  match s.loadBytes acc (offsets 0 o n) with
  | .error t => s.settle t
  | .ok (bs, s) => k s (natOfBytes bs)

/-- A scalar value extended to 64 bits from `n` bytes. -/
def extended (sx : Bool) (n x : Nat) : Word :=
  if sx then (BitVec.ofNat (8 * n) x).signExtend 64 else BitVec.ofNat 64 x

/-- LD (R125). -/
def execLd (f : FM) (s : State) : Out :=
  memOp 0x100 false f s (fun s =>
    s.load (s.accessOf f { r := true }) (s.indexed f) f.bytes (fun s x =>
      s.deliverWord f.am.toNat f.v (extended (f.var == 1) f.bytes x)))

/-- LDK (R125). -/
def execLdk (f : FM) (s : State) : Out :=
  memOp 0x108 true f s (fun s =>
    s.load (s.accessOf f { r := true }) (s.indexed f) 8 (fun s x => s.deliverWord f.am.toNat f.v (BitVec.ofNat 64 x)))

/-- LDA (R126): an acquire at its scope. -/
def execLda (f : FM) (s : State) : Out :=
  memOp 0x10A false f s (fun s =>
    aligned f.bytes (s.indexed f) s (fun s =>
      s.load (s.accessOf f { r := true }) (s.indexed f) f.bytes (fun s x =>
        (s.acquire s.cur.core f.wide).deliverWord f.am.toNat f.v (extended (f.var == 1) f.bytes x))))

/-- The element bytes and the offsets of the active lanes of a vector access, lowest lane first. -/
def State.elements (s : State) (n : Nat) (off : Nat → Word) : List (Nat × Word) :=
  ((List.range 64).filter s.active).flatMap (fun i => offsets i (off i) n)

/-- The lanes of a list of elements of `n` bytes, given the lanes in order. -/
def gatherLanes (n : Nat) : List Nat → List Byte → Nat → Lane
  | [], _, _ => 0
  | j :: js, bs, i =>
    if i = j then BitVec.ofNat 32 (natOfBytes (bs.take n)) else gatherLanes n js (bs.drop n) i

/-- A vector load of elements of `n` bytes (R127). -/
def vectorLoad (opc : BitVec 10) (f : FM) (s : State) (n : Nat) (off : State → Nat → Word) : Out :=
  memOp opc true f s (fun s =>
    let lanes := (List.range 64).filter s.active
    match s.loadBytes (s.accessOf f { r := true }) (s.elements n (off s)) with
    | .error t => s.settle t
    | .ok (bs, s) =>
      s.deliverLanes f.am.toNat f.v (maskOf (fun i => s.active i))
        (Vector.ofFn (fun i : Fin 64 => gatherLanes n lanes bs i.val)))

/-- A vector store of elements of `n` bytes: lanes in ascending order, so that the higher lane's byte stands (R127). -/
def vectorStore (opc : BitVec 10) (f : FM) (s : State) (n : Nat) (off : State → Nat → Word) : Out :=
  memOp opc true f s (fun s =>
    let data := ((List.range 64).filter s.active).flatMap
      (fun i => bytesOfNat n ((s.vreg f.v).getD i 0).toNat)
    match s.storeBytes (s.accessOf f { w := true }) ((s.elements n (off s)).zip data) with
    | .error t => s.settle t
    | .ok s => .next s.advance)

/-- The offset of lane `i` in LDV and STV (R128). -/
def State.lineOffset (f : FM) (s : State) (i : Nat) : Word :=
  if f.am = 4 then s.indexed f else s.indexed f + BitVec.ofNat 64 (i * f.vbytes)
/-- The offset of lane `i` in LDVS and STVS (R129). -/
def State.strideOffset (f : FM) (s : State) (i : Nat) : Word :=
  s.based f + BitVec.ofNat 64 i * (s.sa f.idx <<< f.shx.toNat)
/-- The offset of lane `i` in LDVX and STVX (R130). -/
def State.vectorOffset (f : FM) (s : State) (i : Nat) : Word :=
  s.based f + ((((s.vreg f.idx).getD i 0).signExtend 64) <<< f.shx.toNat)

/-- LDV (R128). -/
def execLdv (f : FM) (s : State) : Out := vectorLoad 0x102 f s f.vbytes (State.lineOffset f)
/-- LDVS (R129). -/
def execLdvs (f : FM) (s : State) : Out := vectorLoad 0x104 f s f.bytes (State.strideOffset f)
/-- LDVX (R130). -/
def execLdvx (f : FM) (s : State) : Out := vectorLoad 0x106 f s f.bytes (State.vectorOffset f)

/-- LDSEC (R131): lanes 0 to 7, whatever k0 holds. -/
def execLdsec (f : FM) (s : State) : Out :=
  memOp 0x11C true f s (fun s =>
    aligned 32 (s.based f) s (fun s =>
      s.load (s.accessOf f { r := true }) (s.based f) 32 (fun s x =>
        s.deliverLanes f.am.toNat f.v 0xFF (Vector.ofFn (fun i : Fin 64 => BitVec.ofNat 32 (x / 2 ^ (32 * i.val)))))))

/-! Stores. -/

/-- Writes the low `n` bytes of a value at an offset. -/
def State.store (s : State) (acc : Access) (o : Word) (n x : Nat) (k : State → Out) : Out :=
  match s.storeBytes acc ((offsets 0 o n).zip (bytesOfNat n x)) with
  | .error t => s.settle t
  | .ok s => k s

/-- ST (R125). -/
def execSt (f : FM) (s : State) : Out :=
  memOp 0x101 false f s (fun s =>
    s.store (s.accessOf f { w := true }) (s.indexed f) f.bytes (s.sa f.v).toNat (fun s => .next s.advance))

/-- STK (R125). -/
def execStk (f : FM) (s : State) : Out :=
  memOp 0x109 true f s (fun s =>
    s.store (s.accessOf f { w := true }) (s.indexed f) 8 (s.kreg f.v).toNat (fun s => .next s.advance))

/-- The replicas of a place: its own, or that of every die under a multicast (R263). -/
def Place.replicas (p : Place) : List Nat := (List.range 4).map (fun d => p.loc % 2 ^ 46 + d * 2 ^ 46)

/-- A byte is written at the home of a replica: the line of a DT page is recalled from the caches of its die (R263,
R315). -/
def State.writeReplica (s : State) (core loc : Nat) (p : Place) (b : Byte) : State :=
  match s.homeOf core { p with loc := loc } with
  | none => s.poke loc b
  | some h => ((if p.tracked && p.loc != loc then s.homeRequest h true else s).dirtyL2 h).poke loc b

/-- A multicast store writes the bytes to every replica of a REPL page; what the core's own line holds of them is written
back first, so that no older value follows (R253, R263). -/
def State.multicast (s : State) (ps : List Place) (bs : List Byte) : State :=
  if ps.any (fun p => p.leaf.any (fun l => leafRepl l.leaf)) then
    (ps.zip bs).foldl (fun s e =>
      match e.1.leaf with
      | some l => if leafRepl l.leaf then e.1.replicas.foldl (fun s a => s.writeReplica s.cur.core a e.1 e.2) s else s
      | none => s) (s.release s.cur.core)
  else s

/-- STRL (R126, R263): a release at its scope, then the store; at .pkg or wider it writes every replica. -/
def execStrl (f : FM) (s : State) : Out :=
  memOp 0x10B false f s (fun s =>
    let o := s.indexed f
    aligned f.bytes o s (fun s =>
      let acc := s.accessOf f { w := true }
      match s.places s.cur.core s.cur.ctx.val acc (offsets 0 o f.bytes) with
      | .error t => s.settle t
      | .ok ps =>
        let bs := bytesOfNat f.bytes (s.sa f.v).toNat
        (s.release s.cur.core).store acc o f.bytes (s.sa f.v).toNat (fun s =>
          .next (if 5 ≤ f.scp.toNat && f.am == 0 then s.multicast ps bs else s).advance)))

/-- STV (R128). -/
def execStv (f : FM) (s : State) : Out := vectorStore 0x103 f s f.vbytes (State.lineOffset f)
/-- STVS (R129). -/
def execStvs (f : FM) (s : State) : Out := vectorStore 0x105 f s f.bytes (State.strideOffset f)
/-- STVX (R130). -/
def execStvx (f : FM) (s : State) : Out := vectorStore 0x107 f s f.bytes (State.vectorOffset f)

/-- STSEC (R131): every byte is checked, those whose mask bit is set are written. -/
def execStsec (f : FM) (s : State) : Out :=
  memOp 0x11D true f s (fun s =>
    let o := s.based f
    aligned 32 o s (fun s =>
      match s.places s.cur.core s.cur.ctx.val (s.accessOf f { w := true }) (offsets 0 o 32) with
      | .error t => s.settle t
      | .ok ps =>
        let m := s.sa f.idx
        let data := bytesOfNat 32 (laneString (s.vreg f.v))
        let chosen := ((ps.zip data).zipIdx.filter (fun e => m.getLsbD e.2)).map (·.1)
        let s := if arbitrated f.am.toNat then s.nonRestartable s.cur.core 3 else s
        .next ((s.visit s.cur.core f.ch true ps).putBytes s.cur.core chosen).advance))

/-- PREF (R132): the line of the core data cache, or under CH 10 of the L2 alone, is brought in when the access would pass
and no engine holds it; it retires at once and faults never. -/
def execPref (f : FM) (s : State) : Out :=
  memOp 0x10C false f s (fun s =>
    match s.placeByte s.cur.core s.cur.ctx.val (s.accessOf f { r := true }) 0 (s.indexed f) with
    | .error _ => .next s.advance
    | .ok p => .next ((if (s.uceSeen s.cur.core p).isSome || s.engineStops s.cur.core p then s
                       else s.visit s.cur.core f.ch false [p]).advance))

/-! Atomics (R133 to R135). -/

/-- The home view of a place: an atomic is performed at the home, not in the core data cache (R133). -/
def Place.atHome (p : Place) : Place := { p with si := false, tracked := false }

/-- The lines of the core data cache of a place. -/
def State.lineAt (s : State) (core : Nat) (p : Place) (l : CacheLine) : Bool :=
  match p.ia with
  | some ia => (s.core core).hits ia l
  | none => false

/-- Leaves the core data cache before an atomic: the line's dirty bytes go home, the line is invalidated (R133). -/
def State.expel (s : State) (core : Nat) (ps : List Place) : State :=
  s.flushLines core (fun l => ps.any (fun p => s.lineAt core p l))

/-- An atomic reaches the home slice of its places in every class: the issuing core's line leaves first, and other holders
of a DT line give way (R133, R315). -/
def State.toHome (s : State) (core : Nat) (ps : List Place) : State :=
  (lineHeads (ps.filter (fun p => p.leaf.isSome))).foldl (fun s p =>
    let s := s.noteLeaf core (s.dieHere core) p
    match s.homeOf core p with
    | some h => (if p.tracked then s.homeRequest h true else s).dirtyL2 h
    | none => s) (s.expel core ps)

/-- An atomic: `op` gives the new value from the old one and the operand, or none where it writes nothing. -/
def atomic (opc : BitVec 10) (f : FM) (s : State) (op : Nat → Nat → Nat → Option Nat) : Out :=
  memOp opc false f s (fun s =>
    let o := s.based f
    let n := f.bytes
    aligned n o s (fun s =>
      let acc := s.accessOf f { r := true, w := true }
      match s.places s.cur.core s.cur.ctx.val acc (offsets 0 o n) with
      | .error t => s.settle t
      | .ok ps =>
        let core := s.cur.core
        let s := if f.var.getLsbD 1 then s.release core else s
        let s := s.toHome core ps
        let old := natOfBytes (ps.map (fun p => s.byteAt core p.atHome))
        let s := if arbitrated f.am.toNat then s.nonRestartable core 3 else s
        let s := match op n old ((s.sa f.idx).toNat % 2 ^ (8 * n)) with
          | some x => s.putBytes core ((ps.map Place.atHome).zip (bytesOfNat n x))
          | none => s
        (s.acquire core (f.wide && f.var.getLsbD 0)).deliverAtomic f.am.toNat f.v (BitVec.ofNat 64 old)))

/-- A w-bit value as a signed integer. -/
def signedOf (n x : Nat) : Int := (BitVec.ofNat (8 * n) x).toInt

/-- AMOADD (R134). -/
def execAmoadd (f : FM) (s : State) : Out := atomic 0x10D f s (fun _ old y => some (old + y))
/-- AMOMIN (R134). -/
def execAmomin (f : FM) (s : State) : Out :=
  atomic 0x10E f s (fun n old y => some (if signedOf n old ≤ signedOf n y then old else y))
/-- AMOMAX (R134). -/
def execAmomax (f : FM) (s : State) : Out :=
  atomic 0x10F f s (fun n old y => some (if signedOf n old ≤ signedOf n y then y else old))
/-- AMOMINU (R134). -/
def execAmominu (f : FM) (s : State) : Out := atomic 0x110 f s (fun _ old y => some (min old y))
/-- AMOMAXU (R134). -/
def execAmomaxu (f : FM) (s : State) : Out := atomic 0x111 f s (fun _ old y => some (max old y))
/-- AMOAND (R134). -/
def execAmoand (f : FM) (s : State) : Out := atomic 0x112 f s (fun _ old y => some (old &&& y))
/-- AMOOR (R134). -/
def execAmoor (f : FM) (s : State) : Out := atomic 0x113 f s (fun _ old y => some (old ||| y))
/-- AMOXOR (R134). -/
def execAmoxor (f : FM) (s : State) : Out := atomic 0x114 f s (fun _ old y => some (old ^^^ y))
/-- AMOSWP (R134). -/
def execAmoswp (f : FM) (s : State) : Out := atomic 0x115 f s (fun _ _ y => some y)
/-- AMOCAS (R134): the expected value is the old reg(V). -/
def execAmocas (f : FM) (s : State) : Out :=
  atomic 0x116 f s (fun n old y => if old = (s.sa f.v).toNat % 2 ^ (8 * n) then some y else none)
/-- AMOFADD (R135): F32, nearest-even, no flags, no flushing. -/
def execAmofadd (f : FM) (s : State) : Out :=
  atomic 0x117 f s (fun _ old y => some (addCodes 0 false (old, 0) (y, 0)).1)

/-! Fences (R136, R137). -/

/-- FENCE of a kind: the SI lines written back, and dropped at a scope wider than .core (R136, R261, R316). -/
def fence (f : FI) (rel acq : Bool) (s : State) : Out :=
  guarded f.g f.gn s (fun s =>
    let wide := f.imm.extractLsb' 8 3 != 0
    .next ((if rel then s.release s.cur.core else s).acquire s.cur.core (wide && acq)).advance)

/-- FENCE (R136). -/
def execFence (f : FI) (s : State) : Out := fence f true true s
/-- FENCE.SS (R136). -/
def execFenceSs (f : FI) (s : State) : Out := fence f true false s
/-- FENCE.LL (R136). -/
def execFenceLl (f : FI) (s : State) : Out := fence f false true s
/-- FENCE.S (R137): every write is performed at its step (log 1); the operand cache is emptied. -/
def execFenceS (f : FI) (s : State) : Out :=
  guarded f.g f.gn s (fun s => .next (s.modMe (fun c => { c with operands := [] })).advance)

/-! Cache maintenance (R138). -/

/-- One line at a time, ascending; a fault reports the line's first byte, and the lines before it stay done. -/
def cmoLines (acc : Access) (effect : State → Place → State) : Nat → Word → State → Out
  | 0, _, s => .next s.advance
  | n + 1, va, s =>
    match s.places s.cur.core s.cur.ctx.val acc [(0, va)] with
    | .error t => s.settle t
    | .ok [p] => cmoLines acc effect n (va + 64) (effect s p)
    | .ok _ => cmoLines acc effect n (va + 64) s

/-- A class that core data caches hold: on a UC page CLEAN, INVAL and FLUSH have no effect. -/
def Place.cached (p : Place) : Bool := p.si || p.tracked

/-- The L2 line of a place. -/
def State.l2At (p : Place) (l : L2Line) : Bool :=
  p.leaf.any (fun e => l.part == e.part) && p.ia.any (fun ia => l.line == ia / 64) && l.loc / 64 == p.loc / 64

/-- A CMO: the check of its length, then its lines. -/
def cmo (f : FM) (need : Need) (zero : Bool) (effect : State → Place → State) (s : State) : Out :=
  memOp 0x11A false f s (fun s =>
    let o := s.based f
    let len := s.sa f.idx
    if zero && (o.toNat % 64 != 0 || len.toNat % 64 != 0) then .next (s.raise .prot 3 o)
    else if len.toNat > 1048576 then .next (s.raise .prot 7 o)
    else
      let first := o &&& ~~~63
      let last := (o + BitVec.ofNat 64 (max len.toNat 1 - 1)) &&& ~~~63
      cmoLines { s.accessOf f need with upkeep := !zero, unread := true } effect ((last - first).toNat / 64 + 1) first
        (s.nonRestartable s.cur.core 3))

/-- CMO.CLEAN (R138). -/
def execCmoClean (f : FM) (s : State) : Out :=
  cmo f { r := true } false (fun s p =>
    if !p.cached then s
    else
      let s := s.cleanLines s.cur.core (s.lineAt s.cur.core p)
      if f.toDram then s.cleanL2Lines (State.l2At p) else s) s
/-- CMO.INVAL (R138): on a DT page dirty bytes are written back first, on an SI page they are discarded. -/
def execCmoInval (f : FM) (s : State) : Out :=
  cmo f { r := true, w := true } false (fun s p =>
    if p.tracked then s.flushLines s.cur.core (s.lineAt s.cur.core p)
    else if p.si then s.dropLines s.cur.core (s.lineAt s.cur.core p) else s) s
/-- CMO.FLUSH (R138). -/
def execCmoFlush (f : FM) (s : State) : Out :=
  cmo f { r := true } false (fun s p =>
    if !p.cached then s
    else
      let s := s.flushLines s.cur.core (s.lineAt s.cur.core p)
      if f.toDram then s.flushL2Lines (State.l2At p) else s) s
/-- CMO.ZERO (R138). -/
def execCmoZero (f : FM) (s : State) : Out :=
  cmo f { r := true, w := true } true (fun s p =>
    let ps := (List.range 64).map (fun i => ({ p with loc := p.loc + i, ia := p.ia.map (· + i) } : Place))
    (s.visit s.cur.core f.ch true ps).putBytes s.cur.core (ps.map (fun p => (p, (0 : Byte))))) s

/-! The monitored wait (R139). -/

/-- MONADDR when a monitored wait has ended: ARMED is 0, and SECT, which lives from arming to wake (Table 1-7), is not
defined after it (R4, log 9). -/
def State.endedSect (s : State) : Word × State := (s.free.1 &&& ~~~31, s.free.2)

/-- A monitor's wake: ARMED clears, and the register takes the reason. -/
def State.wake (s : State) (m : Monitor) (reason : Word) : State :=
  let (sect, s) := s.endedSect
  let s := s.modCtx m.core m.ctx (fun x => { (x.setSA m.reg reason) with monaddr := sect })
  { s with monitors := s.monitors.filter (fun k => !(k.core == m.core && k.ctx == m.ctx && k.gid == m.gid)) }

/-- The monitor of a context. -/
def State.monitorOf (s : State) (core ctx : Nat) : Option Monitor :=
  s.monitors.find? (fun m => m.core == core && m.ctx == ctx && m.gid == (s.core core).gid)

/-- The monitor of a context goes without a wake: its instruction has been given up (R139, R364). -/
def State.disarm (s : State) (core ctx : Nat) : State :=
  match s.monitorOf core ctx with
  | none => s
  | some _ =>
    let (sect, s) := s.endedSect
    { s.modCtx core ctx (fun x => { x with monaddr := sect }) with
      monitors := s.monitors.filter (fun k => !(k.core == core && k.ctx == ctx && k.gid == (s.core core).gid)) }

/-- The context whose turn it is waits in a WAITM. -/
def State.monitoring (s : State) : Bool := s.my.wait.any (fun w => decide (w.kind = .monitor))

/-- MONADDR takes the sector of an offset, armed. -/
def State.setMonaddr (s : State) (o : Word) : State := s.modMy (fun x => { x with monaddr := (o &&& ~~~31) ||| 1 })

/-- Arms the monitor of the context whose turn it is on the sector of a place, and waits. The sector is 32 bytes of the memory
that holds the byte; in AM 3 that is one core's scratchpad, where the offsets of 32 successive bytes spread over eight cores
(DESIGN CHOICE, log 49). -/
def State.arm (s : State) (f : FM) (o : Word) (p : Place) : State :=
  let m : Monitor :=
    { core := s.cur.core, ctx := s.cur.ctx.val, reg := f.v, sector := p.loc / 32, am := f.am,
      gid := s.me.gid, hit := false }
  ({ s with monitors := s.monitors ++ [m] }.setMonaddr o).waitTh .monitor

/-- WAITM: a context that waits in it wakes at a write and else waits on; another arms its monitor anew, and in the compare
form ends at once when the value differs. -/
def waitm (f : FM) (cmp : Bool) (s : State) : Out :=
  memOp 0x11B false f s (fun s =>
    match (if s.monitoring then s.monitorOf s.cur.core s.cur.ctx.val else none) with
    | some m => if m.hit then .next (s.wake m 1).advance
                else if m.evicted then .next (s.wake m 2).advance else .next (s.waitTh .monitor)
    | none =>
      let o := s.based f
      let s := s.disarm s.cur.core s.cur.ctx.val
      aligned f.bytes o s (fun s =>
        let acc := s.accessOf f { r := true }
        if cmp then
          match s.places s.cur.core s.cur.ctx.val acc (offsets 0 o f.bytes) with
          | .error t => s.settle t
          | .ok ps =>
            let s := s.visit s.cur.core f.ch false ps
            let v := natOfBytes (ps.map (s.byteAt s.cur.core))
            if v ≠ (s.sa f.idx).toNat % 2 ^ (8 * f.bytes) then
              let (sect, s) := s.endedSect
              .next ((s.modMy (fun x => { x with monaddr := sect })).setSA f.v 4).advance
            else match ps with
              | p :: _ => .next (s.arm f o p)
              | [] => .next s.advance
        else
          match s.placeByte s.cur.core s.cur.ctx.val acc 0 o with
          | .error t => s.settle t
          | .ok p => .next (s.arm f o p)))

/-- WAITM (R139). -/
def execWaitm (f : FM) (s : State) : Out := waitm f false s
/-- WAITM.CMP (R139). -/
def execWaitmCmp (f : FM) (s : State) : Out := waitm f true s

/-- MONITOR_WAKE (R139, Table 6-7): a write to the sector, or another reason. -/
def execMonitorWake (s : State) : Out :=
  match s.monitorOf s.cur.args.core s.cur.args.ctx.val with
  | none => .next s
  | some m =>
    let r := s.cur.args.index
    if r = 0 || r = 1 && m.hit || r = 2 && m.evicted then .next ((s.wake m (BitVec.ofNat 64 r)).endWait m.core m.ctx) else .next s

/-! The reply (R208). -/

/-- Writes what a reply carries into a context of a core. -/
def Reply.write (r : Reply) (core ctx : Nat) (s : State) : State :=
  match r with
  | .word reg v =>
    if okK reg then s.modCore core (fun c => { c with k := c.k.setIfInBounds (reg.toNat - 56) v })
    else s.modCtx core ctx (·.setSA reg v)
  | .atomic reg v => s.modCtx core ctx (·.setSA reg v)
  | .lanes reg mask v => s.modCore core (fun c =>
      let old := c.v.getD (reg.toNat - 64) VReg.zero
      { c with v := c.v.setIfInBounds (reg.toNat - 64) (Vector.ofFn (fun i : Fin 64 =>
          if mask.getLsbD i.val then v.getD i.val 0 else old.getD i.val 0)) })
  | .tile reg bits v => s.modCore core (fun c =>
      let n := reg.toNat - 96
      let old := c.t.getD n 0
      let keep : Tile := old >>> bits <<< bits
      { c with t := c.t.setIfInBounds n (keep ||| (v <<< (32768 - bits) >>> (32768 - bits))),
               tgen := c.tgen.setIfInBounds n (c.tgen.getD n 0 + 1) })
  | .done => s

/-- MEMORY_REPLY (R208): the oldest reply of a context arrives and writes its destination. -/
def execMemoryReply (s : State) : Out :=
  let core := s.cur.args.core
  let ctx := s.cur.args.ctx.val
  match ((s.core core).ctx ctx).replies with
  | [] => .next s
  | r :: rs => .next ((r.write core ctx s).modCtx core ctx (fun x => { x with replies := rs }))

/-- STREAM_CONDITION_REPORT (R208): the conditions met in a core D clk ago or longer are known to the fetching core of
its stream. -/
def execStreamConditionReport (s : State) : Out :=
  let core := s.cur.args.core
  let due (k : Cond) : Bool := k.met.any (fun m => decide (m + s.reportDelay core ≤ s.clk))
  .next (s.modCore core (fun c => { c with conds := c.conds.filter (fun k => !due k) }))

end Sys2Proof.Machine
end

