-- ==== Sys2Proof/Machine/Tile.lean ====
section
/-! DEFINITION. The tile and matrix family (R143 to R161, R389): shapes, tile loads and stores, the sequencer and its
steps, the gang-issued products and their join. -/

namespace Sys2Proof.Machine

/-! Shapes and elements (R20, R21). -/

/-- A tile shape: type code, rows, columns (Table 1-6). -/
structure Shape where
  ty : Nat
  rows : Nat
  cols : Nat
  deriving DecidableEq, Repr

/-- The shape in a TSHP. -/
def shapeOf (x : BitVec 32) : Shape :=
  { ty := (x.extractLsb' 16 4).toNat, rows := (x.extractLsb' 8 7).toNat, cols := (x.extractLsb' 0 7).toNat }

/-- TSHP of the tile that a field names. -/
def Core.tshpOf (c : Core) (r : BitVec 8) : BitVec 32 := c.tshp.getD (r.toNat - 96) 0
/-- The shape of the tile that a field names. -/
def Core.shape (c : Core) (r : BitVec 8) : Shape := shapeOf (c.tshpOf r)
/-- The bytes of the tile that a field names. -/
def Core.tile (c : Core) (r : BitVec 8) : Tile := c.t.getD (r.toNat - 96) 0
/-- The v register that a field names. -/
def Core.vec (c : Core) (r : BitVec 8) : VReg := c.v.getD (r.toNat - 64) VReg.zero

/-- The extent of a shape in bits. -/
def Shape.bits (x : Shape) : Nat := x.rows * x.cols * typeBits x.ty
/-- EXT of a shape, in bytes (R149). -/
def Shape.bytes (x : Shape) : Nat := (x.bits + 7) / 8

/-- Element n of w bits (R21). -/
def elem (t : Tile) (w n : Nat) : Nat := (t.extractLsb' (w * n) w).toNat
/-- Element (i, j) of a tile of a shape. -/
def elemAt (t : Tile) (x : Shape) (i j : Nat) : Nat := elem t (typeBits x.ty) (i * x.cols + j)
/-- Replaces element n. -/
def setElem (t : Tile) (w n x : Nat) : Tile :=
  (t &&& ~~~(BitVec.ofNat 32768 ((2 ^ w - 1) * 2 ^ (w * n)))) ||| BitVec.ofNat 32768 (x % 2 ^ w * 2 ^ (w * n))
/-- Replaces the elements of row i. -/
def setRow (t : Tile) (x : Shape) (i : Nat) (f : Nat → Nat) : Tile :=
  (List.range x.cols).foldl (fun t j => setElem t (typeBits x.ty) (i * x.cols + j) (f j)) t

/-- A tile instruction: ILLEGAL outside the control context, else under its guard (R143). -/
def tileOp (w : IWord) (g : BitVec 3) (gn : BitVec 1) (s : State) (k : State → Out) : Out := controlOnly w g gn s k

/-! Shapes, loads and stores (R149, R150, R159). -/

/-- TSET (R149): the decoder admits no shape that R20 forbids. -/
def execTset (f : FI) (s : State) : Out :=
  tileOp (f.word 0x160) f.g f.gn s (fun s =>
    .next (s.modMe (fun c => { c with tshp := c.tshp.setIfInBounds (f.d.toNat - 96) f.imm })).advance)

/-- TGET (R149). -/
def execTget (f : FI) (s : State) : Out :=
  tileOp (f.word 0x161) f.g f.gn s (fun s =>
    retire s f.d (0#16 ++ BitVec.ofNat 16 (s.me.shape f.a).bytes ++ 0#12 ++ (s.me.tshpOf f.a).extractLsb' 0 20))

/-- The offsets of the extent of a tile, ascending: contiguous, or a row every stride (R150). -/
def State.tileOffsets (s : State) (f : FM) (x : Shape) : List (Nat × Word) :=
  if f.idx = 0 then offsets 0 (s.based f) x.bytes
  else (List.range x.rows).flatMap (fun i =>
    offsets 0 (s.based f + BitVec.ofNat 64 i * (s.sa f.idx <<< f.shx.toNat)) (x.cols * typeBits x.ty / 8))

/-- A strided row is a whole number of bytes (R150). -/
def rowsWhole (f : FM) (x : Shape) : Bool := f.idx == 0 || x.cols * typeBits x.ty % 8 == 0

/-- TLD (R150). -/
def execTld (f : FM) (s : State) : Out :=
  tileOp (f.word 0x162) f.g f.gn s (fun s =>
    let x := s.me.shape f.v
    if !rowsWhole f x then illegal (f.word 0x162) s
    else match s.loadBytes (s.accessOf f { r := true }) (s.tileOffsets f x) with
      | .error t => s.settle t
      | .ok (bs, s) =>
        let v := BitVec.ofNat 32768 (natOfBytes bs)
        if arbitrated f.am.toNat then
          .next (s.advance.modMy (fun c => { c with replies := c.replies ++ [.tile f.v x.bits v] }))
        else
          let keep : Tile := s.treg f.v >>> x.bits <<< x.bits
          .next (s.setTreg f.v (keep ||| (v <<< (32768 - x.bits) >>> (32768 - x.bits)))).advance)

/-- TST (R150): bits of the last byte beyond the extent are written as zero. -/
def execTst (f : FM) (s : State) : Out :=
  tileOp (f.word 0x163) f.g f.gn s (fun s =>
    let x := s.me.shape f.v
    if !rowsWhole f x then illegal (f.word 0x163) s
    else
      let data := bytesOfNat x.bytes ((s.treg f.v).toNat % 2 ^ x.bits)
      match s.storeBytes (s.accessOf f { w := true }) ((s.tileOffsets f x).zip data) with
      | .error t => s.settle t
      | .ok s => .next s.advance)

/-- The low w bits of a lane as an element; an element of 64 bits is wider than the lane, and its upper half is a free
value (log 14). -/
def laneElem (free : Nat → Word) (w j : Nat) (l : Lane) : Nat :=
  if w ≤ 32 then l.toNat % 2 ^ w else l.toNat + (free j).toNat / 2 ^ 32 * 2 ^ 32

/-- The free values of a row, and the counter moved past them when they are drawn (log 9). -/
def State.drawRow (s : State) (w n : Nat) : (Nat → Word) × State :=
  (fun j => Config.freeWord (s.freeCtr + j), if w ≤ 32 then s else { s with freeCtr := s.freeCtr + n })

/-- TV2T (R159). -/
def execTv2t (f : FT) (s : State) : Out :=
  tileOp (f.word 0x170) f.g f.gn s (fun s =>
    let x := s.me.shape f.d
    let r := (s.sa f.b).toNat % 64
    if f.tc.toNat ≠ x.ty then illegal (f.word 0x170) s
    else if r ≥ x.rows then .next s.advance
    else
      let (free, s) := s.drawRow (typeBits x.ty) x.cols
      let v := s.vreg f.a
      .next (s.setTreg f.d (setRow (s.treg f.d) x r (fun j => laneElem free (typeBits x.ty) j (v.getD j 0)))).advance)

/-- TT2V (R159). -/
def execTt2v (f : FT) (s : State) : Out :=
  tileOp (f.word 0x171) f.g f.gn s (fun s =>
    let x := s.me.shape f.a
    let r := (s.sa f.b).toNat % 64
    if f.ta.toNat ≠ x.ty then illegal (f.word 0x171) s
    else if r ≥ x.rows then .next s.advance
    else
      let old := s.vreg f.d
      let t := s.treg f.a
      .next (s.setVreg f.d (Vector.ofFn (fun j : Fin 64 =>
        if j.val < x.cols then BitVec.ofNat 32 (elemAt t x r j.val) else old.getD j.val 0))).advance)

/-! The sequencer (R145 to R148). -/

/-- Starts a macro-operation of the context whose turn it is; the instruction retires from issue (R146). -/
def State.startMacro (s : State) (i : Instr) (total : Nat) (joining guard : Bool) (since limit : Nat) : Out :=
  let pc := s.my.pc
  .next (s.modMe (fun c => { c with seq :=
    { instr := some i, pc := pc, busy := true, joining := joining, guard := guard, step := 0, total := total,
      since := since, limit := limit, shared := none, arrived := c.seq.arrived } })).advance

/-- A macro-operation whose shapes are checked at issue (R144). -/
def macroOp (i : Instr) (w : IWord) (g : BitVec 3) (gn : BitVec 1) (ok : Core → Bool) (total : Core → Nat) (s : State) :
    Out :=
  tileOp w g gn s (fun s =>
    if ok s.me then s.startMacro i (total s.me) false true s.clk 0 else illegal w s)

/-- TZERO (R157). -/
def execTzero (f : FT) (s : State) : Out :=
  macroOp (.tzero f) (f.word 0x164) f.g f.gn (fun _ => true) (fun c => (c.shape f.d).rows) s

/-- TMOV (R157). -/
def execTmov (f : FT) (s : State) : Out :=
  macroOp (.tmov f) (f.word 0x165) f.g f.gn (fun c => c.tshpOf f.d == c.tshpOf f.a) (fun c => (c.shape f.d).rows) s

/-- Equal rows and equal columns (R157). -/
def Shape.same (x y : Shape) : Bool := x.rows == y.rows && x.cols == y.cols

/-- The shapes of TADD and TMUL: all three of the named type and of one shape. -/
def okElementwise (f : FT) (c : Core) : Bool :=
  (c.shape f.a).ty == f.ta.toNat && (c.shape f.b).ty == f.tb.toNat && (c.shape f.d).ty == f.tc.toNat &&
  (c.shape f.a).same (c.shape f.d) && (c.shape f.b).same (c.shape f.d)

/-- TADD (R157). -/
def execTadd (f : FT) (s : State) : Out :=
  macroOp (.tadd f) (f.word 0x16A) f.g f.gn (okElementwise f) (fun c => (c.shape f.d).rows) s
/-- TMUL (R157). -/
def execTmul (f : FT) (s : State) : Out :=
  macroOp (.tmul f) (f.word 0x16B) f.g f.gn (okElementwise f) (fun c => (c.shape f.d).rows) s

/-- TSCALE (R156). -/
def execTscale (f : FT) (s : State) : Out :=
  macroOp (.tscale f) (f.word 0x169) f.g f.gn
    (fun c => (c.shape f.a).ty == 8 && (c.shape f.d).ty == 8 && (c.shape f.a).same (c.shape f.d))
    (fun c => (c.shape f.d).rows) s

/-- The first reserved code of a tile: element index and code (R37, R153). -/
def reservedElem (t : Tile) (x : Shape) : Option (Nat × Nat) :=
  ((List.range (x.rows * x.cols)).find? (fun n => lReserved x.ty (elem t (typeBits x.ty) n))).map
    (fun n => (n, elem t (typeBits x.ty) n))

/-- TCVT (R157): a logarithmic source is scanned before the first step. -/
def execTcvt (f : FT) (s : State) : Out :=
  tileOp (f.word 0x16C) f.g f.gn s (fun s =>
    let a := s.me.shape f.a
    let d := s.me.shape f.d
    if !(a.ty == f.ta.toNat && d.ty == f.tc.toNat && a.same d && (f.d != f.a || typeBits a.ty == typeBits d.ty)) then
      illegal (f.word 0x16C) s
    else match (if isLType a.ty then reservedElem (s.treg f.a) a else none) with
      | some (n, c) => .next (s.raise .resFmt 0 (resfmtOperand f.a n c))
      | none => s.startMacro (.tcvt f) d.rows false true s.clk 0)

/-- TTRANS (R157). -/
def execTtrans (f : FT) (s : State) : Out :=
  macroOp (.ttrans f) (f.word 0x16D) f.g f.gn
    (fun c => (c.shape f.a).ty == f.ta.toNat && (c.shape f.d).ty == f.tc.toNat && f.d != f.a &&
      (c.shape f.d).rows == (c.shape f.a).cols && (c.shape f.d).cols == (c.shape f.a).rows)
    (fun c => (c.shape f.d).rows) s

/-- TRSUM (R158). -/
def execTrsum (f : FT) (s : State) : Out :=
  macroOp (.trsum f) (f.word 0x16E) f.g f.gn (fun c => (c.shape f.a).ty == 8) (fun c => (c.shape f.a).rows) s
/-- TRMAX (R158). -/
def execTrmax (f : FT) (s : State) : Out :=
  macroOp (.trmax f) (f.word 0x16F) f.g f.gn (fun c => (c.shape f.a).ty == 8) (fun c => (c.shape f.a).rows) s

/-- TBCST (R157). -/
def execTbcst (f : FT) (s : State) : Out :=
  macroOp (.tbcst f) (f.word 0x172) f.g f.gn (fun c => (c.shape f.d).ty == f.tc.toNat) (fun c => (c.shape f.d).rows) s

/-- The instruction word in the sequencer. -/
def Sequencer.word (q : Sequencer) : IWord := (q.instr.bind encode).getD 0

/-- The status of the sequencer (Table 7-1). -/
def Sequencer.image (q : Sequencer) : Word :=
  BitVec.ofBool q.busy ++ 0#5 ++ wOpc q.word ++ 0#5 ++ (q.word.extractLsb' 72 8).extractLsb' 0 3 ++ 0#25
    ++ BitVec.ofNat 7 q.step ++ 0#1 ++ BitVec.ofNat 7 q.total

/-- TSTAT (R148, Table 7-1). -/
def execTstat (f : FI) (s : State) : Out :=
  tileOp (f.word 0x173) f.g f.gn s (fun s =>
    retire s f.d s.me.seq.image)

/-! Gang-issued products (R152 to R155). -/

/-- GISSUE (R152): an arrival whether or not its guard is true. -/
def execGissue (f : FE) (s : State) : Out :=
  if !s.isControl then illegal (f.word 0x166) s
  else
    let s := s.modMe (fun c => { c with seq := { c.seq with since := s.clk, limit := c.bto.toNat } })
    .next (s.advance.modMy (fun x => { x with afterGissue := true }))

/-- The product group of an input type (Table 2-8). -/
def groupSize (ty : Nat) : Nat := if ty = 9 ∨ ty = 10 then 8 else if ty = 13 then 32 else 16

/-- Steps of a product: k-blocks, KB of them to a step (R154). -/
def productSteps (f : FT) (k : Nat) : Nat :=
  let nb := (k + groupSize f.ta.toNat - 1) / groupSize f.ta.toNat
  let kb := if f.kb = 0 then 8 else f.kb.toNat
  (nb + kb - 1) / kb

/-- The shape rules of a product on the core's own tiles (R154): those of B wait for the join under .SHB. -/
def okProduct (f : FT) (c : Core) : Bool :=
  let a := c.shape f.a
  let b := c.shape f.b
  let d := c.shape f.d
  a.ty == f.ta.toNat && d.ty == f.tc.toNat && d.rows == a.rows && f.d != f.a &&
  (f.var == 1 || b.ty == f.tb.toNat && b.rows == a.cols && b.cols == d.cols && f.d != f.b)

/-- A gang-issued product: it must directly follow a GISSUE; with its guard false the core still takes part. -/
def product (i : Instr) (opc : BitVec 10) (f : FT) (s : State) : Out :=
  if !s.isControl || !s.my.afterGissue then illegal (f.word opc) s
  else
    let g := s.guard f.g f.gn
    if g && !okProduct f s.me then illegal (f.word opc) s
    else s.startMacro i (productSteps f (s.me.shape f.a).cols) true g s.me.seq.since s.me.seq.limit

/-- TMMA (R154). -/
def execTmma (f : FT) (s : State) : Out := product (.tmma f) 0x167 f s
/-- TMMAL (R154). -/
def execTmmal (f : FT) (s : State) : Out := product (.tmmal f) 0x168 f s

/-- The cores of the course segment of a core, core 0 first (R152). -/
def State.segment (s : State) (core : Nat) : List Nat :=
  let x0 := (s.core core).vx.toNat / 8 * 8
  (List.range 8).filterMap (fun j => s.peer core (x0 + j) (s.core core).vy.toNat)

/-- A core that the join excludes: parked, stopped or halted (R153). -/
def Core.excluded (c : Core) : Bool := c.parked || (c.ctx 0).stop.isSome || (c.ctx 0).halted

/-- A core that has arrived at the join, by its GISSUE, or is excluded (R152, R153). -/
def Core.joined (c : Core) : Bool := c.excluded || c.seq.joining || c.seq.arrived || (c.ctx 0).afterGissue

/-- The fields of the product in a core's sequencer. -/
def Sequencer.product? (q : Sequencer) : Option FT :=
  match q.instr with
  | some (.tmma f) => some f
  | some (.tmmal f) => some f
  | _ => none

/-- The sequencer holds a TMMAL. -/
def Sequencer.isLog (q : Sequencer) : Bool :=
  match q.instr with
  | some (.tmmal _) => true
  | _ => false

/-- What the pre-scan of a core finds: a failed shape, or the first reserved code, register and element (R153). `zero`
is segment core 0 with its B, `first` says that the core is segment core 0. -/
def Core.prescan (c : Core) (f : FT) (zero : Option (BitVec 8 × Core)) (first : Bool) :
    Option (FaultClass × Word) :=
  let q := c.seq
  let word := (q.instr.bind encode).getD 0
  let bad := q.guard && f.var == 1 && match zero with
    | none => false
    | some (r, z) =>
      let b := z.shape r
      !(b.ty == f.tb.toNat && b.rows == (c.shape f.a).cols && b.cols == (c.shape f.d).cols) || f.d == r
  if bad then some (.illegal, word.extractLsb' 32 64)
  else if !q.isLog then none
  else match (if q.guard then reservedElem (c.tile f.a) (c.shape f.a) else none) with
    | some (n, x) => some (.resFmt, resfmtOperand f.a n x)
    | none =>
      match (if q.guard && f.var == 0 || f.var == 1 && first then reservedElem (c.tile f.b) (c.shape f.b) else none) with
      | some (n, x) => some (.resFmt, resfmtOperand f.b n x)
      | none => none

/-- The join of one core: its pre-scan, then its product starts, with the B that segment core 0 supplies (R153). A core 0 that
takes no part, or whose own pre-scan has found its product ILLEGAL, supplies zero: the rules say so of an excluded one (DESIGN
CHOICE, log 52). After a pre-scan that faults TSTAT goes on to read the OPC, STEP and TOTAL of that product, with BUSY 0: the spec gives it no
reading (DESIGN CHOICE, log 52). -/
def State.joinCore (s : State) (zero : Option Nat) (core : Nat) : State :=
  let c := s.core core
  match c.seq.product? with
  | none => s
  | some f =>
    if !c.seq.joining || c.excluded then s
    else
      let supply := zero.bind (fun n => if (s.core n).excluded || (s.core n).seq.arrived then none
        else (s.core n).seq.product?.map (fun g => (g.b, s.core n)))
      match c.prescan f supply (zero == some core) with
      | some (cls, operand) =>
        (s.modCore core (fun c => { c with seq := { c.seq with busy := false, joining := false } })).takeFault core 0
          { cls := cls, code := 0, operand := operand, pc := c.seq.pc }
      | none => s.modCore core (fun c => { c with seq := { c.seq with
          joining := false
          shared := if f.var = 1 then supply.map (fun r => (r.2.tshpOf r.1, r.2.tile r.1)) else none } })

/-- A core has issued its product, takes no part in it, or is excluded. -/
def Core.ready (c : Core) : Bool := c.excluded || c.seq.joining || c.seq.arrived

/-- JOIN_COMPLETION (R153): every core of the segment has arrived or is excluded, and those that have arrived have issued
their products. A core whose arrival a TRET 01 has left counted takes no part (R358). -/
def execJoinCompletion (s : State) : Out :=
  let seg := s.segment s.cur.args.core
  if seg.any (fun n => (s.core n).seq.joining && !(s.core n).seq.arrived) && seg.all (fun n => (s.core n).ready) then
    .next (seg.foldl (fun s n => s.modCore n (fun c => { c with seq := { c.seq with arrived := false } }))
      ((seg.filter (fun n => !(s.core n).seq.arrived)).foldl (fun s n => s.joinCore seg.head? n) s))
  else .next s

/-- The group sum of k values of a binary float type: exact products, exactly summed; a NaN input, 0 × ∞ and ∞ − ∞ are
invalid (R48). -/
def groupSum (fm : Fmt) (ab : List (Nat × Nat)) : Exact × FpFlags :=
  match ab.map (fun e => ((fm.value false e.1).1.mul (fm.value false e.2).1).1) with
  | [] => (.fin false 0 1, 0)
  | p :: ps =>
    let r := ps.foldl (fun acc q => (acc.add 0 q).1) p
    (r, if r = .nan then flagIV else 0)

/-- One group added to an F32 accumulator element: code and flags (R40, R48). -/
def addGroup (ty : Nat) (d : Nat) (ab : List (Nat × Nat)) (zero : Bool) : Nat × FpFlags :=
  if isLType ty then
    let terms := ab.map (fun e => lProduct ty e.1 e.2)
    let (q, g) := lClampSum (if zero then 0 else terms.foldl (fun acc e => acc + e.1) 0)
    let nx : FpFlags := if !zero && terms.any (·.2) then flagNX else 0
    match f32.value false d with
    | (.fin n a b, _) =>
      let (r, _) := (Exact.fin n a b).add 0 (.ofFrac false q (2 ^ 23))
      let (c, h) := f32.round 0 false false r
      (c, g ||| nx ||| h)
    | (.inf _, _) => (d, g ||| nx)
    | (.nan, iv) => (if iv = 0 then d else f32.nanCode, g ||| nx ||| iv)
  else
    let (sum, g) := if zero then (Exact.fin false 0 1, 0) else groupSum (fmtOf ty) ab
    let (v, iv) := f32.value false d
    let (r, h) := v.add 0 sum
    let (c, i) := f32.round 0 false false r
    (c, g ||| iv ||| h ||| i)

/-- Element (i, j) of D after the k-blocks of one step (R154). -/
def productElem (ty k : Nat) (a b : Nat → Nat) (zero : Bool) (d first last : Nat) : Nat × FpFlags :=
  let g := groupSize ty
  (List.range (last - first)).foldl (fun acc n =>
    let k0 := (first + n) * g
    let ks := (List.range (min k (k0 + g) - k0)).map (k0 + ·)
    let (c, h) := addGroup ty acc.1 (ks.map (fun x => (a x, b x))) zero
    (c, acc.2 ||| h)) (d, 0)

/-- One step of a product in a core: its D and the flags it raises (R154). `zero` says that the supplying slice is
excluded. -/
def Core.productStep (c : Core) (f : FT) (zero : Bool) : Tile × FpFlags :=
  let x := c.shape f.a
  let y := c.shape f.d
  let (bs, bt) := match f.var == 1, c.seq.shared with
    | true, some (sh, t) => (shapeOf sh, t)
    | _, _ => (c.shape f.b, c.tile f.b)
  let zero := f.var == 1 && (zero || c.seq.shared.isNone)
  let nb := (x.cols + groupSize f.ta.toNat - 1) / groupSize f.ta.toNat
  let kb := if f.kb = 0 then 8 else f.kb.toNat
  let first := c.seq.step * kb
  let last := min nb (first + kb)
  let a := c.tile f.a
  (List.range (y.rows * y.cols)).foldl (fun acc n =>
    let i := n / y.cols
    let j := n % y.cols
    let (e, h) := productElem f.ta.toNat x.cols (fun k => elemAt a x i k) (fun k => elemAt bt bs k j) zero
      (elem (c.tile f.d) 32 n) first last
    (setElem acc.1 32 n e, acc.2 ||| h)) (c.tile f.d, 0)

/-! The steps of the other macro-operations (R156 to R158). -/

/-- What one step writes: a tile, a lane of a v register, or nothing; with the flags it raises. -/
inductive StepResult where
  | tile (reg : BitVec 8) (val : Tile) (flags : FpFlags)
  | lane (reg : BitVec 8) (i : Nat) (val : Lane) (flags : FpFlags)
  | none

/-- A row of elements with flags, written into a tile. -/
def rowResult (reg : BitVec 8) (t : Tile) (x : Shape) (i : Nat) (f : Nat → Nat × FpFlags) : StepResult :=
  .tile reg (setRow t x i (fun j => (f j).1)) ((List.range x.cols).foldl (fun acc j => acc ||| (f j).2) 0)

/-- An elementwise float operation on two elements (R157). -/
def elementOp (ty : Nat) (rm : BitVec 2) (op : Exact → Exact → Exact × FpFlags) (a b : Nat) : Nat × FpFlags :=
  let (x, f) := (fmtOf ty).value false a
  let (y, g) := (fmtOf ty).value false b
  let (r, h) := op x y
  let (c, i) := (fmtOf ty).round rm false false r
  (c, f ||| g ||| h ||| i)

/-- The 64 entries of a row reduction with what stands beyond the columns (R158). -/
def rowEntries (t : Tile) (x : Shape) (i beyond : Nat) : List Nat :=
  (List.range 64).map (fun j => if j < x.cols then elemAt t x i j else beyond)

/-- One step of the macro-operation in a core's sequencer. `free` gives the free halves of 64-bit elements (log 14),
`zero` says that the slice of segment core 0 is excluded. -/
def Core.macroStep (c : Core) (free : Nat → Word) (zero : Bool) : StepResult :=
  let i := c.seq.step
  match c.seq.instr with
  | some (.tzero f) => rowResult f.d (c.tile f.d) (c.shape f.d) i (fun _ => (0, 0))
  | some (.tmov f) => rowResult f.d (c.tile f.d) (c.shape f.d) i (fun j => (elemAt (c.tile f.a) (c.shape f.a) i j, 0))
  | some (.tmma f) => if c.seq.guard then let r := c.productStep f zero; .tile f.d r.1 r.2 else .none
  | some (.tmmal f) => if c.seq.guard then let r := c.productStep f zero; .tile f.d r.1 r.2 else .none
  | some (.tscale f) => rowResult f.d (c.tile f.d) (c.shape f.d) i (fun j =>
      let x := ((c.vec f.b).getD (if f.var = 0 then i else j) 0).toNat
      let (vd, g1) := f32.value false (elemAt (c.tile f.d) (c.shape f.d) i j)
      let (va, g2) := f32.value false (elemAt (c.tile f.a) (c.shape f.a) i j)
      let (vx, g3) := f32.value false x
      let (r, g4) := Exact.fma 0 va vx vd
      let (e, g5) := f32.round 0 false false r
      (e, g1 ||| g2 ||| g3 ||| g4 ||| g5))
  | some (.tadd f) => rowResult f.d (c.tile f.d) (c.shape f.d) i (fun j =>
      elementOp f.ta.toNat f.var (Exact.add f.var) (elemAt (c.tile f.a) (c.shape f.a) i j)
        (elemAt (c.tile f.b) (c.shape f.b) i j))
  | some (.tmul f) => rowResult f.d (c.tile f.d) (c.shape f.d) i (fun j =>
      elementOp f.ta.toNat f.var Exact.mul (elemAt (c.tile f.a) (c.shape f.a) i j)
        (elemAt (c.tile f.b) (c.shape f.b) i j))
  | some (.tcvt f) => rowResult f.d (c.tile f.d) (c.shape f.d) i (fun j =>
      convert f.var false false false f.ta.toNat f.tc.toNat (elemAt (c.tile f.a) (c.shape f.a) i j))
  | some (.ttrans f) => rowResult f.d (c.tile f.d) (c.shape f.d) i (fun j =>
      (elemAt (c.tile f.a) (c.shape f.a) j i, 0))
  | some (.tbcst f) => rowResult f.d (c.tile f.d) (c.shape f.d) i (fun j =>
      (laneElem free (typeBits f.tc.toNat) j ((c.vec f.a).getD (if f.var = 0 then j else i) 0), 0))
  | some (.trsum f) =>
    let r := tree (addCodes 0 false) ((rowEntries (c.tile f.a) (c.shape f.a) i 0x80000000).map (fun x => (x, (0 : FpFlags))))
      (0, 0)
    .lane f.d i (BitVec.ofNat 32 r.1) r.2
  | some (.trmax f) =>
    let r := tree (fun a b => (Exact.extreme true a.1 b.1, a.2 ||| b.2))
      ((rowEntries (c.tile f.a) (c.shape f.a) i 0xFF800000).map (f32.value false)) (.nan, 0)
    .lane f.d i (BitVec.ofNat 32 (f32.round 0 false false r.1).1) r.2
  | _ => .none

/-- The core after a step that has completed: results, flags, STEP, and BUSY when it was the last (R145, R148). -/
def Core.afterStep (c : Core) (r : StepResult) : Core :=
  let c := match r with
    | .tile reg v g =>
      { c with t := c.t.setIfInBounds (reg.toNat - 96) v, fpflags := c.fpflags ||| g,
               tgen := c.tgen.setIfInBounds (reg.toNat - 96) (c.tgen.getD (reg.toNat - 96) 0 + 1) }
    | .lane reg i v g =>
      { c with v := c.v.setIfInBounds (reg.toNat - 64) ((c.vec reg).setIfInBounds i v), fpflags := c.fpflags ||| g }
    | .none => c
  { c with seq := { c.seq with step := c.seq.step + 1, busy := decide (c.seq.step + 1 < c.seq.total) } }

/-- The tiles that a macro-operation reads as operands. -/
def operandTiles : Option Instr → List (BitVec 8)
  | some (.tmma f) | some (.tmmal f) | some (.tadd f) | some (.tmul f) => [f.a, f.b]
  | some (.tmov f) | some (.tscale f) | some (.tcvt f) | some (.ttrans f) | some (.trsum f) | some (.trmax f) => [f.a]
  | _ => []

/-- A step fetches its tile operands through the operand cache, whose 16 entries carry tile number and generation; no
result depends on it (R151). Which entry gives way the spec leaves open: the oldest does (log 12). -/
def Core.fetchOperands (c : Core) : Core :=
  let tags := (operandTiles c.seq.instr).map (fun r => (r.toNat - 96, c.tgen.getD (r.toNat - 96) 0))
  { c with operands := ((tags.filter (fun e => !c.operands.contains e)) ++ c.operands).take 16 }

/-- The sequencer of a core runs a product whose join has completed. -/
def Core.multiplying (c : Core) : Bool := c.seq.busy && c.seq.product?.isSome && !c.seq.joining

/-- A core of a gang that is being stopped waits at a step that another core of its segment has still to reach, so that all
stop at one (R147). -/
def State.stepsAhead (s : State) (core : Nat) : Bool :=
  (s.gangOf core).any (·.stopping) && (s.core core).multiplying &&
  (s.segment core).any (fun n => (s.core n).multiplying && decide ((s.core n).seq.step < (s.core core).seq.step))

/-- SEQUENCER_STEP (R145): the next step of a core's macro-operation completes; after a restore not before the core's first
issue clock (R346). Of a segment core 0 that has parked since
the join the slice enters as zero (R161); one that has stopped or halted still supplies its tile. -/
def execSequencerStep (s : State) : Out :=
  let core := s.cur.args.core
  let c := s.core core
  if !c.seq.busy || c.seq.joining || s.clk < c.seq.since || s.stepsAhead core then .next s
  else
    let zero := match (s.segment core).head? with
      | some z => (s.core z).parked && z != core
      | none => false
    let wide := match c.seq.instr with
      | some (.tbcst f) => typeBits f.tc.toNat
      | _ => 0
    let (free, s) := s.drawRow wide 64
    .next (s.modCore core (fun c => c.fetchOperands.afterStep (c.macroStep free zero)))

end Sys2Proof.Machine
end

