-- ==== Sys2Proof/Machine/Fetch.lean ====
section
/-! DEFINITION. Fetching an instruction's bytes (R50 to R55), the stream that cores follow (R206 to R216), what holds
an instruction back at issue (R146, R152, R208), and the block checker's feed (R367, R368). -/

namespace Sys2Proof.Machine

/-! The fetch line. -/

/-- The word of a slot of a line (Table 3-1). -/
def lineSlot (line : BitVec 512) (slot : Nat) : IWord := line.extractLsb' (96 * slot) 96
/-- The line word (Table 3-1). -/
def lineWordOf (line : BitVec 512) : BitVec 32 := line.extractLsb' 480 32
/-- The parity of a word is odd. -/
def oddOnes {n : Nat} (w : BitVec n) : Bool := (List.range n).foldl (fun p i => p != w.getLsbD i) false
/-- The slot of a PC (R53). -/
def slotOf (pc : Word) : Nat := (pc &&& 7).toNat

/-- The line that holds a PC, and where it lies: translated with the X permission (R54), or from a line that the fetch
unit still holds (R94). -/
def State.fetchLine (s : State) (core ctx : Nat) (pc : Word) : Except Trap (BitVec 512 × Place) :=
  let la := pc &&& ~~~63
  match s.placeByte core ctx { am := 0, need := { x := true } } 0 la with
  | .error t => .error t
  | .ok p =>
    match (s.core core).lines.find? (fun l => l.1 == BitVec.ofNat 64 p.loc) with
    | some (_, line) => .ok (line, p)
    | none =>
      match (s.uceAt p).or (s.uceAt { p with loc := p.loc + 32, ia := p.ia.map (· + 32) }) with
      | some code => .error (.fault .uce code la)
      | none => .ok (BitVec.ofNat 512 (s.mem.readNat p.loc 64), p)

/-- Keeps a fetched line in the fetch unit, which holds the four newest (log 13), and notes its leaf and its home's line. -/
def State.keepLine (s : State) (core : Nat) (p : Place) (line : BitVec 512) : State :=
  let a := BitVec.ofNat 64 p.loc
  let held := (s.core core).lines.any (fun l => l.1 == a)
  let s := s.noteLeaf core (s.dieHere core) p (!held)
  if held then s
  else (s.homeRead core p).modCore core (fun c => { c with lines := ((a, line) :: c.lines).take 4 })

/-- What a fetch gives: an instruction with its word and line word, or why there is none. -/
inductive Fetched where
  | ok (i : Instr) (w : IWord) (line : BitVec 32) (p : Place) (bits : BitVec 512)
  | bad (cls : FaultClass) (code : Nat) (operand : Word)
  | trap (t : Trap)

/-- Fetch of the instruction at a PC (R54, R55, R71): translation, TGT when the PC was reached by a checked transfer,
parity, the line word's reserved bits, decoding. The rule ranks only the parity: of a slot whose line word has [17:16] set and
whose own word is ILLEGAL too, the line word is reported (DESIGN CHOICE, log 43). -/
def State.fetch (s : State) (core ctx : Nat) (pc : Word) (check : Bool) : Fetched :=
  if !okPc pc then .bad .badTarget 1 pc else
  match s.fetchLine core ctx pc with
  | .error (.fault c n o) => .bad c n o
  | .error t => .trap t
  | .ok (line, p) =>
    let lw := lineWordOf line
    let slot := slotOf pc
    let w := lineSlot line slot
    if check && !lw.getLsbD (22 + slot) then .bad .badTarget 0 pc
    else if oddOnes w != lw.getLsbD (27 + slot) then .bad .fetchPar 0 (lw.zeroExtend 64)
    else if lw.extractLsb' 16 2 != 0 then .bad .illegal 0 (lw.zeroExtend 64)
    else match decode w with
      | .ok i => .ok i w lw p line
      | .error _ => .bad .illegal 0 (w.extractLsb' 32 64)

/-! Streams. -/

/-- Clocks that a follower runs behind its leader (R207, R214). -/
def State.behind (s : State) (core leader : Nat) : Nat := (s.core core).skew - (s.core leader).skew

/-- The cores that follow a core's stream. -/
def State.followers (s : State) (core : Nat) : List Nat :=
  match s.gangOf core with
  | some g => g.cores.filter (fun n => s.leader n == some core)
  | none => []

/-- The opcode of an instruction with a word. -/
def opcodeOf (i : Instr) : Option Nat := (encode i).map (fun w => (wOpc w).toNat)

/-- The register numbers that an instruction's fields name, and those of the tile whose TSHP it reads or writes. -/
def namesOf : Instr → List (BitVec 8)
  | .mfc f | .mtc f =>
    let n := f.imm.toNat
    if 0x010 ≤ n && n < 0x018 then [f.d, f.a, BitVec.ofNat 8 (96 + n - 0x010)] else [f.d, f.a]
  | i => match encode i with
    | none => []
    | some w =>
      let opc := (wOpc w).toNat
      let d := w.extractLsb' 72 8
      let a := w.extractLsb' 64 8
      let b := w.extractLsb' 56 8
      let c := w.extractLsb' 48 8
      if 0x100 ≤ opc && opc < 0x118 || 0x11A ≤ opc && opc ≤ 0x11D || opc == 0x162 || opc == 0x163 then [d, a, b]
      else if opc == 0x042 || opc == 0x043 || opc == 0x045 then [d, b]
      else [d, a, b, c]

/-- A sequencer macro-operation (R145). -/
def isMacro (i : Instr) : Bool :=
  match opcodeOf i with
  | some o => o == 0x164 || o == 0x165 || 0x167 ≤ o && o ≤ 0x16F || o == 0x172
  | none => false

/-- Issue class X (Table 3-7). -/
def isSerial (i : Instr) : Bool :=
  match opcodeOf i with
  | some o => [0x03D, 0x046, 0x048, 0x049, 0x04A, 0x04B, 0x04C, 0x118, 0x119, 0x166, 0x1CA, 0x1CD, 0x1E9].contains o
              || 0x1C4 ≤ o && o ≤ 0x1C9
  | none => false

/-- An instruction takes the sequencer or a register of the macro-operation that the sequencer holds (R146). -/
def Core.usesSequencer (c : Core) (i : Instr) : Bool :=
  let busy := match c.seq.instr with
    | some m => (namesOf m).filter (fun r : BitVec 8 => decide (r.toNat ≥ 64))
    | none => []
  isMacro i || isSerial i || (namesOf i).any (fun r => busy.contains r)

/-- An instruction of a context waits for the replies on their way to a register it names, and for that of an atomic (R133);
one of class X, and a HEND, for every reply (R85, R208, Table 8-1). -/
def Context.awaits (x : Context) (i : Instr) : Bool :=
  let names := namesOf i
  !x.replies.isEmpty && (isSerial i || x.replies.any Reply.isAtomic || opcodeOf i == some 0x1C1 ||
    x.replies.any (fun r => r.reg?.any (fun n => n != 0 && names.contains n)))

/-- An instruction of the control context that must wait at issue: for the sequencer or a register that it uses
(R146), for a pending gather (R181) or capture (R173) of a register it names, for a reply. -/
def Core.heldBack (c : Core) (i : Instr) : Bool :=
  let names := namesOf i
  (c.seq.busy && c.usesSequencer i) || names.any (fun r => c.gathers.contains r) ||
  names.any (fun r => r != 0 && c.captures.any (fun k => k.reg == r)) || (c.ctx 0).awaits i

/-! What withholds a stream (R208, R209). -/

/-- A condition of a core concerns an instruction: a wait and a barrier hold every later one, a register those that name
it and those of class X, a join those that use the sequencer. -/
def Cond.concerns (c : Core) (i : Instr) (k : Cond) : Bool :=
  match k.key with
  | .wait => true
  | .barrier => true
  | .reg r => isSerial i || r != 0 && (namesOf i).contains r
  | .join => c.usesSequencer i

/-- An instruction that may wait under Table 8-1 or under R92, R139 and R290. -/
def mayWait (i : Instr) : Bool :=
  match opcodeOf i with
  | some o => [0x048, 0x11B, 0x1C2, 0x1C5, 0x1D6, 0x1D8, 0x1D9, 0x1DE, 0x1DF, 0x1E0, 0x1E1, 0x1E2, 0x1E3, 0x1E7, 0x1E8, 0x1E9].contains o
  | none => false

/-- The addressing mode of a memory instruction (format M). -/
def modeOf (i : Instr) : Option Nat :=
  match encode i with
  | some w =>
    let opc := (wOpc w).toNat
    if 0x100 ≤ opc && opc < 0x118 || 0x11A ≤ opc && opc ≤ 0x11D || opc == 0x162 || opc == 0x163 then
      some (w.extractLsb' 53 3).toNat
    else none
  | none => none

/-- The guard of an instruction is true as the predicate registers of a core's control context stand. -/
def Core.guardTrue (c : Core) (i : Instr) : Bool :=
  match encode i with
  | none => true
  | some w => (c.ctx 0).pred (w.extractLsb' 83 3).toNat != w.getLsbD 82

/-- The guard of an instruction is false in a core, and nothing that the core has still to issue names it (R208). -/
def Core.guardedOff (c : Core) (ahead : List StreamItem) (i : Instr) : Bool :=
  match encode i with
  | none => false
  | some w =>
    !c.guardTrue i && !ahead.any (fun k => (namesOf k.instr).contains (BitVec.ofNat 8 (48 + (w.extractLsb' 83 3).toNat)))

/-- The items that a core has still to issue of the stream of a fetching core. -/
def State.ahead (s : State) (n lead : Nat) : List StreamItem :=
  if n = lead then [] else (s.core lead).stream.drop (s.core n).spos

/-- The clocks for which an instruction rests its context after its issue (R94, R95, Table 4-8). -/
def Core.restAfter (c : Core) (i : Instr) : Nat :=
  match i with
  | .yield f => max 1 (f.imm.toNat % 65536)
  | .mtc _ => 3
  | .fenceI _ => if c.mode == .attached && c.vx != 0 then 0 else 12
  | _ => 0

/-- The steps of a macro-operation that is no product, by the shapes of a core as they stand (R155, Table 7-3). -/
def Core.macroRows (c : Core) (i : Instr) : Nat :=
  match encode i with
  | none => 0
  | some w =>
    let opc := (wOpc w).toNat
    (c.shape (if opc == 0x16E || opc == 0x16F then w.extractLsb' 64 8 else w.extractLsb' 72 8)).rows

/-- An instruction waits at issue for a macro-operation issued before it (R146). -/
def takesAfter (m i : Instr) : Bool :=
  isMacro i || isSerial i || (namesOf i).any (fun r => decide (r.toNat ≥ 64) && (namesOf m).contains r)

/-- An instruction depends on the reply of an earlier one to its destination (R85, R208). -/
def dependsOn (k i : Instr) : Bool :=
  isSerial i || (namesOf k).headD 0 != 0 && (namesOf i).contains ((namesOf k).headD 0)

/-- Gives the turn to a context. -/
def State.turnTo (s : State) (core : Nat) (ctx : Fin 12) (fw : Option Forward) : State :=
  { s with cur := { core := core, ctx := ctx, forwarded := fw, args := { core := core, ctx := ctx } } }

/-- A load or store, which the control context of a core executes as its registers stand: what it comes to. -/
def State.tryAccess (s : State) (i : Instr) : Option Out :=
  match i with
  | .ld f => some (execLd f s)
  | .st f => some (execSt f s)
  | .ldk f => some (execLdk f s)
  | .stk f => some (execStk f s)
  | .lda f => some (execLda f s)
  | .strl f => some (execStrl f s)
  | .ldv f => some (execLdv f s)
  | .stv f => some (execStv f s)
  | .ldvs f => some (execLdvs f s)
  | .stvs f => some (execStvs f s)
  | .ldvx f => some (execLdvx f s)
  | .stvx f => some (execStvx f s)
  | .ldsec f => some (execLdsec f s)
  | .stsec f => some (execStsec f s)
  | .pref f => some (execPref f s)
  | .cmoClean f => some (execCmoClean f s)
  | .cmoInval f => some (execCmoInval f s)
  | .cmoFlush f => some (execCmoFlush f s)
  | .cmoZero f => some (execCmoZero f s)
  | .tld f => some (execTld f s)
  | .tst f => some (execTst f s)
  | _ => none

/-- A memory access that a core has still to issue may wait: for its page, a watermark, an engine or a wave. Told by what it
would come to now, unless an earlier instruction that is still to issue names a register of it. -/
def State.accessWaits (s : State) (n : Nat) (before : List StreamItem) (i : Instr) : Bool :=
  let names := namesOf i
  if before.any (fun k => (namesOf k.instr).any (fun r => r != 0 && names.contains r)) then true
  else match (s.turnTo n 0 none).tryAccess i with
    | some (.next t) => ((t.core n).ctx 0).wait.isSome
    | _ => true

/-- The arrivals at the scope of a barrier instruction that is still to issue: the instruction waits for an earlier one that
is pending, or is a BARW (R171). -/
def Core.barrierWaits (c : Core) (before : List StreamItem) (i : Instr) : Bool :=
  let pending (sub : BitVec 8) : Bool :=
    let scope : BitVec 3 := sub.extractLsb' 0 3
    (c.bars.getD (scope.toNat - 1) {}).pending || before.any (fun k => match k.instr with
      | .bara f => (f.sub.extractLsb' 0 3 : BitVec 3) == scope
      | _ => false)
  match i with
  | .barw _ => true
  | .bara f => pending f.sub
  | .barq f => pending f.sub
  | _ => false

/-- An instruction that a core has still to issue keeps a later one from issuing there at its distance from the fetching core
(R208): it may wait, it rests the core, the later one depends on its reply or capture, or takes the sequencer after it. -/
def State.holdsItem (s : State) (n : Nat) (before : List StreamItem) (k : StreamItem) (i : Instr) : Bool :=
  let c := s.core n
  let o := (opcodeOf k.instr).getD 0
  if c.guardedOff before k.instr then false
  else
    mayWait k.instr || c.barrierWaits before k.instr || decide (s.clk < k.clk + c.restAfter k.instr) ||
    (isMacro k.instr && takesAfter k.instr i && (o == 0x167 || o == 0x168 || decide (s.clk < k.clk + c.macroRows k.instr))) ||
    (match k.instr with
      | .xmux f => decide (s.clk ≤ k.clk + f.flg.toNat) && f.d != 0 && (namesOf i).contains f.d
      | .gather _ => dependsOn k.instr i || c.wm.toList.any (·.arm)
      | _ => false) ||
    match modeOf k.instr with
    | none => false
    | some am =>
      let loads := o % 2 == 0 && o != 0x10C && o != 0x11A || decide (0x10D ≤ o && o < 0x118)
      (0x10D ≤ o && o < 0x118) || (arbitrated am && loads && dependsOn k.instr i) ||
      ((am == 0 || am == 6 || c.wm.toList.any (·.arm)) && s.accessWaits n before k.instr)

/-- A control context waits for firmware's reply, or has a SYSC still to issue: it and its stream issue nothing more until
the reply, whatever the guard of the instruction (R92, R353). -/
def State.callsOut (s : State) (n : Nat) (ahead : List StreamItem) : Bool :=
  ((s.core n).ctx 0).wait.any (fun w => decide (w.kind = .sysc)) ||
  ahead.zipIdx.any (fun k => opcodeOf k.1.instr == some 0x048 && !(s.core n).guardedOff (ahead.take k.2) k.1.instr)

/-- A core that is parked, stopped or halted counts as able to issue (R208). -/
def Core.outOfStream (c : Core) : Bool := c.parked || (c.ctx 0).stop.isSome || (c.ctx 0).halted

/-- A core counts as able to issue whatever its conditions say: out of the stream, or guarded off (R208). -/
def State.countsAble (s : State) (n lead : Nat) (i : Instr) : Bool :=
  (s.core n).outOfStream || (s.core n).guardedOff (s.ahead n lead) i && !s.callsOut n (s.ahead n lead)

/-- A core of a stream withholds an instruction: by a system call, by what it has still to issue, by a condition not yet
reported, by its rest, by a capture that comes too late for it, or by a macro-operation that runs past its turn there. -/
def State.withholds (s : State) (lead n : Nat) (i : Instr) : Bool :=
  let c := s.core n
  let ahead := s.ahead n lead
  let lag := s.behind n lead
  if c.outOfStream then false
  else s.callsOut n ahead || (!c.guardedOff ahead i &&
    (ahead.zipIdx.any (fun k => s.holdsItem n (ahead.take k.2) k.1 i) || c.conds.any (·.concerns c i) ||
     decide ((c.ctx 0).notBefore > s.clk + lag) ||
     c.captures.any (fun k => k.reg != 0 && (namesOf i).contains k.reg && decide (k.phaseClk ≥ s.phaseClock n + lag)) ||
     c.seq.busy && c.usesSequencer i && decide (c.seq.total - c.seq.step > lag)))

/-- A fetching core may not issue an instruction yet (R208). -/
def State.withheld (s : State) (core : Nat) (i : Instr) : Bool :=
  (core :: s.followers core).any (fun n => s.withholds core n i)

/-- The unmet conditions for which an instruction is withheld begin to count toward WAITTH, in a core none of whose
instructions waits already (R209). -/
def Core.countConds (c : Core) (clk : Nat) (i : Instr) : Core :=
  if (c.ctx 0).wait.isSome then c
  else { c with conds := c.conds.map (fun k =>
    if k.met.isNone && k.since.isNone && k.concerns c i then { k with since := some (clk, c.waitth.toNat) } else k) }

/-- Begins those counts in every core of a stream. -/
def State.countWithheld (s : State) (core : Nat) (i : Instr) : State :=
  (core :: s.followers core).foldl (fun s n =>
    if s.countsAble n core i then s else s.modCore n (·.countConds s.clk i)) s

/-- A withholding for a core has exceeded the WAITTH with which it began (R209). -/
def State.overdue (s : State) (core : Nat) : Bool :=
  (s.core core).conds.any (fun k => k.met.isNone && k.since.any (fun e => decide (s.waited core e.1 > e.2)))

/-! The block checker's feed (R367, R368). -/

/-- One byte into the CRC-16 of R367. -/
def crcByte (crc : BitVec 16) (b : Byte) : BitVec 16 :=
  (List.range 8).foldl (fun c _ => if c.getLsbD 15 then (c <<< 1) ^^^ 0x1021 else c <<< 1)
    (crc ^^^ (b.zeroExtend 16 <<< 8))

/-- The six bytes of a slot (R367). -/
def signatureBytes (w : IWord) : List Byte :=
  [0#6 ++ w.extractLsb' 94 2, w.extractLsb' 86 8, w.extractLsb' 72 8, w.extractLsb' 64 8, w.extractLsb' 56 8,
   w.extractLsb' 48 8]

/-- The .sig entry of a block that begins in the line at a PC, read through the window that maps the line (R368). -/
def State.sigEntry (s : State) (core : Nat) (pc : Word) (ix : BitVec 16) : Option (BitVec 16) :=
  let c := s.core core
  match windowHit pc c.windows with
  | none => none
  | some ((_, _, i), _) =>
    let ia := (i.extractLsb' 16 40).toNat * 65536 + 2 ^ 56 - 0x20000 + 2 * ix.toNat
    match s.translate core 0 c.part.toNat (ia % 2 ^ 56) { r := true } 0 false with
    | .error _ => none
    | .ok p => if (s.uceAt p).isSome then none else some (BitVec.ofNat 16 (s.mem.readNat p.loc 2))

/-- Whether the slot after a PC carries TGT; none when the line word that says so cannot be read (R368). -/
def State.nextIsTarget (s : State) (core : Nat) (pc : Word) (lw : BitVec 32) : Option Bool :=
  if slotOf pc < 4 then some (lw.getLsbD (23 + slotOf pc))
  else match s.fetchLine core 0 (nextPc pc) with
    | .ok (line, _) => some ((lineWordOf line).getLsbD 22)
    | .error _ => none

/-- The checker takes a slot that its control context issues: a block begins at a slot with TGT, its bytes are fed,
and its last slot ends it once it has retired; a slot after which nothing can be told, or a transfer out of the block, leaves it
unchecked. -/
def Core.feed (c : Core) (w : IWord) (pc : Word) (lw : BitVec 32) (sig : Option (BitVec 16)) (last : Option Bool)
    (left : Bool) : Core :=
  let k := c.checker
  let k := if lw.getLsbD (22 + slotOf pc) then
      { k with active := c.sigEn, crc := 0xFFFF, sigix := lw.extractLsb' 0 16, expected := sig, firstPc := pc }
    else k
  if !k.active || !c.sigEn then { c with checker := { k with active := false } }
  else
    let crc := (signatureBytes w).foldl crcByte k.crc
    match last with
    | some true =>
      let n := k.sigix + 1
      let crc := crcByte (crcByte crc (n.extractLsb' 8 8)) (n.extractLsb' 0 8)
      { c with checker := { k with active := false, closing := true,
                                   ended := k.ended ++ [(k.sigix, crc, k.expected, k.firstPc)] } }
    | some false => { c with checker := { k with crc := crc, active := !left } }
    | none => { c with checker := { k with active := false } }

/-! Issue. -/

/-- A context that can act: its core holds a running gang that no fault has ended, it is live, neither stopped nor
halted, its clock has come, its core is not parked and not held (R37, R242, R380). A follower goes on to the end of what
has been forwarded to it when its gang stops or a fault ends it (R59, R212). -/
def State.mayIssue (s : State) (core ctx : Nat) : Bool :=
  let c := s.core core
  let x := c.ctx ctx
  let behind := ctx == 0 && match s.leader core with
    | some l => decide (c.spos < (s.core l).stream.length)
    | none => false
  let running := match s.gangOf core with
    | some g => g.state == .running && (g.fate.isNone || g.fate == some 1 && behind) &&
        (g.rollback.isEmpty && !g.stopping || behind && !g.rollback.contains core)
    | none => false
  !s.service.stopped && !s.service.fatal && running && x.live && !x.halted && x.stop.isNone &&
  x.notBefore ≤ s.clk && !c.parked && !(ctx == 0 && s.isPaused core)

/-- What a context does on its turn. -/
inductive Prepared where
  /-- nothing to execute; the state as it stands -/
  | idle (s : State)
  /-- an instruction or a fetch fault to execute -/
  | run (i : Instr) (s : State)
  /-- a fault in place of an instruction: the state it issues in, and the state with the fault -/
  | raised (i : Instr) (s u : State)

/-- An instruction that may not stand after a GISSUE (R152). -/
def breaksGissue (x : Context) (i : Instr) : Bool :=
  x.afterGissue && match i with
    | .tmma _ | .tmmal _ => false
    | _ => true

/-- The register that names the cell of an access in AM 6 or of a CELL.GET, and the view. -/
def cellOf (i : Instr) : Option (BitVec 8 × BitVec 2) :=
  match i with
  | .cellGet f => some (f.a, f.var)
  | _ => if modeOf i == some 6 then (encode i).map (fun w => (w.extractLsb' 64 8, w.extractLsb' 44 2)) else none

/-- The v and t registers that an instruction reads: D among them of a store, an accumulation and a write of a part. -/
def vectorSources (i : Instr) : List (BitVec 8) :=
  match opcodeOf i with
  | none => []
  | some opc =>
    let vector := 0x080 ≤ opc && opc < 0x0C0 || 0x102 ≤ opc && opc < 0x108 || 0x160 ≤ opc && opc < 0x173 || opc == 0x1DB
    let readsD := [0x103, 0x105, 0x107, 0x163, 0x167, 0x168, 0x169].contains opc
    if !vector then []
    else (if readsD then namesOf i else (namesOf i).drop 1).filter (fun r => decide (64 ≤ r.toNat) && decide (r.toNat < 104))

/-- The code of the error that an instruction of the control context of a core consumes in a v or t register (R360, source 5 of
Table 24-3), when its guard is true. -/
def State.badSource (s : State) (core : Nat) (i : Instr) : Option Nat :=
  if s.bad.isEmpty || !(s.core core).guardTrue i then none
  else (vectorSources i).findSome? (fun r => (Table.find s.bad (Config.regLoc core r.toNat)).map (fun e => if e.1 then 11 else 10))

/-- An instruction writes its destination anew: an error mark there goes (R360). -/
def State.rewritten (t : State) (core : Nat) (i : Instr) : State :=
  if t.bad.isEmpty || [0x103, 0x105, 0x107, 0x163].contains ((opcodeOf i).getD 0) then t
  else { t with bad := Table.erase t.bad (Config.regLoc core ((namesOf i).headD 0).toNat) }

/-- The instruction of the context whose turn it is issues for the first time: its clock, the windows in force for it, and the
buffer that a read in AM 6 selects stay with it while it waits (R27, R222, R296). -/
def State.begin_ (s : State) (i : Option Instr) : State :=
  if s.my.wait.isSome then s
  else
    let ws := s.me.seenWindows s.clk s.cur.ctx.val
    let sel := (i.bind cellOf).bind (fun k =>
      (s.part s.me.part.toNat).selects (s.formulaOf s.cur.core) (s.sa k.1).toNat k.2)
    s.modMy (fun x => { x with began := s.clk, held := ws, cellSel := sel })

/-- A fetch that waits for its page: the windows of its first attempt stay with it (R27), and it is no issue of the
instruction; the wait of an instruction that has issued goes on. -/
def State.fetchWait (s : State) (t : Trap) : Option State :=
  let x := s.my
  match (s.begin_ none).settle t with
  | .next s' => some (s'.modMy (fun y => { y with issued := x.issued, wait := if x.issued then x.wait.or y.wait else y.wait }))
  | _ => none

/-- The wait of a fetch is over. -/
def State.fetched (s : State) : State :=
  if s.my.wait.isSome && !s.my.issued then s.modMy (fun x => { x with wait := none }) else s

/-- An instruction that has an effect whatever its own guard is: a gang-issued product and its GISSUE (R152), and one that
takes effect by its header's guard (R93, R170). -/
def ignoresGuard (i : Instr) : Bool :=
  match opcodeOf i with
  | some o => [0x04A, 0x166, 0x167, 0x168, 0x1C6].contains o
  | none => true

/-- A follower that has fallen behind passes over the instructions that it executes guarded off, since it counts as able to
issue them whatever its conditions say (R208); the checker takes their slots. -/
def State.passOver (s : State) (core leader : Nat) : Nat → State
  | 0 => s
  | n + 1 =>
    let c := s.core core
    match (s.core leader).stream[c.spos]? with
    | none => s
    | some item =>
      if item.clk + s.behind core leader < s.clk && !ignoresGuard item.instr && !c.guardTrue item.instr &&
          (c.ctx 0).wait.isNone && !(item.again && !c.redo) then
        ((s.modCore core (fun c =>
          { c.feed item.word item.pc item.lineWord item.sig item.last (item.taken || item.next != nextPc item.pc) with
            spos := c.spos + 1 })).modCore core (fun c => { c with checker := { c.checker with closing := false } })).passOver
              core leader n
      else s

/-- An instruction of a control context is ready, unless it reads a register that is in error (R360). -/
def State.prepared (s : State) (core : Nat) (i : Instr) : Prepared :=
  match s.badSource core i with
  | some code => .raised i s (s.raise .uce code 0)
  | none => .run i s

/-- Prepares an instruction that a follower takes from its leader's stream: it issues in the clock of its fetching core's
issue and the distance between them (R207). A reissue of an instruction that it has executed is not executed again
(log 49). While the fetching core is parked or stopped nothing is forwarded; the follower idles, and that counts toward neither
WAITTH nor BTO: R217 says so for these cores, where R216 says that a bond follower's wait counts toward WAITTH (DEDUCED,
log 49). -/
def State.prepareFollower (s : State) (core leader : Nat) : Prepared :=
  let c := s.core core
  match (s.core leader).stream[c.spos]? with
  | none => .idle s
  | some item =>
    if s.clk < item.clk + s.behind core leader || c.heldBack item.instr then .idle s
    else if item.again && !c.redo then .idle (s.modCore core (fun c => { c with spos := c.spos + 1 }))
    else
      let s := s.turnTo core 0 (some { next := item.next, taken := item.taken, guard := item.guard })
      let s := (s.modMy (fun x => { x with pc := item.pc })).begin_ (some item.instr)
      if breaksGissue s.my item.instr then .raised item.instr s (s.raise .illegal 0 (item.word.extractLsb' 32 64))
      else
        let s := if s.my.issued then s else s.modMe (fun c =>
          c.feed item.word item.pc item.lineWord item.sig item.last (item.taken || item.next != nextPc item.pc))
        s.prepared core item.instr

/-- Prepares the instruction that a context fetches for itself. -/
def State.prepareFetch (s : State) (core : Nat) (ctx : Fin 12) : Prepared :=
  let s := s.turnTo core ctx none
  let x := s.my
  match s.fetch core ctx.val x.pc x.entryCheck with
    | .bad _ _ _ => .run .fetchFault s
    | .trap t => match s.fetchWait t with
      | some s' => .idle s'
      | none => .run .fetchFault s
    | .ok i w lw p line =>
      let s := s.fetched
      if ctx.val ≠ 0 && x.awaits i then .idle s
      else if ctx.val == 0 && ((s.core core).heldBack i || !x.issued && s.withheld core i) then
        .idle (if x.issued then s else s.countWithheld core i)
      else
        let s := if ctx.val == 11 && s.my.wait.isNone then s.nonRestartable core 4 else s
        let s := ((s.keepLine core p line).modMy (fun x => { x with entryCheck := false })).begin_ (some i)
        if breaksGissue x i then .raised i s (s.raise .illegal 0 (w.extractLsb' 32 64))
        else if ctx.val == 0 then
          let sig := if lw.getLsbD (22 + slotOf x.pc) then s.sigEntry core x.pc (lw.extractLsb' 0 16) else none
          let s := if x.issued then s
            else s.modMe (fun c => c.feed w x.pc lw sig (s.nextIsTarget core x.pc lw) (s.decides i).isSome)
          s.prepared core i
        else .run i s

/-- A follower has executed the whole stream of a bond header that has rejoined (R216). -/
def State.drained (s : State) (core leader : Nat) : Bool :=
  (s.core core).mode == .follower leader && (s.core leader).mode != .bondHeader &&
  decide ((s.core leader).stream.length ≤ (s.core core).spos)

/-- What a control context that follows a stream does on its turn: a drained follower becomes a header itself (R216). -/
def State.prepareStream (s : State) (core leader : Nat) : Prepared :=
  let s := s.passOver core leader (s.core leader).stream.length
  if s.drained core leader then
    let s := s.releaseFollower core leader
    if s.clk < ((s.core core).ctx 0).notBefore then .idle s else s.prepareFetch core 0
  else s.prepareFollower core leader

/-- The address for which the host has declined a page that a context waits for, its fault still to come (R71, R331). -/
def State.declinedAt (s : State) (core ctx : Nat) : Option Nat :=
  match ((s.core core).ctx ctx).wait with
  | some w => match w.kind with
    | .declined ia => some ia
    | _ => none
  | none => none

/-- What a context does on its turn: nothing, the fault of a page that the host has declined, or the instruction it
executes. -/
def State.prepare (s : State) (core : Nat) (ctx : Fin 12) : Prepared :=
  if !s.mayIssue core ctx.val then .idle s
  else match s.declinedAt core ctx.val with
  | some ia => .idle (if s.unfinished core ctx.val then s else s.declinedFault core ctx.val ia)
  | none =>
  if ctx.val == 0 then
    match s.leader core with
    | some l => s.prepareStream core l
    | none => s.prepareFetch core ctx
  else s.prepareFetch core ctx

/-- A fault of an instruction is not delivered yet (R71, R146): an earlier instruction of its context has not completed,
a macro-operation, a gather or a load. The instruction has no effect, and meets its fault again. `before` is the state it
executed in. -/
def State.deferred (t before : State) : Bool :=
  t.records != before.records && before.unfinished before.cur.core before.cur.ctx.val

/-- What a control context has pending after an instruction of a stream, to be reported once it is met (R208). An instruction
that may wait and completes at once is such a condition too, met at its issue: the rule does not say (DESIGN CHOICE, log
54). -/
def State.noteConds (t before : State) (i : Instr) : State :=
  let core := before.cur.core
  if (t.core core).mode != (before.core core).mode then t
  else
    let x := (t.core core).ctx 0
    let passed := mayWait i && (before.core core).guardTrue i && x.wait.isNone && x.stop.isNone
    let c := (t.core core).noteConds t.clk passed
    if c.conds.isEmpty then t else t.modCore core (fun _ => c)

/-- The last slot of a block has retired, so that the block is compared (R368). -/
def State.closeBlock (t : State) (core : Nat) : State :=
  let x := (t.core core).ctx 0
  if (t.core core).checker.closing && x.wait.isNone && x.stop.isNone && !(t.gangOf core).any (·.rollback.contains core) then
    t.modCore core (fun c => { c with checker := { c.checker with closing := false } })
  else t

/-- After an instruction: a follower moves on in the stream once the instruction no longer waits, and a fetching
control context forwards what it has issued for the first time, unless it was ILLEGAL (R59, R206). An instruction that a
TRET 00 reissues is forwarded again, marked as such, and those that have executed it skip it (R91; DESIGN CHOICE, log 49).
`before` is the state it executed in. -/
def State.finish (t before : State) (i : Instr) : State :=
  let core := before.cur.core
  if before.cur.ctx.val != 0 || (opcodeOf i).isNone then t
  else
    let x := (t.core core).ctx 0
    let t := if x.wait.isNone && x.stop.isNone && (before.core core).guardTrue i then t.rewritten core i else t
    let t := (t.noteConds before i).closeBlock core
    match before.cur.forwarded with
    | some _ => if ((t.core core).ctx 0).wait.isSome || ((t.core core).ctx 0).stop.isSome ||
                    (t.core core).mode != (before.core core).mode then t
                else t.modCore core (fun c => { c with spos := c.spos + 1, redo := false })
    | none =>
      let gone := match ((t.core core).ctx 0).stop with
        | some st => st.cls == .illegal
        | none => false
      let feeds := match before.gangOf core with
        | some g => !(before.followers core).isEmpty || g.origin == core && g.cores.length > 1
        | none => false
      if before.my.issued || gone || !feeds then t
      else
        let pc := before.my.pc
        let w := (encode i).getD 0
        let line := match before.fetchLine core 0 pc with
          | .ok (l, _) => lineWordOf l
          | .error _ => 0
        let o := before.decides i
        let item : StreamItem :=
          { pc := pc, instr := i, next := o.getD (nextPc pc), taken := o.isSome, guard := (match i with
              | .halt f => before.guard f.g f.gn
              | .gmerge f => before.guard f.g f.gn
              | _ => true), clk := before.clk, word := w, lineWord := line,
            last := before.nextIsTarget core pc line,
            sig := if line.getLsbD (22 + slotOf pc) then before.sigEntry core pc (line.extractLsb' 0 16) else none,
            again := before.me.again }
        t.modCore core (fun c =>
          { c with stream := c.stream ++ [item], again := false }.modCtx 0 (fun x => { x with issued := x.issued || x.stop.isSome }))

end Sys2Proof.Machine
end

