-- ==== Sys2Proof/Machine/Barriers.lean ====
section
/-! DEFINITION. Barriers and their time-outs (R171, R172, R362) and the exchange phase (R173, R233 to R242). -/

namespace Sys2Proof.Machine

/-! Who takes part (R171, R274). -/

/-- GROUP of a launch (Table 16-4). -/
def Launch.group (l : Launch) : BitVec 16 := (l.packet.getD 0 0).extractLsb' 32 16

/-- A gang into a list in rising order of GANGID. -/
def insertGang (g : Gang) : List Gang → List Gang
  | [] => [g]
  | h :: hs => if g.gid.toNat < h.gid.toNat then g :: h :: hs else h :: insertGang g hs

/-- The gangs of the launch group of a gang in this package, in rising order of GANGID (R274). -/
def State.groupOf (s : State) (g : Gang) : List Gang :=
  match g.launch with
  | none => [g]
  | some l =>
    if l.group = 0 then [g]
    else (s.gangs.filter (fun h => h.part == g.part && h.launch.any (fun k => k.group == l.group))).foldl
      (fun gs h => insertGang h gs) []

/-- The gangs that a barrier of a scope joins: the whole group at .die, .pkg and .pod, else the core's own. -/
def State.barrierGangs (s : State) (core : Nat) (scope : BitVec 3) : List Gang :=
  match s.gangOf core with
  | none => []
  | some g => if scope.toNat ≥ 4 then s.groupOf g else [g]

/-- The participants of a barrier, in the order of R172. -/
def State.participants (s : State) (core : Nat) (scope : BitVec 3) : List Nat :=
  let c := s.core core
  let near (w h : Nat) (n : Nat) : Bool :=
    (s.core n).vx.toNat / w == c.vx.toNat / w && (s.core n).vy.toNat / h == c.vy.toNat / h
  let all := (s.barrierGangs core scope).flatMap (·.cores)
  if scope = 1 then all.filter (near 2 2) else if scope = 2 then all.filter (near 8 4) else all

/-- The arrivals of a core at a scope. -/
def Core.bar (c : Core) (scope : BitVec 3) : Barrier := c.bars.getD (scope.toNat - 1) {}

/-- Changes the arrivals of a core at a scope. -/
def Core.modBar (c : Core) (scope : BitVec 3) (f : Barrier → Barrier) : Core :=
  { c with bars := c.bars.setIfInBounds (scope.toNat - 1) (f (c.bar scope)) }

/-- A core has arrived at the barrier of a scope: by its instruction, or because its control context has halted (R171). -/
def Core.arrived (c : Core) (scope : BitVec 3) : Bool := (c.bar scope).pending || (c.ctx 0).halted

/-- The barrier of a scope that a core takes part in can complete: every participant has arrived, under one number. -/
def State.barrierDue (s : State) (core : Nat) (scope : BitVec 3) : Bool :=
  let ps := s.participants core scope
  let ns := (ps.filter (fun n => ((s.core n).bar scope).pending)).map (fun n => ((s.core n).bar scope).number)
  (s.barrierGangs core scope).all (·.state == .running) && ps.all (fun n => (s.core n).arrived scope) &&
  match ns with
  | [] => false
  | k :: ks => ks.all (· == k)

/-! The barrier instructions. -/

/-- XPHASE, with the entry in force and the wire (R235). -/
def State.xphase (s : State) (entry : BitVec 16) (wire : BitVec 10) : Out :=
  .next (s.raise .xPhase 0 (0#38 ++ wire ++ entry))

/-- A barrier instruction: control only (R15), and XPHASE in an open phase (R173). -/
def barrierOp (opc : BitVec 10) (f : FE) (s : State) (k : State → Out) : Out :=
  controlOnly (f.word opc) f.g f.gn s (fun s =>
    if s.me.phase = .openPhase then s.xphase s.me.phaseEntry 0 else k s)

/-- The arrival of the core at a scope, a release (R172, R316). -/
def State.arriveAt (s : State) (f : FE) : State :=
  (s.release s.cur.core).modMe (fun c => c.modBar f.scope (fun b =>
    { b with count := b.count + 1, pending := true, number := f.imm.extractLsb' 0 8, at_ := s.clk }))

/-- An arrival of the core is pending at a scope. -/
def State.isPending (s : State) (f : FE) : Bool := (s.me.bar f.scope).pending

/-- The instruction already waits for the barrier at which it arrived. -/
def State.waitsDone (s : State) (f : FE) : Bool :=
  match s.my.wait with
  | some w => decide (w.kind = .barDone f.scope none)
  | none => false

/-- BARW (R171). -/
def execBarw (f : FE) (s : State) : Out :=
  barrierOp 0x1C7 f s (fun s =>
    if s.waitsDone f then
      if s.isPending f then .next (s.waitBto (.barDone f.scope none)) else .next s.advance
    else if s.isPending f then .next (s.waitBto (.barArrive f.scope))
    else .next ((s.arriveAt f).waitBto (.barDone f.scope none)))

/-- BARA (R171). -/
def execBara (f : FE) (s : State) : Out :=
  barrierOp 0x1C8 f s (fun s =>
    if s.isPending f then .next (s.waitBto (.barArrive f.scope)) else .next (s.arriveAt f).advance)

/-- BARQ (R171). -/
def execBarq (f : FE) (s : State) : Out :=
  barrierOp 0x1C9 f s (fun s =>
    if s.isPending f then .next (s.waitBto (.barDone f.scope (some f.d))) else retireE s f 1)

/-- BARQ.TEST (R171). -/
def execBarqTest (f : FE) (s : State) : Out :=
  barrierOp 0x1C9 f s (fun s => retireE s f (if s.isPending f then 0 else 1))

/-! Completion (R172). -/

/-- Writes the log's header at the start of a superstep (R362): the restart PC and the control context's p, s and a
registers; COUNT, NR, WHY and RETRY are cleared and SSN advances, unless the barrier completes a rollback. A helper that
is live makes the new superstep non-restartable (R363). -/
def State.beginSuperstep (s : State) (core : Nat) (again : Bool) : State :=
  if !(s.core core).resil then s
  else
    let x := (s.core core).ctx 0
    let word (off : Nat) (v : Word) (m : Memory) : Memory :=
      m.writeBytes (Config.spLoc core off) (bytesOfNat 8 v.toNat)
    let m := s.mem
    let m := if again then m else
      word 0x1C008 (m.readWord (Config.spLoc core 0x1C008) + 1) (word 0x1C000 0 m)
    let m := word 0x1C018 ((x.p &&& 0xFE).zeroExtend 64) (word 0x1C010 x.pc m)
    let m := (List.range 31).foldl (fun m i => word (0x1C040 + 8 * i) (x.s.getD (i + 1) 0) m) m
    let m := (List.range 16).foldl (fun m i => word (0x1C138 + 8 * i) (x.a.getD i 0) m) m
    if again || (s.core core).hlive = 0 then { s with mem := m } else { s with mem := m }.nonRestartable core 4

/-- What completion of a barrier of .gang or wider does in a core: its channels are emptied (R115), a closed phase
returns to COMPUTE, and XPH is permitted (R233, R237). -/
def Core.afterBarrier (c : Core) (wide : Bool) : Core :=
  { c with chan := Vector.replicate 4 none, barSince := true, wideBarSince := c.wideBarSince || wide,
           phase := if c.phase = .closed then .compute else c.phase }

/-- The completion of a barrier in one participant: a BARW or BARQ that waits retires, and the core's next instruction
issues at C + 1 + x + y; memory is acquired. -/
def State.completeIn (s : State) (scope : BitVec 3) (core : Nat) : State :=
  let s := s.modCore core (·.modBar scope (fun b => { b with pending := false, raised := false }))
  let s := match ((s.core core).ctx 0).wait with
    | some w => match w.kind with
      | .barDone sc reg =>
        if sc = scope then
          ((s.modCtx core 0 (·.setSA (reg.getD 0) 1)).endWait core 0).modCtx core 0
            (fun x => { x with notBefore := s.clk + 1 + (s.core core).skew })
        else s
      | _ => s
    | none => s
  let s := s.acquire core true
  if scope.toNat ≥ 3 then
    (s.modCore core (·.afterBarrier (scope == 4 || scope == 5))).beginSuperstep core false
  else s

/-- A driving of a bridge wire may still be on its way to a gang of a partition and launch group: it takes at most 192 of the
phase clocks of that gang, and the skew (R237). -/
def State.abroad (s : State) (part : Nat) (group : BitVec 16) (d : Driving) : Bool :=
  d.wire.toNat ≥ 960 && s.gangs.any (fun h => h.part == part && h.launch.any (·.group == group) &&
    decide (s.phaseClock h.origin ≤ d.ref + 512))

/-- What a barrier of .gang or wider does in a gang; `wide` is one of .die or .pkg. While a core of it has a phase open, the
barrier joins arrivals made before the phase, and wires and HOLD go on; otherwise no wire of the gang keeps a value, but for
what is on its way to another gang, and HOLD is over (R236, R237, R242). -/
def Gang.afterBarrier (g : Gang) (clk : Nat) (isOpen wide : Bool) (away : Driving → Bool) : Gang :=
  let g := { g with barrierAt := clk, wideAt := if wide then clk else g.wideAt }
  if isOpen then g
  else { g with
    drivings := g.drivings.filter away, holders := [], holds := []
    pastHolds := g.pastHolds ++ g.holds.map (fun h => (h.1, h.2.getD clk)) }

/-- Some core of a gang has a phase open. A phase in which the core's control context has halted, which no event ends any
more, is not counted (DESIGN CHOICE, log 21). -/
def State.anyOpen (s : State) (g : Gang) : Bool :=
  g.cores.any (fun n => (s.core n).phase == .openPhase && !((s.core n).ctx 0).halted)

/-- A barrier of .gang or wider completes in a gang of `t`; phases, and what is on its way, are those of `s`, before any gang
changes. -/
def State.barrierIn (s : State) (wide : Bool) (t : State) (g : Gang) : State :=
  let group := (g.launch.map (·.group)).getD 0
  t.modGang g.gid (fun h =>
    h.afterBarrier s.clk (s.anyOpen g) wide (fun d => group != 0 && s.abroad g.part group d))

/-- The clocks from the last arrival to the completion of a barrier of a scope (Table 8-2). -/
def Gang.barrierClocks (g : Gang) (scope : BitVec 3) : Nat :=
  match scope.toNat with
  | 1 => 2
  | 2 => 3
  | 3 => g.span
  | 4 => 16
  | 5 => 60
  | _ => 1200

/-- The clock of the last arrival at a barrier: by an instruction, or by the end of a control context (R93). -/
def State.lastArrival (s : State) (core : Nat) (scope : BitVec 3) : Nat :=
  ((s.participants core scope).map (fun n =>
    let b := (s.core n).bar scope
    if b.pending then b.at_ else (s.core n).haltedAt)).foldl max 0

/-- The clock C of a barrier has come. -/
def State.barrierReached (s : State) (core : Nat) (scope : BitVec 3) : Bool :=
  match s.gangOf core with
  | none => false
  | some g => s.barrierDue core scope && decide (s.lastArrival core scope + g.barrierClocks scope ≤ s.clk)

/-- A channel entry that has arrived at one of some cores by a clock. -/
def Post.arrivedAt (clk : Nat) (cores : List Nat) : Post → Bool
  | .channel c _ arrive _ => cores.contains c && arrive ≤ clk
  | _ => false

/-- BARRIER_COMPLETION (R172): at clock C; a barrier of .gang or wider empties the channels (R115). -/
def execBarrierCompletion (s : State) : Out :=
  let core := s.cur.args.core
  let scope := BitVec.ofNat 3 s.cur.args.index
  if 1 ≤ scope.toNat && scope.toNat ≤ 6 && s.barrierReached core scope then
    let gangs := s.barrierGangs core scope
    let ps := s.participants core scope
    let s := ps.foldl (fun s n => s.completeIn scope n) s
    .next (if scope.toNat ≥ 3 then
        gangs.foldl (s.barrierIn (scope == 4 || scope == 5))
          { s with posts := s.posts.filter (fun p => !p.arrivedAt s.clk ps) }
      else s)
  else .next s

/-! Time-outs. -/

/-- A core waits in BARW or BARQ, or to arrive, at a scope (R172). -/
def Core.waitsAt (c : Core) (scope : BitVec 3) : Bool :=
  match (c.ctx 0).wait with
  | some w => match w.kind with
    | .barArrive sc => sc == scope
    | .barDone sc _ => sc == scope
    | _ => false
  | none => false

/-- The participants of a barrier in the order of R172, each with its core's state: of a gang that is saved, that of its saved
cores, whatever the cores hold that it ran on (R347). -/
def State.members (s : State) (core : Nat) (scope : BitVec 3) : List Core :=
  if scope.toNat < 4 then (s.participants core scope).map s.core
  else (s.barrierGangs core scope).flatMap (fun g => if g.state == .saved then g.saves else g.cores.map s.core)

/-- FLTREC2 of a BARTIMEOUT of a barrier (R172). When all have arrived, and only the clock of completion has not come, the
fields read as where all that are absent lie in another package (DESIGN CHOICE, log 35). -/
def State.barrierOperand (s : State) (raiser : Nat) (scope : BitVec 3) : Word :=
  let away := (s.members raiser scope).filter (fun c => !c.arrived scope)
  let number := ((s.core raiser).bar scope).number
  match away with
  | [] => 0xFFFF#16 ++ 0#3 ++ 0x1F#5 ++ 0#2 ++ 0x3F#6 ++ 0#16 ++ number ++ 1#1 ++ 0#4 ++ scope
  | c :: _ =>
    (if scope.toNat ≥ 4 then c.gid else 0) ++ 0#3 ++ c.vy ++ 0#2 ++ c.vx ++ BitVec.ofNat 16 away.length ++ number
      ++ 0#5 ++ scope

/-- A BARTIMEOUT in the control context of a core. -/
def State.timeOut (s : State) (core code : Nat) (operand pc : Word) : State :=
  s.takeFault core 0 { cls := .barTimeout, code := BitVec.ofNat 16 code, operand := operand, pc := pc }

/-- The participants of a barrier that stand on cores: those of the gangs that are not saved. -/
def State.present (s : State) (core : Nat) (scope : BitVec 3) : List Nat :=
  if scope.toNat < 4 then s.participants core scope
  else ((s.barrierGangs core scope).filter (·.state != .saved)).flatMap (·.cores)

/-- The time-out of a barrier: the first waiting participant raises it, once in a period, also while the clock of its
completion has not come (R172). -/
def State.barrierTimeout (s : State) (core : Nat) (scope : BitVec 3) : State :=
  let ps := s.present core scope
  match ps.find? (fun n => (s.core n).waitsAt scope) with
  | none => s
  | some r =>
    if ((s.core core).bar scope).raised then s
    else
      let gangs := s.barrierGangs core scope
      let s := s.timeOut r 0 (s.barrierOperand r scope) ((s.core r).ctx 0).pc
      let s := ps.foldl (fun s n => s.modCore n (·.setRaised scope true)) s
      if scope.toNat < 4 then s
      else (gangs.filter (·.state == .saved)).foldl (fun s g =>
        s.modGang g.gid (fun h => { h with saves := h.saves.map (·.setRaised scope true) })) s

/-- The arrival mask of a segment (R153). -/
def State.arrivalMask (s : State) (core : Nat) : Word :=
  BitVec.ofNat 64 ((s.segment core).zipIdx.foldl (fun a e => if (s.core e.1).joined then a + 2 ^ e.2 else a) 0)

/-- The clock at which the HOLD that pauses a core took effect there; of one that is to be released it stays in effect
to the clock of the release. -/
def State.holdSince (s : State) (core : Nat) : Nat :=
  let skew := (s.core core).skew
  match s.gangOf core with
  | none => s.clk
  | some g => match g.holds.find? (fun h => decide (h.1 + skew < s.clk) && h.2.all (fun r => decide (s.clk ≤ r + skew))) with
    | some h => h.1 + skew
    | none => s.clk

/-- The HOLD that pauses the origin of a gang has lasted longer than the origin's BTO, and than a period that a TRET has
begun anew (R242, R358). -/
def State.heldTooLong (s : State) (core : Nat) : Bool :=
  let x := (s.core core).ctx 0
  let since := match x.wait with
    | some w => match w.kind with
      | .hold _ => max w.since (s.holdSince core)
      | _ => s.holdSince core
    | none => s.holdSince core
  s.isHeld core && (s.gangOf core).any (fun g => g.origin == core) && decide (s.clk - since > (s.core core).bto.toNat)

/-- The context waits in an XEND, whose phase clock was LEN when it issued (R235). -/
def Context.ending (x : Context) : Bool :=
  match x.wait with
  | some w => match w.kind with
    | .engine => true
    | .hold b => b
    | _ => false
  | none => false

/-- The BARTIMEOUT of a HOLD in the origin (R242): the instruction it would issue next, the clocks held. -/
def State.holdTimeout (s : State) (core : Nat) : State :=
  let w : Wait := { kind := .hold ((s.core core).ctx 0).ending, since := s.holdSince core, limit := (s.core core).bto.toNat }
  (s.modCtx core 0 (fun x => { x with wait := some w })).timeOut core 3
    (0#1 ++ 1#1 ++ 0#30 ++ BitVec.ofNat 32 (s.clk - s.holdSince core)) ((s.core core).ctx 0).pc

/-- BTO_EXPIRY (R172, R153, R170, R242): the wait of a core's control context, or the join or the HOLD it waits for, has
exceeded its BTO. -/
def execBtoExpiry (s : State) : Out :=
  let core := s.cur.args.core
  let c := s.core core
  let x := c.ctx 0
  if x.stop.isSome || x.halted || c.parked then .next s
  else if s.heldTooLong core then .next (s.holdTimeout core)
  else if (c.seq.joining || x.afterGissue) && !(s.segment core).all (fun n => (s.core n).joined) &&
      decide (s.clk - c.seq.since > c.seq.limit) then
    let w : Wait := { kind := .join, since := c.seq.since, limit := c.seq.limit }
    .next ((s.modCtx core 0 (fun x => { x with wait := some w })).timeOut core 1 (s.arrivalMask core)
      (if c.seq.joining then c.seq.pc else x.pc))
  else match x.wait with
    | some w =>
      if s.clk - w.since ≤ w.limit then .next s
      else match w.kind with
        | .barArrive scope => .next (s.barrierTimeout core scope)
        | .barDone scope _ => .next (s.barrierTimeout core scope)
        | .gattach label => .next (s.timeOut core 2 (1#1 ++ 0#47 ++ label) x.pc)
        | _ => .next s
    | none => .next s

/-! The exchange phase (R173, R233 to R235). -/

/-- LEN of a slot-table entry (Table 12-2). -/
def PlanEntry.len (e : PlanEntry) : Nat := (e.extractLsb' 0 16).toNat
/-- WLO. -/
def PlanEntry.wlo (e : PlanEntry) : Nat := (e.extractLsb' 16 10).toNat
/-- WHI. -/
def PlanEntry.whi (e : PlanEntry) : Nat := (e.extractLsb' 32 10).toNat
/-- BRG. -/
def PlanEntry.brg (e : PlanEntry) : Bool := e.getLsbD 48
/-- An entry that XPH refuses: a nonzero reserved bit, LEN 0, or WLO above WHI (R235). -/
def PlanEntry.bad (e : PlanEntry) : Bool :=
  e.extractLsb' 26 6 != 0 || e.extractLsb' 42 6 != 0 || e.extractLsb' 49 79 != 0 || e.len == 0 || e.wlo > e.whi

/-- The slot table of a core's gang. -/
def State.plan (s : State) (core : Nat) : List PlanEntry := match s.gangOf core with | some g => g.plan | none => []
/-- The entry in force in a core. -/
def State.entry (s : State) (core : Nat) : PlanEntry := (s.plan core).getD (s.core core).phaseEntry.toNat 0

/-- The wire of an exchange instruction. -/
def FE.wire (f : FE) : BitVec 10 := f.imm.extractLsb' 0 10

/-- An exchange instruction: XPHASE outside the control context (R173). -/
def exchange (f : FE) (s : State) (entry : BitVec 16) (wire : BitVec 10) (k : State → Out) : Out :=
  guarded f.g f.gn s (fun s => if s.isControl then k s else s.xphase entry wire)

/-- XPH (R173, R233, R235, R237). -/
def execXph (f : FE) (s : State) : Out :=
  let n : BitVec 16 := f.imm.extractLsb' 0 16
  exchange f s n 0 (fun s =>
    let c := s.me
    match (s.plan s.cur.core)[n.toNat]? with
    | none => s.xphase n 0
    | some e =>
      if c.phase != .compute || !c.barSince || e.bad || (e.brg && !c.wideBarSince) then s.xphase n 0
      else
        let start := s.phaseClock s.cur.core
        let epoch := ((s.gangOf s.cur.core).map (fun g => (g.barrierAt, g.wideAt))).getD (0, 0)
        .next (s.modMe (fun c =>
          { c with phase := .openPhase, phaseEntry := n, phaseStart := start, phaseEpoch := epoch })).advance)

/-- A wire that the entry in force lets a core select, and drive (R235). -/
def PlanEntry.admits (e : PlanEntry) (wire : Nat) : Bool := wire < 960 || e.brg

/-- XSEND (R173, R236): one driving, made in the phase clock of its issue. -/
def execXsend (f : FE) (s : State) : Out :=
  exchange f s s.me.phaseEntry (FE.wire f) (fun s =>
    let e := s.entry s.cur.core
    let w := (FE.wire f).toNat
    if s.me.phase != .openPhase || !e.admits w || w < e.wlo || w > e.whi then s.xphase s.me.phaseEntry (FE.wire f)
    else
      let d : Driving := { core := s.cur.core, wire := FE.wire f, val := s.sa f.a, clk := s.phaseClock s.cur.core,
                           pc := s.my.pc, ref := s.phaseClock s.cur.core - s.me.skew, die := dieOf s.cur.core
                           epoch := s.me.phaseEpoch }
      .next (s.modGang s.me.gid (fun g => { g with drivings := g.drivings ++ [d] })).advance)

/-- XMUX (R173): a capture FLG phase clocks after its issue. -/
def execXmux (f : FE) (s : State) : Out :=
  exchange f s s.me.phaseEntry (FE.wire f) (fun s =>
    if s.me.phase != .openPhase || !(s.entry s.cur.core).admits (FE.wire f).toNat then
      s.xphase s.me.phaseEntry (FE.wire f)
    else
      let k : Capture := { reg := f.d, wire := FE.wire f, phaseClk := s.phaseClock s.cur.core + f.flg.toNat, pc := s.my.pc }
      .next (s.modMe (fun c => { c with captures := c.captures ++ [k] })).advance)

/-- The distance between two naturals. -/
def gap (a b : Nat) : Nat := (a - b) + (b - a)

/-- The delay from a core to a tap of its gang (R236). -/
def State.delay (s : State) (a b : Nat) : Nat :=
  if a = b then 1
  else
    let c := s.core a
    let d := s.core b
    gap c.vx.toNat d.vx.toNat + gap c.vy.toNat d.vy.toNat +
      2 * (gap (c.vx.toNat / 8) (d.vx.toNat / 8) + gap (c.vy.toNat / 4) (d.vy.toNat / 4))

/-- Die boundaries between two dies of the 2 × 2 package (R237). Die d stands at column d mod 2 and row d div 2: the spec does
not say which are neighbours (DESIGN CHOICE, log 21). Between gangs of a group on one die there is none, and a driving takes
0 clk, where the rule speaks of one or two boundaries only (DESIGN CHOICE, log 21). -/
def dieHops (a b : Nat) : Nat := gap (a % 2) (b % 2) + gap (a / 2) (b / 2)

/-- The drivings of other gangs of the launch group of a gang, those of gangs that have ended among them (R237). -/
def State.foreignDrivings (s : State) (g : Gang) : List Driving :=
  ((s.groupOf g).filter (·.gid != g.gid)).flatMap (·.drivings) ++
  (s.orphans.filter (fun o => o.1 == g.part && g.launch.any (fun l => l.group != 0 && l.group == o.2.1))).map (·.2.2)

/-- A driving that reaches a tap: the driving, the tap's phase clock of its presence, and the barrier that its phase follows:
of its own gang, or of .die or .pkg for one of another gang. -/
structure Presence where
  driving : Driving
  clk : Nat
  own : Bool

/-- The presence of a driving at a tap, of the tap's own gang or of another (R236, R237). -/
def State.presence (s : State) (tap : Nat) (own : Bool) (d : Driving) : Presence :=
  { driving := d, own := own
    clk := if own then d.clk + s.delay d.core tap
           else d.ref + 96 * dieHops d.die (((s.gangOf tap).map (·.die)).getD 0) + (s.core tap).skew }

/-- Two drivings, or a driving and a phase of a tap, are of one phase: no wire keeps a value from one to the next (R236). -/
def Presence.sameEpoch (p : Presence) (own : Bool) (epoch : Nat × Nat) : Bool :=
  if p.own && own then p.driving.epoch == epoch else p.driving.epoch.2 == epoch.2

/-- The drivings of a wire that reach a tap (R236, R237). -/
def State.reaching (s : State) (tap : Nat) (wire : BitVec 10) : List Presence :=
  match s.gangOf tap with
  | none => []
  | some g =>
    (g.drivings.filter (·.wire == wire)).map (s.presence tap true) ++
    (if wire.toNat < 960 then [] else ((s.foreignDrivings g).filter (·.wire == wire)).map (s.presence tap false))

/-- The value at a tap in a phase clock: that of the one driving present, zero for none or for a collision (R236,
R238). -/
def State.tapValue (s : State) (tap : Nat) (wire : BitVec 10) (clk : Nat) : Word :=
  match (s.reaching tap wire).filter (fun p => p.clk == clk && p.sameEpoch true (s.core tap).phaseEpoch) with
  | [p] => p.driving.val
  | _ => 0

/-- A capture takes the value at its tap, or consumes the error of the wire's stage there (R360, source 6 of Table 24-3): the
record stands against the XMUX (log 21). -/
def State.capture (s : State) (core : Nat) (k : Capture) (v : Word) : State :=
  let loc := Config.wireLoc core k.wire.toNat
  match Table.find s.bad loc with
  | none => s.modCtx core 0 (·.setSA k.reg v)
  | some e => { s with bad := Table.erase s.bad loc }.takeError core 0
      { cls := .uce, code := if e.1 then 13 else 12, operand := 0, pc := k.pc, async := true, dpc := ((s.core core).ctx 0).pc }

/-- XMUX_CAPTURE (R173): at the end of a clock, the captures of a core that are due; a parked, stopped or halted core captures
nothing (R234). -/
def execXmuxCapture (s : State) : Out :=
  let core := s.cur.args.core
  let c := s.core core
  let now := s.phaseClock core
  let due := c.captures.filter (fun k => decide (k.phaseClk ≤ now))
  let s' := s.modCore core (fun c => { c with captures := c.captures.filter (fun k => decide (k.phaseClk > now)) })
  if c.excluded then .next s'
  else .next (due.foldl (fun t k => t.capture core k (s.tapValue core k.wire k.phaseClk)) s')

/-- Two drivings of a wire are present at a tap together (R238). -/
def Presence.meets (p q : Presence) : Bool :=
  p.clk == q.clk && p.driving != q.driving && p.sameEpoch q.own q.driving.epoch

/-- The drivings of a wire that meet another at a tap (R238). -/
def State.meetings (s : State) (tap : Nat) (wire : BitVec 10) : List Presence :=
  let ds := s.reaching tap wire
  ds.filter (fun d => ds.any (fun e => e.meets d))

/-- The drivings of a wire that collide at a tap by its present phase clock (R238). -/
def State.collisions (s : State) (tap : Nat) (wire : BitVec 10) : List Driving :=
  ((s.meetings tap wire).filter (fun d => decide (d.clk ≤ s.phaseClock tap))).map (·.driving)

/-- XCOLLIDE in the core that made a driving, sensed at a tap, once for a driving; it stops a context that has neither
stopped nor halted. A driving of a gang that has ended has no core to tell. -/
def State.collide (s : State) (tap : Nat) (d : Driving) : State :=
  let x := (s.core d.core).ctx 0
  if d.reported || !(s.gangOf d.core).any (·.drivings.contains d) then s
  else
    let t := s.core tap
    (s.takeFault d.core 0 { cls := .xCollide, code := 0, pc := d.pc, async := true, dpc := x.pc,
                            operand := 0#38 ++ d.wire ++ 0#3 ++ t.vy ++ 0#2 ++ t.vx }
      (stops := x.stop.isNone && !x.halted)).modGang (s.core d.core).gid (fun g =>
        { g with drivings := g.drivings.map (fun e => if e == d then { e with reported := true } else e) })

/-- XCOLLIDE_SENSE (R238). -/
def execXcollideSense (s : State) : Out :=
  let tap := s.cur.args.core
  .next ((s.collisions tap (BitVec.ofNat 10 s.cur.args.index)).foldl (fun s d => s.collide tap d) s)

/-- A driving of a core that meets another at a tap, with the tap: the sense reaches the core before its XEND retires,
also from a tap that the drivings are still on their way to (R238). -/
def State.collided (s : State) (core : Nat) : Option (Driving × Nat) :=
  match s.gangOf core with
  | none => none
  | some g =>
    ((g.drivings.filter (fun d => d.core == core && !d.reported)).flatMap (fun d =>
      (((s.groupOf g).flatMap (·.cores)).filter (fun t => ((s.meetings t d.wire).map (·.driving)).contains d)).map
        (fun t => (d, t)))).head?

/-- The drivings that a core has still to make of the stream it follows, as its predicates stand (R207): each in the phase
clock in which it issues there. -/
def State.coming (s : State) (n : Nat) : List Driving :=
  match s.leader n with
  | none => []
  | some l =>
    let c := s.core n
    let ahead := s.ahead n l
    let epoch := if c.phase = .openPhase then c.phaseEpoch
      else ((s.gangOf n).map (fun g => (g.barrierAt, g.wideAt))).getD (0, 0)
    if c.outOfStream then []
    else ahead.zipIdx.filterMap (fun k => match k.1.instr with
      | .xsend f =>
        if c.guardedOff (ahead.take k.2) k.1.instr then none
        else
          let at_ := s.phaseClock n + (k.1.clk + s.behind n l - s.clk)
          some { core := n, wire := FE.wire f, val := 0, clk := at_, pc := k.1.pc, ref := at_ - c.skew, die := dieOf n, epoch := epoch }
      | _ => none)

/-- A driving of a core that may still meet, at some tap, one that another core has in its stream but has not made yet: the
sense is to reach the core before its XEND retires (R238). Of the cores that fetch for themselves the model does not know what
they will drive: a sense that comes after the XEND is delivered as it comes (DESIGN CHOICE, log 21). -/
def State.mayCollide (s : State) (core : Nat) : Bool :=
  match s.gangOf core with
  | none => false
  | some g =>
    let mine := g.drivings.filter (fun d => d.core == core && !d.reported)
    !mine.isEmpty && (s.groupOf g).any (fun h => h.state == .running && h.cores.any (fun n => n != core &&
      (s.coming n).any (fun e => mine.any (fun d => d.wire == e.wire && (h.gid == g.gid || d.wire.toNat ≥ 960) &&
        (s.groupOf g).any (fun k => k.cores.any (fun t =>
          (s.presence t (k.gid == g.gid) d).meets (s.presence t (k.gid == h.gid) e)))))))

/-- The wires on which drivings collide at a tap and have not all been reported, of its own gang and of others (R238). -/
def State.sensedWires (s : State) (tap : Nat) : List Nat :=
  match s.gangOf tap with
  | none => []
  | some g =>
    let ds := g.drivings ++ (s.foreignDrivings g).filter (fun d => d.wire.toNat ≥ 960)
    if ds.isEmpty then []
    else ((ds.map (·.wire.toNat)).eraseDups).filter (fun w =>
      (s.collisions tap (BitVec.ofNat 10 w)).any (fun d => !d.reported))

/-- XEND (R173, R235, R238): it waits for the captures of later clocks, after the sense of a collision has reached the
core. -/
def execXend (f : FE) (s : State) : Out :=
  exchange f s s.me.phaseEntry 0 (fun s =>
    let c := s.me
    let core := s.cur.core
    if c.phase != .openPhase || (!s.my.ending && s.phaseClock core != c.phaseStart + (s.entry core).len) then
      s.xphase c.phaseEntry 0
    else match s.collided core with
      | some (d, t) => .next (s.collide t d)
      | none =>
        if c.captures.any (fun k => decide (k.phaseClk > s.phaseClock core)) || s.mayCollide core then .next (s.startWait .engine 0)
        else .next (s.modMe (fun c => { c with phase := .closed, barSince := false, wideBarSince := false })).advance)

/-! HOLD and the throttle (R240, R242). -/

/-- HOLD_RAISE (R242): it takes effect H clk later, when no agent held already. -/
def execHoldRaise (s : State) : Out :=
  match s.gang? s.cur.args.gid with
  | none => .next s
  | some g =>
    if !s.anyOpen g || g.holders.contains s.cur.args.index then .next s
    else .next (s.modGang g.gid (fun g =>
      { g with holders := s.cur.args.index :: g.holders,
               holds := if g.holders.isEmpty then (s.clk + g.span, none) :: g.holds else g.holds }))

/-- HOLD_RELEASE (R242): the pause ends H clk after the last agent drops HOLD. -/
def execHoldRelease (s : State) : Out :=
  match s.gang? s.cur.args.gid with
  | none => .next s
  | some g =>
    if !g.holders.contains s.cur.args.index then .next s
    else
      let left := g.holders.filter (· != s.cur.args.index)
      .next (s.modGang g.gid (fun g =>
        { g with holders := left
                 holds := if left.isEmpty then g.holds.map (fun h => (h.1, h.2.or (some (s.clk + g.span)))) else g.holds }))

/-- Applies the throttle change asked of a gang. -/
def Gang.applyThrottle (g : Gang) : Gang :=
  match g.throttle with
  | some (mhz, _) => { g with mhz := mhz, throttle := none }
  | none => g

/-- THROTTLE_CHANGE (R240, R249): between the completion of a gang barrier and the next issue. -/
def execThrottleChange (s : State) : Out :=
  match s.gang? s.cur.args.gid with
  | none => .next s
  | some g => .next (if g.barrierAt = s.clk then s.modGang g.gid Gang.applyThrottle else s)

/-- The firmware limit of R240 in clk of the arithmetic clock as it runs. -/
def Service.throttleLimit (v : Service) : Nat := v.throttleUs * v.mhz

/-- THROTTLE_LIMIT_EXPIRY (R240): no gang barrier within the limit, at a stream position with no open phase. -/
def execThrottleLimitExpiry (s : State) : Out :=
  match s.gang? s.cur.args.gid with
  | none => .next s
  | some g => match g.throttle with
    | none => .next s
    | some (_, at_) =>
      .next (if s.clk ≥ max at_ g.barrierAt + s.service.throttleLimit && !s.anyOpen g then s.modGang g.gid Gang.applyThrottle
             else s)

end Sys2Proof.Machine
end

