-- ==== Sys2Proof/Machine/Copies.lean ====
section
/-! DEFINITION. The copy engine: the copy commands (R174 to R177), watermarks (R178), completion rings (R179, R226),
circular buffers (R180, R227), and the landing, completion and faults of a copy (R220 to R225). -/

namespace Sys2Proof.Machine

/-! Records in the own scratchpad. -/

/-- The check of `n` bytes at an own-scratchpad offset (R187, R228): PROT 3 for alignment, 4 beyond the scratchpad, 6 in
the undo log, with the offset reported. -/
def State.ownCheck (s : State) (core align n : Nat) (o : Word) : Option (Nat × Word) :=
  if o.toNat % align ≠ 0 then some (3, o)
  else if o.toNat + n > Config.spBytes then some (4, BitVec.ofNat 64 (max o.toNat Config.spBytes))
  else if (s.core core).resil && o.toNat + n > Config.undoBase then
    some (6, BitVec.ofNat 64 (max o.toNat Config.undoBase))
  else none

/-- Goes on when `n` bytes at an own-scratchpad offset may be reached. -/
def ownSpan (align n : Nat) (o : Word) (s : State) (k : State → Out) : Out :=
  match s.ownCheck s.cur.core align n o with
  | some (code, op) => .next (s.raise .prot code op)
  | none => k s

/-- The first byte of a run of the own scratchpad that cannot be read, with its UCE code. -/
def State.ownUce (s : State) (core off n : Nat) : Option (Nat × Nat) :=
  (List.range n).findSome? (fun i =>
    (s.uceAt { loc := Config.spLoc core (off + i) }).map (fun code => (code, off + i)))

/-- Goes on with the little-endian value of `n` bytes of the own scratchpad. -/
def ownRead (align n : Nat) (o : Word) (s : State) (k : State → Nat → Out) : Out :=
  ownSpan align n o s (fun s =>
    match s.ownUce s.cur.core o.toNat n with
    | some (code, b) => .next (s.raise .uce code (BitVec.ofNat 64 b))
    | none => k s (s.spNat s.cur.core o.toNat n))

/-- The 64-bit field at a byte offset of a record read as one number. -/
def field64 (x off : Nat) : Word := BitVec.ofNat 64 (x / 2 ^ (8 * off))

/-! The copy table (R174). -/

/-- An entry is in use: its copy is running or frozen, or a record of it is still to be written. -/
def Copy.inUse (k : Copy) : Bool := k.state == .running || k.state == .frozen || !k.owed.isEmpty

/-- The entries of the copy table. -/
def Core.entries (c : Core) : List Copy := c.copies.filter (!·.gone)

/-- Changes the copy of an acceptance order. -/
def Core.modCopy (c : Core) (seq : Nat) (f : Copy → Copy) : Core :=
  { c with copies := c.copies.map (fun k => if k.seq == seq then f k else k) }

/-- Changes a copy of a core. -/
def State.modCopy (s : State) (core seq : Nat) (f : Copy → Copy) : State := s.modCore core (·.modCopy seq f)

/-- A copy command with this id finds an entry: none of the same id in use, and one that is free (R174). -/
def Core.entryFree (c : Core) (id : BitVec 16) : Bool :=
  !c.entries.any (fun k => k.id == id && k.inUse) && (c.entries.length < 32 || c.entries.any (!·.inUse))

/-- The free entry whose copy ended longest ago. -/
def Core.oldestEnded (c : Core) : Option Copy :=
  (c.entries.filter (!·.inUse)).foldl (fun o k => match o with
    | none => some k
    | some j => if k.ended < j.ended then some k else some j) none

/-- Takes an entry for a copy: one that never held a copy, or the one whose copy ended longest ago, which stays known
only to the registers bound to it (R223). -/
def Core.takeEntry (c : Core) (k : Copy) : Core :=
  let copies := if c.entries.length < 32 then c.copies else
    match c.oldestEnded with
    | none => c.copies
    | some o => c.copies.map (fun j => if j.seq == o.seq then { j with gone := true } else j)
  let bound (j : Copy) : Bool := (List.range 8).any (fun n => (c.wm.getD n Watermark.clear).copy == some j.seq)
  { c with copies := copies.filter (fun j => !j.gone || bound j) ++ [k], copySeq := c.copySeq + 1 }

/-- The most recent copy of an id in the copy table. -/
def Core.latest (c : Core) (id : BitVec 16) : Option Copy := (c.entries.filter (·.id == id)).getLast?

/-! Circular buffers (R180, R227). -/

/-- A circular buffer. -/
def Core.buf (c : Core) (n : Nat) : CBuf := c.cbuf.getD n {}
/-- Changes a circular buffer. -/
def Core.modBuf (c : Core) (n : Nat) (f : CBuf → CBuf) : Core := { c with cbuf := c.cbuf.setIfInBounds n (f (c.buf n)) }

/-- The next slot taken for writing (CBACQ.WR, or a copy at acceptance). -/
def CBuf.takeWrite (b : CBuf) (copy : Bool) : CBuf :=
  { b with free := b.free - 1, wout := b.wout + 1, wcur := (b.wcur + 1) % b.slots,
           pending := b.pending ++ [(b.wcur, copy, false)] }

/-- The filled slots at the front become FILLED, in WCUR order. -/
def CBuf.settle (b : CBuf) : CBuf :=
  let n := (b.pending.takeWhile (·.2.2)).length
  { b with pending := b.pending.drop n, filled := b.filled + n, wout := b.wout - n }

/-- Fills the first outstanding write slot that a test selects. -/
def CBuf.fill (b : CBuf) (sel : Nat × Bool × Bool → Bool) : CBuf :=
  match b.pending.findIdx? sel with
  | none => b
  | some i => { b with pending := b.pending.modify i (fun e => (e.1, e.2.1, true)) }.settle

/-- Fills the slot of a copy. -/
def Core.fillSlot (c : Core) : Option (Nat × Nat) → Core
  | none => c
  | some (n, slot) => c.modBuf n (·.fill (fun e => e.1 == slot && e.2.1 && !e.2.2))

/-- CBINIT (R180). -/
def execCbinit (f : FE) (s : State) : Out :=
  guarded f.g f.gn s (fun s =>
    let n := (f.imm.extractLsb' 0 3).toNat
    let slots := (f.imm.extractLsb' 8 8).toNat + 1
    let base := s.sa f.a
    let size := (s.sa f.b).toNat
    if size % 32 ≠ 0 || size < 32 || size > 65536 then .next (s.raise .prot 4 base)
    else ownSpan 1 (size * slots) base s (fun s =>
      if s.me.copies.any (fun k => k.cbuf.any (·.1 == n) && (k.state == .running || k.state == .frozen)) then
        .next (s.waitTh .cbinit)
      else .next (s.modMe (·.modBuf n (fun _ =>
        { base := base.toNat, size := size, slots := slots, free := slots }))).advance))

/-- The buffer of CBACQ and CBREL. -/
def FE.bufNo (f : FE) : Nat := (f.imm.extractLsb' 0 3).toNat

/-- CBACQ.RD (R180). -/
def execCbacqRd (f : FE) (s : State) : Out :=
  guarded f.g f.gn s (fun s =>
    let b := s.me.buf (FE.bufNo f)
    if b.filled = 0 then .next (s.waitTh .cbacq)
    else retireE (s.modMe (·.modBuf (FE.bufNo f) (fun b =>
      { b with filled := b.filled - 1, rout := b.rout + 1, rcur := (b.rcur + 1) % b.slots }))) f
        (BitVec.ofNat 64 (b.base + b.rcur * b.size)))

/-- CBACQ.WR (R180). -/
def execCbacqWr (f : FE) (s : State) : Out :=
  guarded f.g f.gn s (fun s =>
    let b := s.me.buf (FE.bufNo f)
    if b.free = 0 then .next (s.waitTh .cbacq)
    else retireE (s.modMe (·.modBuf (FE.bufNo f) (·.takeWrite false))) f (BitVec.ofNat 64 (b.base + b.wcur * b.size)))

/-- CBREL.RD (R180). -/
def execCbrelRd (f : FE) (s : State) : Out :=
  guarded f.g f.gn s (fun s => .next (s.modMe (·.modBuf (FE.bufNo f) (fun b =>
    if b.rout > 0 then { b with rout := b.rout - 1, free := b.free + 1 } else b))).advance)

/-- What CBREL.WR fills: the oldest slot that software has taken and not filled, else the oldest that a copy has; R227 does not say
which, where both are outstanding (DESIGN CHOICE, log 41). -/
def CBuf.release (b : CBuf) : CBuf :=
  if b.pending.any (fun e => !e.2.1 && !e.2.2) then b.fill (fun e => !e.2.1 && !e.2.2) else b.fill (fun e => !e.2.2)

/-- CBREL.WR (R180): with an outstanding write it fills a slot. -/
def execCbrelWr (f : FE) (s : State) : Out :=
  guarded f.g f.gn s (fun s => .next (s.modMe (·.modBuf (FE.bufNo f) CBuf.release)).advance)

/-! The copy commands. -/

/-- What a command asks of the engine. -/
structure CopyCommand where
  kind : CopyKind
  dam : BitVec 4
  sam : BitVec 4
  dst : Word
  src : Word
  esz : Nat
  dims : List (Nat × Int × Int)
  combine : Option (Nat × BitVec 2) := none

/-- The bytes that a command writes. -/
def CopyCommand.elements (q : CopyCommand) : Nat := (q.dims.map (·.1)).foldl (· * ·) 1

/-- The circular buffer of a destination mode. -/
def bufOf (dam : BitVec 4) : Option Nat := if 8 ≤ dam.toNat then some (dam.toNat - 8) else none

/-- What a copy takes at acceptance besides its entry: the core's dirty SI bytes go home, where the engine reads (Table
13-2), and every cache gives up the DT lines that the copy will own (R259). -/
def State.own (s : State) (core : Nat) (k : Copy) : State :=
  let s := s.release core
  if k.dam = 0 then
    let part := (s.core core).part.toNat
    s.everyCore (fun s n => s.flushLines n (fun l => l.coh == 0 && l.part == part && k.holdsLine (l.line * 64)))
  else s

/-- The engine accepts a command once there is an entry and, for a .CBUFn destination, a slot (R174, R175); a command
makes the superstep non-restartable (R363). -/
def State.accept (s : State) (f : FE) (q : CopyCommand) : Out :=
  let core := s.cur.core
  let c := s.me
  if !c.entryFree f.id16 then .next (s.waitTh .copyEntry)
  else
    let slot := (bufOf q.dam).map (fun n => (n, c.buf n))
    if slot.any (fun e => e.2.free == 0) then .next (s.waitTh .cbufSlot)
    else
      let k : Copy :=
        { id := f.id16, kind := q.kind, state := .running, dam := q.dam, sam := q.sam, src := q.src, esz := q.esz
          dst := match slot with
            | some (_, b) => BitVec.ofNat 64 (b.base + b.wcur * b.size)
            | none => q.dst
          dims := q.dims, total := q.elements, count := 0, colour := f.flg.extractLsb' 0 3
          ring := if f.d = 0 then none else some (s.sa f.d).toNat
          cbuf := slot.map (fun e => (e.1, e.2.wcur)), pc := s.my.pc
          windows := c.seenWindows s.clk s.cur.ctx.val, chip := s.chipOf core
          seq := c.copySeq, ended := 0, fcode := 0, combine := q.combine, mixedOrder := false, sent := false, owed := []
          gone := false }
      let s := ((s.nonRestartable core 3).own core k).modMe (fun c => c.takeEntry k)
      .next (match slot with
        | some (n, _) => s.modMe (·.modBuf n (·.takeWrite true))
        | none => s).advance

/-- CPY (R175). -/
def execCpy (f : FE) (s : State) : Out :=
  hodOnly (f.word 0x1CE) f.g f.gn s (fun s =>
    let len := s.sa f.c
    let dam := f.sub.extractLsb' 4 4
    if len = 0 || len.toNat > 2 ^ 40 || (bufOf dam).any (fun n => decide (len.toNat > (s.me.buf n).size)) then
      .next (s.raise .prot 4 len)
    else s.accept f { kind := .cpy, dam := dam, sam := f.sub.extractLsb' 0 4, dst := s.sa f.a, src := s.sa f.b,
                      esz := 1, dims := [(len.toNat, 1, 1)] })

/-- The dimensions of a layout record, used and unused (Table 8-3). -/
def recordDims (x : Nat) : List (Nat × Int × Int) :=
  (List.range 5).map (fun j =>
    (x / 2 ^ (8 * (0x18 + 4 * j)) % 2 ^ 32, (field64 x (0x30 + 8 * j)).toInt, (field64 x (0x58 + 8 * j)).toInt))

/-- A layout record that is ILLEGAL at issue: NDIM, an EXT, a mode, a reserved bit, or the element count (R162, R176). The
rule's list does not name the bits that Table 8-3 gives no field (0x10[7:2], 0x13, 0x2C); set, they are ILLEGAL too (DESIGN
CHOICE, log 52). -/
def badRecord (x : Nat) : Bool :=
  let byte (n : Nat) : Nat := x / 2 ^ (8 * n) % 256
  let ndim := byte 0x11
  let exts := (recordDims x).map (·.1)
  !(1 ≤ ndim && ndim ≤ 5) || (exts.take ndim).any (· == 0) || (exts.drop ndim).any (· != 0) ||
  !okDam (BitVec.ofNat 4 (byte 0x12 / 16)) || !okSam (BitVec.ofNat 4 (byte 0x12)) ||
  byte 0x10 ≥ 4 || x / 2 ^ (8 * 0x13) % 2 ^ 40 != 0 || x / 2 ^ (8 * 0x2C) % 2 ^ 32 != 0 ||
  ((exts.take ndim).foldl (· * ·) 1) > 2 ^ 44 - 1

/-- CPYN (R176). -/
def execCpyn (f : FE) (s : State) : Out :=
  hodOnly (f.word 0x1CF) f.g f.gn s (fun s =>
    ownRead 32 128 (s.sa f.a) s (fun s x =>
      if badRecord x then illegal (f.word 0x1CF) s
      else s.accept f
        { kind := .cpyn, dam := BitVec.ofNat 4 (x / 2 ^ (8 * 0x12) % 256 / 16), sam := BitVec.ofNat 4 (x / 2 ^ (8 * 0x12))
          dst := field64 x 0, src := field64 x 8, esz := 2 ^ (x / 2 ^ (8 * 0x10) % 4)
          dims := (recordDims x).take (x / 2 ^ (8 * 0x11) % 256) }))

/-- CPYCMB (R177). -/
def execCpycmb (f : FE) (s : State) : Out :=
  hodOnly (f.word 0x1D2) f.g f.gn s (fun s =>
    let len := s.sa f.c
    if len = 0 || len.toNat > 2 ^ 40 then .next (s.raise .prot 4 len)
    else s.accept f { kind := .cpycmb, dam := 0, sam := f.sub.extractLsb' 0 4, dst := s.sa f.a, src := s.sa f.b,
                      esz := 1, dims := [(len.toNat, 1, 1)],
                      combine := some ((f.imm.extractLsb' 16 16).toNat, f.var) })

/-- A copy is cancelled (R225): its slot is filled as it lies. -/
def Core.cancel (c : Core) (k : Copy) (clk : Nat) : Core := (c.modCopy k.seq (·.cancelled clk)).fillSlot k.cbuf

/-- CPYC stops a copy that is frozen, or running unless its last element has landed in this clock (R177, R188). -/
def Copy.cancellable (k : Copy) (clk : Nat) : Bool :=
  k.state == .frozen || k.state == .running && !(k.count ≥ k.total && k.landed.any (fun l => l.1 == clk))

/-- CPYC (R177, R188). -/
def execCpyc (f : FE) (s : State) : Out :=
  hodOnly (f.word 0x1D0) f.g f.gn s (fun s =>
    let s := s.nonRestartable s.cur.core 3
    match s.me.entries.find? (fun k => k.id == f.id16 && k.cancellable s.clk) with
    | none => retireE s f 1
    | some k => retireE (s.modMe (·.cancel k s.clk)) f 0)

/-- CPYR (R177, R225). -/
def execCpyr (f : FE) (s : State) : Out :=
  hodOnly (f.word 0x1D1) f.g f.gn s (fun s =>
    let s := s.nonRestartable s.cur.core 3
    match s.me.entries.find? (fun k => k.id == f.id16 && k.state == .frozen) with
    | none => retireE s f 1
    | some k => retireE (s.modMe (·.modCopy k.seq (fun k => { k with state := .running, fcode := 0 }))) f 0)

/-! Watermarks (R178). -/

/-- WMSET and WMCLR: ILLEGAL in a helper (R15), HODONLY in the control context. -/
def wmOp (opc : BitVec 10) (f : FE) (s : State) (k : State → Out) : Out :=
  if 1 ≤ s.cur.ctx.val && s.cur.ctx.val ≤ 10 then illegal (f.word opc) s else hodOnly (f.word opc) f.g f.gn s k

/-- Writes a watermark register. -/
def State.setWm (s : State) (r : BitVec 8) (w : Watermark) : State :=
  s.modMe (fun c => { c with wm := c.wm.setIfInBounds (r.toNat - 104) w })

/-- WMSET (R178, R223). -/
def execWmset (f : FE) (s : State) : Out :=
  wmOp 0x1D3 f s (fun s =>
    let w : Watermark := { Watermark.clear with arm := true, cid := f.id16, boundAt := s.clk }
    match s.me.latest f.id16 with
    | some k => .next (s.setWm f.d { w with copy := some k.seq }).advance
    | none => .next (s.setWm f.d { w with done := true }).advance)

/-- WMCLR (R178). -/
def execWmclr (f : FE) (s : State) : Out := wmOp 0x1D4 f s (fun s => .next (s.setWm f.d Watermark.clear).advance)

/-- The read layout of a watermark register (Table 1-4). -/
def Watermark.word (w : Watermark) : Word :=
  BitVec.ofBool w.arm ++ BitVec.ofBool w.poison ++ BitVec.ofBool w.frozen ++ BitVec.ofBool w.done ++ w.cid
    ++ BitVec.ofNat 44 w.count

/-- WMRD (R178). -/
def execWmrd (f : FE) (s : State) : Out :=
  guarded f.g f.gn s (fun s => retireE s f (s.me.watermark s.clk (f.a.toNat - 104)).word)

/-- WMRD.ADDR (R178, R223). -/
def execWmrdAddr (f : FE) (s : State) : Out :=
  guarded f.g f.gn s (fun s =>
    let w := s.me.watermark s.clk (f.a.toNat - 104)
    let k := w.copy.bind (fun q => s.me.copies.find? (·.seq == q))
    retireE s f (match k with
      | some k => if w.arm && k.kind == .cpy then k.dst + BitVec.ofNat 64 w.count else 0xFFFFFFFFFFFFFFFF
      | none => 0xFFFFFFFFFFFFFFFF))

/-! Completion rings (R179). -/

/-- HEAD − TAIL of a descriptor read as one number. -/
def ringFill (x : Nat) : Word := field64 x 0x10 - field64 x 0x18
/-- MODE of a descriptor. -/
def ringMode (x : Nat) : Nat := x / 2 ^ 64 % 4
/-- LOG2N of a descriptor. -/
def ringLog (x : Nat) : Nat := x / 2 ^ 72 % 32
/-- A descriptor that the engine refuses: a reserved MODE, or LOG2N outside 1 to 12. -/
def ringBad (x : Nat) : Bool := ringMode x ≥ 2 || !(1 ≤ ringLog x && ringLog x ≤ 12)
/-- The address of the entry of a record number. -/
def ringEntry (x : Nat) (n : Word) : Word := field64 x 0 + BitVec.ofNat 64 (32 * (n.toNat % 2 ^ ringLog x))

/-- CRWAIT (R179), whose wake is an acquire (Table 13-2). -/
def execCrwait (f : FE) (s : State) : Out :=
  guarded f.g f.gn s (fun s =>
    ownRead 32 32 (s.sa f.a) s (fun s x =>
      if ringFill x = 0 then .next (s.waitTh .crwait)
      else retireE (s.acquire s.cur.core true) f (ringFill x)))

/-- CRPOP (R179): one that writes 1 is an acquire (Table 13-2). -/
def execCrpop (f : FE) (s : State) : Out :=
  guarded f.g f.gn s (fun s =>
    ownRead 32 32 (s.sa f.a) s (fun s x =>
      if ringFill x = 0 then retireE s f 0
      else if ringBad x then .next (s.raise .prot 4 (s.sa f.a))
      else ownSpan 1 32 (s.sa f.b) s (fun s =>
        match s.loadBytes { am := ringMode x, need := { r := true } } (offsets 0 (ringEntry x (field64 x 0x18)) 32) with
        | .error t => s.settle t
        | .ok (bs, s) =>
          let s := s.spWritesOwn s.cur.core (s.sa f.b).toNat bs
          let s := s.spWritesOwn s.cur.core ((s.sa f.a).toNat + 0x18) (bytesOfNat 8 (field64 x 0x18 + 1).toNat)
          retireE (s.acquire s.cur.core true) f 1)))

/-! The engine's own accesses. -/

/-- The addressing mode of a mode code (R174). -/
def amOf (m : BitVec 4) : Nat := if 8 ≤ m.toNat then 1 else m.toNat

/-- Places a byte for a copy of a core's hod: the windows and segments of its acceptance (R221). -/
def State.placeCopy (s : State) (core : Nat) (k : Copy) (am : Nat) (need : Need) (o : Word) : Except Trap Place :=
  s.placeIn k.windows k.chip core 11 { am := am, need := need } 0 o

/-- Places the bytes of a run, and answers the first trap; the bytes of a read are checked for uncorrectable errors. -/
def State.placeRun (s : State) (core : Nat) (k : Copy) (am : Nat) (need : Need) :
    List Word → Except Trap (List Place)
  | [] => .ok []
  | o :: os =>
    match s.placeCopy core k am need o with
    | .error t => .error t
    | .ok p =>
      match (if need.r then s.uceAt p else none) with
      | some code => .error (.fault .uce code o)
      | none =>
        match State.placeRun s core k am need os with
        | .error t => .error t
        | .ok ps => .ok (p :: ps)

/-- `n` addresses from one up. -/
def run (o : Word) (n : Nat) : List Word := (List.range n).map (fun i => o + BitVec.ofNat 64 i)

/-- The engine writes one byte: one of a scratchpad or of the lane slices makes the superstep non-restartable (R363). -/
def State.landByte (s : State) (p : Place) (b : Byte) : State :=
  if 2 ^ 70 ≤ p.loc && p.loc < 2 ^ 71 then
    s.spWriteForeign ((p.loc - 2 ^ 70) / 131072) ((p.loc - 2 ^ 70) % 131072) b
  else if 2 ^ 71 ≤ p.loc && p.loc < 2 ^ 72 then (s.nonRestartable ((p.loc - 2 ^ 71) / 16384) 2).poke p.loc b
  else s.poke p.loc b

/-- The engine brings in the lines and cached leaves of places, for a read or a write at their homes (R259, R327). -/
def State.engineVisit (s : State) (core : Nat) (write : Bool) (ps : List Place) : State :=
  (lineHeads (ps.filter (fun p => p.leaf.isSome))).foldl (fun s p =>
    let s := s.noteLeaf core (dieOf core) p
    match s.homeOf core p with
    | some h => let s := if p.tracked then s.homeRequest h write else s
                if write then s.dirtyL2 h else s.fillL2 h
    | none => s) s

/-- The engine writes the bytes of places in order. -/
def State.landBytes (s : State) (ps : List (Place × Byte)) : State := ps.foldl (fun s e => s.landByte e.1 e.2) s

/-- The index tuple's offset of a position (R176, R220): `sel` takes the stride of a dimension. -/
def strideSum (sel : Nat × Int × Int → Int) : List (Nat × Int × Int) → Nat → Int
  | [], _ => 0
  | d :: ds, n => ((n % d.1 : Nat) : Int) * sel d + strideSum sel ds (n / d.1)

/-- Destination address of the element at a position. -/
def Copy.dstOf (k : Copy) (n : Nat) : Word := k.dst + BitVec.ofInt 64 (strideSum (·.2.1) k.dims n)
/-- Source address of the element at a position. -/
def Copy.srcOf (k : Copy) (n : Nat) : Word := k.src + BitVec.ofInt 64 (strideSum (·.2.2) k.dims n)

/-- A list holds two different entries. -/
def several {α : Type} [BEq α] : List α → Bool
  | [] => false
  | x :: xs => xs.any (fun y => !(y == x))

/-- The windows that a contiguous range of addresses falls in, sampled where the first hit can change: at its start, at
each window's start and after each window's end. -/
def windowsOf (ws : List (Word × Word × Word)) (lo : Word) (len : Nat) : List (Word × Word × Word) :=
  let ends := ws.flatMap (fun w =>
    let n := (w.2.1.extractLsb' 0 6).toNat
    let b := w.1 >>> n <<< n
    [b, b + BitVec.ofNat 64 (2 ^ n)])
  (lo :: ends.filter (fun e => decide ((e - lo).toNat < len))).filterMap (fun a => (windowHit a ws).map (·.1))

/-- The engine refuses a CPY or CPYN whose AM 0 destination falls in more than one window (R221). -/
def Copy.refused (k : Copy) : Bool :=
  k.dam == 0 && k.kind != .cpycmb &&
  let (lo, len) := k.span
  several (windowsOf k.windows (k.dst + BitVec.ofInt 64 lo) len) && (k.kind == .cpy ||
    several (((List.range k.total).flatMap (fun n => run (k.dstOf n) k.esz)).filterMap
      (fun a => (windowHit a k.windows).map (·.1))))

/-- One element: the places of its source and of its destination, or what prevents it (R225). -/
def State.element (s : State) (core : Nat) (k : Copy) (n : Nat) : Except Trap (List Place × List Place) :=
  if k.refused then .error (.fault .prot 4 k.dst)
  else match s.placeRun core k (amOf k.sam) { r := true } (run (k.srcOf n) k.esz) with
    | .error t => .error t
    | .ok ps =>
      match s.placeRun core k (amOf k.dam) { w := true } (run (k.dstOf n) k.esz) with
      | .error t => .error t
      | .ok qs => .ok (ps, qs)

/-- Moves an element: its source is read at the home, its destination written there. -/
def State.moveElement (s : State) (core : Nat) (ps qs : List Place) : State :=
  let s := s.engineVisit core false ps
  let bytes := ps.map (fun p => s.mem.read p.loc)
  (s.engineVisit core true qs).landBytes (qs.zip bytes)

/-! Overlap (R224). -/

/-- The location of an offset in a copy's destination space (R221). -/
def State.offsetPlace (s : State) (core : Nat) (k : Copy) (x : Nat) : Option Place :=
  match k.dam.toNat with
  | 0 => (windowHit (BitVec.ofNat 64 x) k.windows).map (fun w => { loc := 0, ia := some w.2 })
  | 2 => (s.clusterCore core (x / 2 ^ 17)).map (fun n => { loc := Config.spLoc n (x % 2 ^ 17) })
  | 3 => (s.clusterCore core (x / 4 % 32)).map (fun n => { loc := Config.spLoc n (x / 128 * 4 + x % 4) })
  | 5 => (k.chip.2[x / 2 ^ 20]?).map (fun site => { loc := Config.chipLoc k.chip.1 site (x % 2 ^ 20) })
  | _ => some { loc := Config.spLoc core x }

/-- The footprint holds every byte of its span. -/
def Copy.gapless (k : Copy) : Bool := !k.proper || k.span.2 == k.total * k.esz

/-- The footprints of two copies of one hod overlap: in one destination space of a core the spans tell, else every byte of
the first is sought in the second. -/
def State.overlap (s : State) (core : Nat) (a b : Copy) : Bool :=
  let lo := (a.dst.toNat : Int) + a.span.1
  let lo' := (b.dst.toNat : Int) + b.span.1
  let meets := decide (lo < lo' + (b.span.2 : Int)) && decide (lo' < lo + (a.span.2 : Int))
  let plain := amOf a.dam = amOf b.dam && a.dam != 0 && (amOf a.dam != 5 || a.chip == b.chip)
  if plain && !meets then false
  else if plain && a.gapless && b.gapless then true
  else (List.range a.span.2).any (fun i =>
    let c := lo + (i : Int)
    decide (0 ≤ c) && (a.position a.dst.toNat c.toNat).isSome &&
    (s.offsetPlace core a c.toNat).any (fun p => (s.copyPosition core b p).isSome))

/-- An earlier copy of the copies of a hod, not ended, holds back the first element of a copy (R224). -/
def State.heldAmong (s : State) (core : Nat) (copies : List Copy) (k : Copy) : Bool :=
  k.count == 0 && copies.any (fun j =>
    decide (j.seq < k.seq) && (j.state == .running || j.state == .frozen) && s.overlap core j k)

/-- An earlier copy of the same hod holds back the first element of a copy (R224). -/
def State.heldByEarlier (s : State) (core : Nat) (k : Copy) : Bool := s.heldAmong core (s.core core).copies k

/-! Landing, completion and faults. -/

/-- What an engine's trap comes to: a fault now, or a request and a wait (R225, R331). -/
def State.engineTrap (s : State) : Trap → Except State (FaultClass × Nat × Word)
  | .fault c n o => .ok (c, n, o)
  | .page part ia =>
    let page := ia - ia % 4096
    if s.declined.contains (part, page) then .ok (.page, 0, BitVec.ofNat 64 ia)
    else .error (s.requestPage part ia none)
  | .host die pasid page part ia =>
    if s.declined.contains (part, 2 ^ 64 + page) then .ok (.page, 0, BitVec.ofNat 64 ia)
    else .error (s.askHost die pasid page)
  | _ => .error s

/-- A PAGE fault has been taken: its mark of the declined page goes. -/
def State.undecline (s : State) (cls : FaultClass) (part : Nat) (ia : Word) : State :=
  if cls = .page then
    let page := ia.toNat - ia.toNat % 4096
    { s with declined := if s.declined.contains (part, page) then s.declined.erase (part, page)
        else s.declined.eraseP (fun d => d.1 == part && decide (2 ^ 64 ≤ d.2)) }
  else s

/-- Lands elements one after another, at most `n`, until one cannot (R220). -/
def landRun (core : Nat) (k : Copy) : Nat → Nat → State → State × Nat
  | 0, at_, s => (s, at_)
  | n + 1, at_, s =>
    match s.element core k at_ with
    | .error _ => (s, at_)
    | .ok (ps, qs) => landRun core k n (at_ + 1) (s.moveElement core ps qs)

/-- A run of elements may end after `n` of them at a position: the sector that the last one writes is done with, so that a
copy's landing in a sector is whole (R224). -/
def Copy.cut (k : Copy) (at_ n : Nat) : Bool :=
  at_ + n = k.total || (k.dstOf (at_ + n)).toNat / 32 != (k.dstOf (at_ + n - 1)).toNat / 32

/-- How many elements land together: at most 64 bytes, as many as asked for, whole sectors (R220, R224). -/
def Copy.runLength (k : Copy) (count : Nat) : Nat :=
  let most := min (64 / k.esz) (k.total - k.count)
  let cuts := ((List.range most).map (· + 1)).filter (k.cut k.count)
  (cuts.filter (· ≤ max count 1)).getLast?.getD (cuts.headD most)

/-- COUNT advances in a clock (R18, R220). -/
def Copy.advance (k : Copy) (clk at_ : Nat) : Copy :=
  { k with count := at_, landed := some (clk, k.seenCount clk) }

/-- The copy of a core that an event names. -/
def State.copyNamed (s : State) : Option Copy := (s.core s.cur.args.core).entries[s.cur.args.index]?

/-- A copy with a ring owes its record; one without is complete (R226). -/
def State.lastLanded (s : State) (core : Nat) (k : Copy) : State :=
  if k.ring.isSome then s.modCopy core k.seq (·.owe 0)
  else s.modCore core (fun c =>
    ((c.modCopy k.seq (fun k => { k with state := .complete, ended := s.clk })).fillSlot k.cbuf).settleEnd s.clk)

/-- The landing of a CPY or CPYN: a run of at most 64 bytes of consecutive positions (R220). -/
def State.land (s : State) (core : Nat) (k : Copy) (count : Nat) : State :=
  if k.count ≥ k.total then (if k.owed.isEmpty then s.lastLanded core k else s)
  else if s.heldByEarlier core k then s
  else
    match s.element core k k.count with
    | .error t => match s.engineTrap t with
      | .error s => s
      | .ok _ => s
    | .ok _ =>
      let (s, at_) := landRun core k (k.runLength count) k.count s
      let s := s.modCopy core k.seq (·.advance s.clk at_)
      if at_ = k.total then s.lastLanded core k else s

/-- A record of Table 11-8. -/
def Copy.recordBytes (k : Copy) (r : CopyRecord) (tbase : Word) : List Byte :=
  let kind : Nat := match k.kind with
    | .cpy => 0
    | .cpyn => 1
    | .cpycmb => 2
  bytesOfNat 4 (k.id.toNat + r.status * 2 ^ 16 + kind * 2 ^ 24 + (if k.cbuf.isSome then 2 ^ 26 else 0)
      + (if k.mixedOrder then 2 ^ 27 else 0)) ++
  bytesOfNat 4 r.fcode.toNat ++ bytesOfNat 8 (r.count * k.esz) ++ bytesOfNat 8 r.count ++ bytesOfNat 8 tbase.toNat

/-- FLTREC0[31:0] of a fault. -/
def fcodeOf (cls : FaultClass) (code : Nat) : BitVec 32 := 0#8 ++ BitVec.ofNat 8 cls.number ++ BitVec.ofNat 16 code

/-- CODE of a copy's fault as FLTREC0 holds it: with bit 4 when the error is rolled back (R226, R354, R364). -/
def State.copyCode (s : State) (core : Nat) (cls : FaultClass) (code : Nat) : Nat :=
  if cls = .uce && (s.core core).resil && s.restartable core then code ||| 16 else code

/-- Posts the asynchronous record of a copy (R164): the hod runs on; IDX is the number of its record in the ring. -/
def State.postCopyFault (s : State) (core : Nat) (k : Copy) (cls : FaultClass) (code : Nat) (operand : Word) : State :=
  let i : FaultInfo :=
    { cls := cls, code := BitVec.ofNat 16 code, operand := operand, pc := k.pc, async := true
      dpc := ((s.core core).ctx 11).pc
      idx := match k.ring with
        | some r => BitVec.ofNat 15 (s.spNat core (r + 0x10) 8 + k.owed.length)
        | none => 0x7FFF }
  if cls = .uce && (s.core core).resil then s.takeError core 11 i else s.takeFault core 11 i (stops := false)

/-- Why the ring of a copy takes no record now: none when it is full, else a fault of the engine. -/
def State.ringState (s : State) (core : Nat) (r : Nat) : Except (Option (FaultClass × Nat × Word)) Nat :=
  match s.ownCheck core 32 32 (BitVec.ofNat 64 r) with
  | some (code, o) => .error (some (.prot, code, o))
  | none =>
    match s.ownUce core r 32 with
    | some (code, o) => .error (some (.uce, code, BitVec.ofNat 64 o))
    | none =>
      let x := s.spNat core r 32
      if ringBad x then .error (some (.prot, 4, BitVec.ofNat 64 r))
      else if (ringFill x).toNat = 2 ^ ringLog x then .error none
      else .ok x

/-- The record of a status is no longer owed; a COMPLETE one completes the copy (R226). -/
def State.recordDone (s : State) (core : Nat) (k : Copy) (status : Nat) : State :=
  let s := s.modCopy core k.seq (fun k => { k with owed := k.owed.drop 1 })
  if status = 0 then s.modCore core (fun c =>
    ((c.modCopy k.seq (fun k => { k with state := .complete, ended := s.clk })).fillSlot k.cbuf).settleEnd s.clk)
  else s

/-- A record that cannot be written: its fault is posted, a completing copy freezes without a record (log 20). -/
def State.recordLost (s : State) (core : Nat) (k : Copy) (status : Nat) (cls : FaultClass) (code : Nat) (o : Word) :
    State :=
  ((s.postCopyFault core k cls code o).modCopy core k.seq (fun k =>
    { k with owed := k.owed.drop 1, state := if status = 0 then .frozen else k.state
             fcode := fcodeOf cls (s.copyCode core cls code) })).modCore core (Core.settleEnd s.clk)

/-- COPY_COMPLETE (R226): the oldest record that a copy owes is written, when its ring has room. -/
def execCopyComplete (s : State) : Out :=
  let core := s.cur.args.core
  match s.copyNamed with
  | none => .next s
  | some k => match k.owed, k.ring with
    | rec_ :: _, some r =>
      match s.ringState core r with
      | .error none => .next s
      | .error (some (cls, code, o)) => .next (s.recordLost core k rec_.status cls code o)
      | .ok x =>
        let head := field64 x 0x10
        match s.placeRun core k (ringMode x) { w := true } (run (ringEntry x head) 32) with
        | .error t => match s.engineTrap t with
          | .error s => .next s
          | .ok (cls, code, o) => .next (s.recordLost core k rec_.status cls code o)
        | .ok ps =>
          let s := (s.engineVisit core true ps).landBytes (ps.zip (k.recordBytes rec_ s.tbase))
          .next ((s.spWrites core (r + 0x10) (bytesOfNat 8 (head + 1).toNat)).recordDone core k rec_.status)
    | _, _ => .next s

/-- A copy freezes at COUNT: its record is posted and, with a ring, owed (R225). -/
def State.freeze (s : State) (core : Nat) (k : Copy) (cls : FaultClass) (code : Nat) (o : Word) : State :=
  (((s.undecline cls (s.core core).part.toNat o).postCopyFault core k cls code o).modCopy core k.seq (fun k =>
    { k with state := .frozen, fcode := fcodeOf cls (s.copyCode core cls code) }.owe 1)).modCore core (Core.settleEnd s.clk)

end Sys2Proof.Machine
end

