-- ==== Sys2Proof/Machine/Combine.lean ====
section
/-! DEFINITION. In-network combining (R177, R247, R248), the landing and faults of every kind of copy, and the gather
engine (R181, R246). -/

namespace Sys2Proof.Machine

/-! Routes (R243). -/

/-- One step from a coordinate toward another. -/
def toward (a b : Nat) : Nat := if a < b then a + 1 else if b < a then a - 1 else a

/-- Column and row of a router in the 16 × 16 sites of the package, whose dies stand 2 × 2 (R2). -/
def routerXY (n : Nat) : Nat × Nat := (n / 64 % 2 * 8 + n % 8, n / 128 * 8 + n % 64 / 8)

/-- The router of a column and row. -/
def routerAt (x y : Nat) : Nat := (y / 8 * 2 + x / 8) * 64 + y % 8 * 8 + x % 8

/-- The next router on the way (R243): east or west first, then north or south, over the die edges that face the
destination. -/
def nextHop (at_ goal : Nat) : Nat :=
  let (x, y) := routerXY at_
  let (u, v) := routerXY goal
  if x ≠ u then routerAt (toward x u) y else routerAt x (toward y v)

/-! Sums. -/

/-- Element bytes of a combining type (R177). -/
def combineSize (ty : BitVec 2) : Nat := if ty = 1 then 8 else 4

/-- The sum of two elements (R248). -/
def combineAdd (ty : BitVec 2) (x y : Nat) : Nat :=
  if ty = 2 then (addCodes 0 false (x, 0) (y, 0)).1 else (x + y) % 2 ^ (8 * combineSize ty)

/-- The elementwise sum of two runs of `n` elements. -/
def combineRuns (ty : BitVec 2) : Nat → List Byte → List Byte → List Byte
  | 0, _, _ => []
  | n + 1, a, b =>
    let w := combineSize ty
    bytesOfNat w (combineAdd ty (natOfBytes (a.take w)) (natOfBytes (b.take w))) ++ combineRuns ty n (a.drop w) (b.drop w)

/-- Two packets are of one group and chunk (R177, R247): the number of contributors is no part of the key. -/
def CombinePacket.meets (a b : CombinePacket) : Bool :=
  a.part == b.part && a.id == b.id && a.dst == b.dst && a.len == b.len && a.ty == b.ty && a.chunk == b.chunk

/-- A packet added into another. -/
def CombinePacket.add (a b : CombinePacket) (clk : Nat) : CombinePacket :=
  { a with sum := combineRuns a.ty (a.sum.length / combineSize a.ty) a.sum b.sum, cnt := a.cnt + b.cnt,
           overflow := a.overflow || b.overflow, since := clk, from_ := a.from_ ++ b.from_ }

/-- The elements of a group whose first byte lies in a chunk: the first and the number (log 22). -/
def chunkElements (dst len : Nat) (ty : BitVec 2) (chunk : Nat) : Nat × Nat :=
  let w := combineSize ty
  let total := len / w
  let first := (256 * chunk - dst + w - 1) / w
  let past := min total ((256 * (chunk + 1) - dst + w - 1) / w)
  (first, past - first)

/-- The home slice of a packet's chunk, on the die that holds the chunk's page. -/
def State.chunkHome (s : State) (p : CombinePacket) : Nat :=
  let die := match s.walk p.part (max p.dst (256 * p.chunk)) with
    | .leaf _ _ e => if leafRepl e then p.die else leafFrame e / 2 ^ 46
    | _ => 0
  s.homeSlice (die % 4) (256 * p.chunk)

/-- The intermediate address of a copy's AM 0 destination base. -/
def Copy.baseIa (k : Copy) : Nat := ((windowHit k.dst k.windows).map (·.2)).getD 0

/-- A contributing copy by what stays with it when its gang moves: the gang's first placement, the core's place in the gang,
its acceptance order. -/
def State.contributor (s : State) (core : Nat) (k : Copy) : Nat × Nat × Nat :=
  match s.gangOf core with
  | some g => (g.born, g.cores.idxOf core, k.seq)
  | none => (0, 0, k.seq)

/-- The core that runs a contributor's hod, while its gang is placed and not yet saved. -/
def State.contributorCore (s : State) (e : Nat × Nat × Nat) : Option Nat :=
  match s.gangs.find? (fun g => g.born == e.1) with
  | some g => if g.saveDone then none else g.cores[e.2.1]?
  | none => none

/-- The core of a contributor as it stands, in its place or among what the device keeps of its saved gang, with its number. -/
def State.contributorHod (s : State) (e : Nat × Nat × Nat) : Option (Nat × Core) :=
  match s.gangs.find? (fun g => g.born == e.1) with
  | some g => (g.cores[e.2.1]?).map (fun n => (n, if g.saveDone then g.saves.getD e.2.1 Core.reset else s.core n))
  | none => none

/-- Changes a contributing copy, in its core or in what is kept of its saved gang. -/
def State.modContributor (s : State) (e : Nat × Nat × Nat) (f : Copy → Copy) : State :=
  match s.contributorCore e with
  | some n => s.modCopy n e.2.2 f
  | none => { s with gangs := s.gangs.map (fun g =>
      if g.born == e.1 && g.saveDone then { g with saves := g.saves.modify e.2.1 (·.modCopy e.2.2 f) } else g) }

/-- The chunks of a destination, ascending. -/
def chunksOf (dst len : Nat) : List Nat := (List.range (len / 256 + 2)).filterMap (fun i =>
  let c := dst / 256 + i
  if 256 * c < dst + len then some c else none)

/-- The packets of a contribution whose source bytes are these. -/
def State.packetsOf (s : State) (core : Nat) (k : Copy) (n : Nat) (ty : BitVec 2) (data : List Byte) :
    List CombinePacket :=
  let dst := k.baseIa
  (chunksOf dst k.total).map (fun chunk =>
    let (first, num) := chunkElements dst k.total ty chunk
    { part := (s.core core).part.toNat, id := k.id, dst := dst, len := k.total, ty := ty, n := n, chunk := chunk
      sum := (data.drop (first * combineSize ty)).take (num * combineSize ty), cnt := 1, at_ := clusterOf core
      die := dieOf core, overflow := false, since := s.clk, from_ := [s.contributor core k] })

/-- A contribution is sent: every source byte is read, its destination's first byte is placed (R177, R225). -/
def State.contribute (s : State) (core : Nat) (k : Copy) : Except Trap State :=
  match k.combine, s.placeRun core k (amOf k.sam) { r := true } (run k.src k.total) with
  | none, _ => .ok s
  | _, .error t => .error t
  | some (n, ty), .ok ps =>
    match s.placeCopy core k 0 { w := true } k.dst with
    | .error t => .error t
    | .ok _ =>
      let s := s.engineVisit core false ps
      let new := s.packetsOf core k n ty (ps.map (fun p => s.mem.read p.loc))
      .ok ({ s with packets := s.packets ++ new }.modCopy core k.seq (fun k => { k with sent := true }))

/-! Routers and staging. -/

/-- Where a home slice's staged sums stand in the table of tables. -/
def stagingOf (slice : Nat) : Nat := 256 + slice

/-- The entries of a combining table or a staging buffer. -/
def State.combiner (s : State) (key : Nat) : List CombinePacket := (Table.find s.combiners key).getD []

/-- Replaces a table. -/
def State.setCombiner (s : State) (key : Nat) (l : List CombinePacket) : State :=
  { s with combiners := Table.set s.combiners key l }

/-- A packet leaves a router for the next one. -/
def State.forward (s : State) (p : CombinePacket) : State :=
  { s with packets := s.packets ++ [{ p with at_ := nextHop p.at_ (s.chunkHome p), since := s.clk }] }

/-- A packet added into the entry it meets, or a new entry. -/
def addInto (p : CombinePacket) (clk : Nat) : List CombinePacket → List CombinePacket
  | [] => [{ p with since := clk }]
  | e :: es => if e.meets p then e.add p clk :: es else e :: addInto p clk es

/-- COMBINE_PACKET_ARRIVAL (R247): at the home slice the chunk accumulates; at a router the packet is added into its
entry, stored, or passed on; an entry whose count reaches n is forwarded. -/
def execCombinePacketArrival (s : State) : Out :=
  match s.packets[s.cur.args.index]? with
  | none => .next s
  | some p =>
    let s := { s with packets := s.packets.eraseIdx s.cur.args.index }
    if p.at_ = s.chunkHome p then
      .next (s.setCombiner (stagingOf p.at_) (addInto p s.clk (s.combiner (stagingOf p.at_))))
    else
      let table := s.combiner p.at_
      if table.any (·.meets p) || table.length < 64 then
        let table := addInto p s.clk table
        match table.find? (fun e => e.meets p && decide (e.cnt ≥ e.n)) with
        | some e => .next ((s.setCombiner p.at_ (table.filter (fun e => !e.meets p))).forward e)
        | none => .next (s.setCombiner p.at_ table)
      else .next (s.forward { p with overflow := true })

/-- COMBINE_ENTRY_TIMEOUT (R247): an entry without an arrival for 16 clk is forwarded. -/
def execCombineEntryTimeout (s : State) : Out :=
  let key := s.cur.args.index
  let table := s.combiner key
  if key ≥ 256 then .next s
  else match table[s.cur.args.count]? with
    | none => .next s
    | some e =>
      if s.clk < e.since + 16 then .next s
      else .next ((s.setCombiner key (table.eraseIdx s.cur.args.count)).forward e)

/-- The staged sums of a copy's group, by ascending chunk, once every chunk has all its contributions (R177). -/
def State.staged (s : State) (core : Nat) (k : Copy) : Option (List CombinePacket) :=
  let dst := k.baseIa
  let all := (s.combiners.filter (fun e => e.1 ≥ 256)).flatMap (·.2)
  let found := (chunksOf dst k.total).map (fun c => all.find? (fun p =>
    p.part == (s.core core).part.toNat && p.id == k.id && p.dst == dst && p.len == k.total && p.chunk == c &&
    decide (p.cnt ≥ p.n) && k.combine.any (fun q => q.2 == p.ty)))
  if found.all (·.isSome) then some (found.filterMap id) else none

/-- The byte of the complete sum at a position; the bytes of a last part of an element have no stated sum and are free
values (log 22). -/
def sumByte (ps : List CombinePacket) (free : Nat → Byte) (n : Nat) : Byte :=
  match ps with
  | [] => free n
  | p :: _ =>
    let w := combineSize p.ty
    let e := n / w
    match ps.find? (fun q => let (first, num) := chunkElements q.dst q.len q.ty q.chunk; first ≤ e && e < first + num) with
    | some q => q.sum.getD (n - (chunkElements q.dst q.len q.ty q.chunk).1 * w) (free n)
    | none => free n

/-- Lands positions of a complete sum one after another until one cannot. -/
def landSum (core : Nat) (k : Copy) (byte : Nat → Byte) : Nat → Nat → State → State × Nat
  | 0, at_, s => (s, at_)
  | n + 1, at_, s =>
    match s.placeCopy core k 0 { w := true } (k.dst + BitVec.ofNat 64 at_) with
    | .error _ => (s, at_)
    | .ok p => landSum core k byte n (at_ + 1) ((s.engineVisit core true [p]).landByte p (byte at_))

/-- A contribution whose sum has landed completes with its record (R177). -/
def State.contributionLanded (s : State) (e : Nat × Nat × Nat) : State :=
  match s.contributorCore e with
  | some n => match (s.core n).copies.find? (·.seq == e.2.2) with
    | some k => if k.state == .running then s.lastLanded n k else s
    | none => s
  | none => s.modContributor e (fun k => if k.state != .running then k
      else if k.ring.isSome then k.owe 0 else { k with state := .complete, ended := s.clk })

/-- A group's last byte has landed: its staging is emptied, MIXED_ORDER is set in every contributor of an .F32 group in
which a packet overflowed, and each running contribution completes with its record (R177, R247, R248). -/
def State.sumLanded (s : State) (ps : List CombinePacket) (who : List (Nat × Nat × Nat)) : State :=
  let mixed := ps.any (fun p => p.overflow && p.ty == 2)
  let s := { s with combiners := s.combiners.map (fun e =>
    (e.1, if e.1 ≥ 256 then e.2.filter (fun p => !ps.any (·.meets p)) else e.2)) }
  who.foldl (fun s e => (s.modContributor e (fun k => { k with mixedOrder := mixed, summed := true })).contributionLanded e) s

/-- A contributing copy waits for an earlier copy of its hod, of a saved gang too (R224). -/
def State.contributorHeld (s : State) (e : Nat × Nat × Nat) : Bool :=
  match s.contributorHod e with
  | some (n, c) => (c.copies.find? (·.seq == e.2.2)).any (s.heldAmong n c.copies)
  | none => false

/-- How far the sum of a group has landed: the greatest COUNT of its contributors (R220). -/
def State.sumCount (s : State) (who : List (Nat × Nat × Nat)) (k : Copy) : Nat :=
  who.foldl (fun m e => match s.contributorHod e with
    | some (_, c) => max m (((c.copies.find? (·.seq == e.2.2)).map (·.count)).getD 0)
    | none => m) k.count

/-- The contributors of a staged group. -/
def contributorsOf (ps : List CombinePacket) : List (Nat × Nat × Nat) := (ps.head?.map (·.from_)).getD []

/-- The landing of a CPYCMB: first its contribution is sent; a complete sum then lands, and with it the COUNT of every
contributor that is neither frozen nor cancelled (R225). One that was frozen meanwhile and has been resumed goes on with what
the group has landed. -/
def State.landCombined (s : State) (core : Nat) (k : Copy) (count : Nat) : State :=
  if !k.sent then
    match s.contribute core k with
    | .ok s => s
    | .error t => match s.engineTrap t with
      | .error s => s
      | .ok _ => s
  else if k.summed then
    (if k.count ≥ k.total then (if k.owed.isEmpty then s.lastLanded core k else s)
     else (s.modCopy core k.seq (·.advance s.clk k.total)).lastLanded core k)
  else match s.staged core k with
    | none => s
    | some ps =>
      let free (n : Nat) : Byte := (Config.freeWord (s.freeCtr + n)).extractLsb' 0 8
      let who := contributorsOf ps
      let done := s.sumCount who k
      let n := { k with count := done }.runLength count
      if done ≥ k.total || who.any s.contributorHeld then s
      else
        let (s, at_) := landSum core k (sumByte ps free) n done { s with freeCtr := s.freeCtr + k.total }
        let s := who.foldl (fun s e => s.modContributor e (fun j => if j.state == .running then j.advance s.clk at_ else j)) s
        if at_ = k.total then s.sumLanded ps who else s

/-- COPY_LANDING (R220, R224): a run of consecutive positions lands. -/
def execCopyLanding (s : State) : Out :=
  match s.copyNamed with
  | none => .next s
  | some k =>
    if k.state != .running then .next s
    else if k.kind == .cpycmb then .next (s.landCombined s.cur.args.core k s.cur.args.count)
    else .next (s.land s.cur.args.core k s.cur.args.count)

/-- What stops a copy at its next element, if anything does. -/
def State.copyTrap (s : State) (core : Nat) (k : Copy) : Option Trap :=
  if k.count ≥ k.total then none
  else if k.kind == .cpycmb then
    if !k.sent then match s.contribute core k with
      | .error t => some t
      | .ok _ => none
    else if k.summed then none
    else match s.staged core k with
      | none => none
      | some ps => match s.placeCopy core k 0 { w := true } (k.dst + BitVec.ofNat 64 (s.sumCount (contributorsOf ps) k)) with
        | .error t => some t
        | .ok _ => none
  else if s.heldByEarlier core k then none
  else match s.element core k k.count with
    | .error t => some t
    | .ok _ => none

/-- COPY_FAULT (R225): a fault at the next element freezes the copy at COUNT. -/
def execCopyFault (s : State) : Out :=
  let core := s.cur.args.core
  match s.copyNamed with
  | none => .next s
  | some k =>
    if k.state != .running then .next s
    else match s.copyTrap core k with
      | none => .next s
      | some t => match s.engineTrap t with
        | .error s => .next s
        | .ok (cls, code, o) => .next (s.freeze core k cls code o)

/-! The gather engine (R181, R246). -/

/-- The address of lane `i` (R181). -/
def State.gatherAddr (s : State) (f : FE) (i : Nat) : Word :=
  s.sa f.a + ((((s.vreg f.b).getD i 0).signExtend 64) <<< (f.flg.extractLsb' 0 3).toNat)

/-- The comparator over the bytes of the elements at issue (R140, R181): a poisoned register, with the byte, or a
hold. -/
def State.gatherHeld (s : State) (os : List (Nat × Word)) : Option (Nat × Word) × Bool :=
  os.foldl (fun acc o =>
    match acc.1, s.placeByte s.cur.core s.cur.ctx.val { am := 0, need := { r := true } } 0 o.2 with
    | none, .ok p =>
      let (poison, held) := s.comparator s.cur.core s.cur.ctx.val p
      (poison.map (fun n => (n, o.2)), acc.2 || held)
    | _, _ => acc) (none, false)

/-- GATHER (R181): the request goes to the engine once the comparator holds no element. -/
def execGather (f : FE) (s : State) : Out :=
  controlOnly (f.word 0x1DB) f.g f.gn s (fun s =>
    let n := 2 ^ (f.sub.extractLsb' 0 2).toNat
    let lanes := (List.range 64).filter s.active
    let elems := lanes.map (fun i => (i, s.gatherAddr f i))
    match s.gatherHeld (elems.flatMap (fun e => offsets e.1 e.2 n)) with
    | (some (w, o), _) => .next (s.raise .wmPoison w o)
    | (none, true) => .next (s.waitTh .watermark)
    | (none, false) =>
      let window := (windowHit (s.sa f.a) (s.accessWindows s.cur.core s.cur.ctx.val)).map (·.1)
      let post : Post := .gather s.cur.core f.d n elems window.toList s.my.pc
      .next (({ s with posts := s.posts ++ [post] }.modMe (fun c => { c with gathers := c.gathers ++ [f.d] })).advance))

/-- A gather post of a core. -/
def Post.gatherOf (core : Nat) : Post → Bool
  | .gather c _ _ _ _ _ => c == core
  | _ => false

/-- The places that the engine reads, in lane order, or the first trap; only the window of reg(A) is used (R246). -/
def State.gatherPlaces (s : State) (core : Nat) (window : List (Word × Word × Word)) :
    List (Nat × Word) → Except Trap (List Place)
  | [] => .ok []
  | (_, o) :: os =>
    match s.placeIn window (0, []) core 0 { am := 0, need := { r := true } } 0 o with
    | .error t => .error t
    | .ok p =>
      match s.uceAt p with
      | some code => .error (.fault .uce code o)
      | none =>
        match State.gatherPlaces s core window os with
        | .error t => .error t
        | .ok ps => .ok (p :: ps)

/-- GATHER_REPLY (R246): the active lanes of D are filled; a fault leaves D unchanged and is posted against the GATHER,
stopping the control context (R164). -/
def execGatherReply (s : State) : Out :=
  let core := s.cur.args.core
  match s.posts.find? (Post.gatherOf core) with
  | some (.gather c reg n elems window pc) =>
    let sent := { s with posts := s.posts.erase (.gather c reg n elems window pc) }.modCore core
      (fun c => { c with gathers := c.gathers.erase reg })
    match s.gatherPlaces core window (elems.flatMap (fun e => offsets e.1 e.2 n)) with
    | .ok ps =>
      let lanes := elems.map (·.1)
      let sent := sent.engineVisit core false ps
      let bs := ps.map (fun p => sent.mem.read p.loc)
      .next (sent.modCore core (fun c =>
        let old := c.v.getD (reg.toNat - 64) VReg.zero
        { c with v := c.v.setIfInBounds (reg.toNat - 64) (Vector.ofFn (fun i : Fin 64 =>
          if lanes.contains i.val then gatherLanes n lanes bs i.val else old.getD i.val 0)) }))
    | .error t => match s.engineTrap t with
      | .error s => .next s
      | .ok (cls, code, o) =>
        let i : FaultInfo := { cls := cls, code := BitVec.ofNat 16 code, operand := o, pc := pc, async := true,
                               dpc := ((s.core core).ctx 0).pc }
        let sent := sent.undecline cls (s.core core).part.toNat o
        .next (if cls = .uce then sent.takeError core 0 i else sent.takeFault core 0 i)
  | _ => .next s

end Sys2Proof.Machine
end

