-- ==== Sys2Proof/Machine/Sync.lean ====
section
/-! DEFINITION. Events, mailboxes, timed waits, the task queue with its footprints, and hod requests (R182 to R186,
R228, R229). -/

namespace Sys2Proof.Machine

/-! Events (R182). -/

/-- The core whose event vector an EVSET or EVCLR changes: the own core, or the one that reg(A) names. -/
def State.eventTarget (s : State) (f : FE) : Option Nat :=
  if f.var = 0 then some s.cur.core else s.namedCore (s.sa f.a)

/-- Sends an event change on its way. -/
def sendEvent (f : FE) (set : Bool) (s : State) : Out :=
  match s.eventTarget f with
  | none => .next (s.raise .prot 5 (s.sa f.a))
  | some t => .next { s with posts := s.posts ++ [Post.event t (f.imm.extractLsb' 0 8) set] }.advance

/-- EVSET (R182): a release at .gang. -/
def execEvset (f : FE) (s : State) : Out :=
  guarded f.g f.gn s (fun s => sendEvent f true ((s.release s.cur.core).nonRestartable s.cur.core 3))
/-- EVCLR (R182). -/
def execEvclr (f : FE) (s : State) : Out := guarded f.g f.gn s (sendEvent f false)

/-- An event change for a core. -/
def Post.eventFor (core : Nat) : Post → Bool
  | .event c _ _ => c == core
  | _ => false

/-- EVENT_DELIVERY (R182): the oldest change reaches the vector; the EVWAITs that it satisfies wake on their turn. -/
def execEventDelivery (s : State) : Out :=
  let core := s.cur.args.core
  match s.posts.find? (Post.eventFor core) with
  | some (.event c bit set) =>
    let n := bit.toNat / 64
    let m : Word := 1#64 <<< (bit.toNat % 64)
    .next ({ s with posts := s.posts.erase (.event c bit set) }.modCore core (fun c =>
      let w := c.evw.getD n 0
      { c with evw := c.evw.setIfInBounds n (if set then w ||| m else w &&& ~~~m) }))
  | _ => .next s

/-- EVWAIT: an acquire at .gang; it clears nothing, and a zero mask completes at once. -/
def evwait (f : FE) (all : Bool) (s : State) : Out :=
  guarded f.g f.gn s (fun s =>
    let mask := s.sa f.a
    let w := s.me.evw.getD (f.sub.extractLsb' 0 2).toNat 0
    if mask = 0 || (if all then w &&& mask == mask else w &&& mask != 0) then
      retireE (s.acquire s.cur.core true) f w
    else .next (s.waitTh .evwait))

/-- EVWAIT.ANY (R182). -/
def execEvwaitAny (f : FE) (s : State) : Out := evwait f false s
/-- EVWAIT.ALL (R182). -/
def execEvwaitAll (f : FE) (s : State) : Out := evwait f true s

/-! Mailboxes (R183). -/

/-- A message of a kind on its way to a core. -/
def Post.messageFor (core : Nat) (kind : BitVec 1) : Post → Bool
  | .message c m => c == core && m.kind == kind
  | _ => false

/-- Messages in a mailbox or on their way to it. -/
def State.mailboxLoad (s : State) (core : Nat) : Nat :=
  ((s.core core).mbox.filter (·.kind == 0)).length + (s.posts.filter (Post.messageFor core 0)).length

/-- The target of an MPOST: the core that reg(A) names, or the supervisor core. -/
def State.postTarget (s : State) (f : FE) : Option Nat :=
  if f.var = 0 then s.namedCore (s.sa f.a) else (s.gangOf s.cur.core).bind (·.supervisor)

/-- MPOST (R183), a release (Table 13-2). -/
def execMpost (f : FE) (s : State) : Out :=
  guarded f.g f.gn s (fun s =>
    match s.postTarget f with
    | none => retireE s f 2
    | some t =>
      ownRead 1 32 (s.sa f.b) s (fun s x =>
        if s.mailboxLoad t ≥ 16 then .next (s.waitTh .mpost)
        else
          let m : Message := { kind := 0, ctx := s.cur.ctx.val, vx := s.me.vx, vy := s.me.vy, data := BitVec.ofNat 256 x }
          retireE ({ s.release s.cur.core with posts := s.posts ++ [Post.message t m] }.nonRestartable s.cur.core 3) f 0))

/-- The mailbox of a core has room for an entry of a kind: 16 messages, 64 fault records. -/
def Core.hasRoom (c : Core) (kind : BitVec 1) : Bool :=
  (c.mbox.filter (·.kind == kind)).length < (if kind = 0 then 16 else 64)

/-- The first entry on its way to a core for which its mailbox has room; a fault record without room waits. -/
def Post.deliverable (s : State) (core : Nat) : Post → Bool
  | .message c m => c == core && (s.core core).hasRoom m.kind
  | _ => false

/-- MESSAGE_DELIVERY (R183). -/
def execMessageDelivery (s : State) : Out :=
  let core := s.cur.args.core
  match s.posts.find? (Post.deliverable s core) with
  | some (.message c m) =>
    .next ({ s with posts := s.posts.erase (.message c m) }.modCore core (fun c => { c with mbox := c.mbox ++ [m] }))
  | _ => .next s

/-- D of an MRECV. -/
def Message.word (m : Message) : Word :=
  1#1 ++ 0#39 ++ BitVec.ofNat 4 m.ctx ++ 0#3 ++ m.kind ++ 0#3 ++ m.vy ++ 0#2 ++ m.vx

/-- MRECV: the oldest entry; an empty mailbox waits, or answers 0. -/
def mrecv (f : FE) (test : Bool) (s : State) : Out :=
  guarded f.g f.gn s (fun s =>
    ownSpan 1 32 (s.sa f.b) s (fun s =>
      match s.me.mbox with
      | [] => if test then retireE s f 0 else .next (s.waitTh .mrecv)
      | m :: ms =>
        retireE ((s.modMe (fun c => { c with mbox := ms })).spWritesOwn s.cur.core (s.sa f.b).toNat
          (bytesOfNat 32 m.data.toNat)) f m.word))

/-- MRECV (R183). -/
def execMrecv (f : FE) (s : State) : Out := mrecv f false s
/-- MRECV.TEST (R183). -/
def execMrecvTest (f : FE) (s : State) : Out := mrecv f true s

/-! Timed waits (R184). -/

/-- What is left of a relative wait. -/
def Context.waittLeft (x : Context) (clk : Nat) : Nat :=
  match x.waitt with
  | some (r, at_) => r - (clk - at_)
  | none => 0

/-- WAITT (R184): the remainder is set at the first issue. -/
def execWaitt (f : FE) (s : State) : Out :=
  guarded f.g f.gn s (fun s =>
    let s := match s.my.waitt with
      | some _ => s
      | none => s.modMy (fun x => { x with waitt := some ((s.sa f.a).toNat, s.clk) })
    if s.my.waittLeft s.clk = 0 then .next (s.modMy (fun x => { x with waitt := none })).advance
    else .next (s.waitTh .waittRel))

/-- WAITT.ABS (R184). -/
def execWaittAbs (f : FE) (s : State) : Out :=
  guarded f.g f.gn s (fun s =>
    if (s.sa f.a).toNat ≤ s.tbase.toNat then .next s.advance else .next (s.waitTh (.waittAbs (s.sa f.a))))

/-- WAITT_EXPIRY (R184). -/
def execWaittExpiry (s : State) : Out :=
  let core := s.cur.args.core
  let ctx := s.cur.args.ctx.val
  let x := (s.core core).ctx ctx
  match x.wait.map Wait.kind with
  | some WaitKind.waittRel =>
    .next (if x.waittLeft s.clk = 0 then
      (s.modCtx core ctx (fun x => { x with waitt := none })).endWait core ctx else s)
  | some (WaitKind.waittAbs t) => .next (if t.toNat ≤ s.tbase.toNat then s.endWait core ctx else s)
  | _ => .next s

/-! The task queue (R185, R228). -/

/-- The ranges of a task record: source, target offset, length (Table 8-5). -/
def taskRanges (x : Nat) : List (Word × Nat × Nat) :=
  (List.range (x / 2 ^ (8 * 0x10 + 16) % 8)).map (fun r =>
    let w := field64 x (0x28 + 16 * r)
    (field64 x (0x20 + 16 * r), (w.extractLsb' 0 17).toNat, (w.extractLsb' 32 17).toNat))

/-- Two target ranges share a byte. -/
def rangesMeet (a b : Word × Nat × Nat) : Bool := a.2.1 < b.2.1 + b.2.2 && b.2.1 < a.2.1 + a.2.2

/-- Some two of a list of ranges share a byte. -/
def anyMeet : List (Word × Nat × Nat) → Bool
  | [] => false
  | r :: rs => rs.any (rangesMeet r) || anyMeet rs

/-- What a TQPUT raises for its record (R228): PROT with its reason and operand. Bits that Table 8-5 gives as zero are
ignored, since no rule names a fault for them (DESIGN CHOICE, log 52). -/
def State.taskFault (s : State) (o : Word) (x : Nat) : Option (Nat × Word) :=
  let rs := taskRanges x
  if rs.length > 4 || rs.any (fun r => r.2.2 == 0 || r.2.2 > 131072) then some (4, o)
  else match rs.findSome? (fun r => s.ownCheck s.cur.core 1 r.2.2 (BitVec.ofNat 64 r.2.1)) with
    | some e => some e
    | none =>
      if anyMeet rs then some (4, o)
      else if !(field64 x 0x10).getLsbD 15 && (s.namedCore (field64 x 0x10)).isNone then some (5, o)
      else none

/-- TQPUT (R185): the ticket is a free nonzero 32-bit value (log 9). -/
def execTqput (f : FE) (s : State) : Out :=
  guarded f.g f.gn s (fun s =>
    ownRead 32 96 (s.sa f.a) s (fun s x =>
      match s.taskFault (s.sa f.a) x with
      | some (code, o) => .next (s.raise .prot code o)
      | none =>
        let block := clusterOf s.cur.core
        if (s.tasks.filter (fun t => t.gid == s.me.gid && t.block == block && t.at_.isNone)).length ≥ 256 then
          .next (s.waitTh .tqput)
        else
          let any := (field64 x 0x10).getLsbD 15
          let t : Task :=
            { number := s.freeCtr, gid := s.me.gid, block := block, pc := field64 x 0, arg := field64 x 8
              target := if any then none else s.namedCore (field64 x 0x10), ranges := taskRanges x
              issuer := (s.cur.core, s.cur.ctx.val), gone := false, issuePc := s.my.pc, windows := s.me.seenWindows s.clk s.cur.ctx.val
              at_ := none, started := false, pins := [] }
          let (w, s) := s.free
          retireE ({ s with tasks := s.tasks ++ [t] }.nonRestartable s.cur.core 3) f
            (BitVec.ofNat 64 (1 + w.toNat % (2 ^ 32 - 1)))))

/-- The core and helper that a task can be dispatched to (R229). -/
def State.taskPlace (s : State) (t : Task) : Option (Nat × Nat) :=
  let free (core : Nat) : Option Nat := (List.range 11).find? (fun h => 1 ≤ h && s.freeHelper core h)
  let core := match t.target with
    | some c => some c
    | none => (s.gang? t.gid).bind (fun g => g.cores.find? (fun c => (free c).isSome))
  match core with
  | none => none
  | some c =>
    let still := (s.gang? t.gid).any (fun g => g.state == .running && !g.stopping && g.fate.isNone)
    let pinned := s.tasks.any (fun u => u.at_.any (·.1 == c) && u.ranges.any (fun a => t.ranges.any (rangesMeet a)))
    if pinned || !still then none else (free c).map (fun h => (c, h))

/-- Changes the task of a number. -/
def State.modTask (s : State) (number : Nat) (f : Task → Task) : State :=
  { s with tasks := s.tasks.map (fun u => if u.number == number then f u else u) }

/-- The 4 KiB pages of a task's source ranges. -/
def Task.pages (t : Task) (part : Nat) : List (Nat × Nat) :=
  t.ranges.flatMap (fun r =>
    (List.range ((r.2.2 + 4095) / 4096 + 1)).filterMap (fun i =>
      let a := r.1 + BitVec.ofNat 64 (min (4096 * i) (r.2.2 - 1))
      (windowHit a t.windows).map (fun w => (part, w.2 - w.2 % 4096))))

/-- The source pages of a task that may be pinned: PINOK 0 refuses (R332). -/
def State.pinnable (s : State) (t : Task) (part : Nat) : List (Nat × Nat) :=
  (t.pages part).filter (fun k => match s.leafOf (clusterOf t.issuer.1) part k.2 with
    | .ok l => leafPinok l.leaf
    | .error _ => false)

/-- TASK_DISPATCH (R229): the oldest task of the queue that can be dispatched takes a helper, and its source pages are
pinned. -/
def execTaskDispatch (s : State) : Out :=
  match s.tasks.find? (fun t => t.gid == s.cur.args.gid && t.block == s.cur.args.index && t.at_.isNone &&
      (s.taskPlace t).isSome) with
  | none => .next s
  | some t => match s.taskPlace t with
    | none => .next s
    | some (core, h) =>
      let pins := s.pinnable t (s.core core).part.toNat
      .next ((s.modTask t.number (fun u => { u with at_ := some (core, h), pins := pins })).modCtx core h
        (fun x => { x with ticket := some t.number }))

/-- The source bytes of a task's ranges with their target offsets, in the order of the fetch. -/
def Task.bytes (t : Task) : List (Word × Nat) :=
  t.ranges.flatMap (fun r => (List.range r.2.2).map (fun i => (r.1 + BitVec.ofNat 64 i, r.2.1 + i)))

/-- The places of the source bytes of a footprint with their target offsets, or the first trap, through the attribute
cache of the cluster that issued the TQPUT (R327). A page that may not be pinned faults (R332). -/
def State.footprintPlaces (s : State) (t : Task) : List (Word × Nat) → Except Trap (List (Place × Nat))
  | [] => .ok []
  | (a, off) :: bs =>
    match s.placeIn t.windows (0, []) t.issuer.1 11 { am := 0, need := { r := true } } 0 a with
    | .error e => .error e
    | .ok p =>
      if p.leaf.any (fun l => !leafPinok l.leaf) then .error (.fault .prot 9 a)
      else match s.uceAt p with
      | some code => .error (.fault .uce code a)
      | none => match State.footprintPlaces s t bs with
        | .error e => .error e
        | .ok ps => .ok ((p, off) :: ps)

/-- Fetches the footprint of a task into its core: whole, or without effect (R359). -/
def State.fetchFootprint (s : State) (t : Task) (core : Nat) : Except Trap State :=
  match s.footprintPlaces t t.bytes with
  | .error e => .error e
  | .ok ps =>
    let s := s.engineVisit t.issuer.1 false (ps.map (·.1))
    .ok (ps.foldl (fun s p => s.spWriteForeign core p.2 (s.mem.read p.1.loc)) s)

/-- A footprint fault (R229): the task is discarded, its helper freed, and the record posted against the TQPUT. When the
issuing context has ended it names no context (CTX 12) and stops none, whatever runs under that number now; the record goes the
way of every other (R357, R365). -/
def State.footprintFault (s : State) (t : Task) (cls : FaultClass) (code : Nat) (o : Word) : State :=
  let s := match t.at_ with
    | some (core, h) => s.modCtx core h (fun x => { x with ticket := none })
    | none => s
  let s := { s with tasks := s.tasks.filter (·.number != t.number) }
  let x := (s.core t.issuer.1).ctx t.issuer.2
  let i : FaultInfo := { cls := cls, code := BitVec.ofNat 16 code, operand := o, pc := t.issuePc, async := true,
                         dpc := x.pc }
  let ctx := if t.gone || !x.live || x.halted then 12 else t.issuer.2
  if cls = .uce then s.takeError t.issuer.1 ctx i else s.takeFault t.issuer.1 ctx i

/-- FOOTPRINT_COMPLETE (R229): every byte has landed and the helper starts, or the fetch has failed. -/
def execFootprintComplete (s : State) : Out :=
  match s.tasks.find? (fun t => t.number == s.cur.args.index && !t.started) with
  | none => .next s
  | some t => match t.at_ with
    | none => .next s
    | some (core, h) =>
      match s.fetchFootprint t core with
      | .ok s' =>
        let s' := (s'.startContext core h t.pc t.arg s.clk).modCtx core h (fun x => { x with ticket := some t.number })
        .next (s'.modTask t.number (fun u => { u with started := true, pins := t.pages (s'.core core).part.toNat }))
      | .error trap => match s.engineTrap trap with
        | .error s => .next s
        | .ok (cls, code, o) =>
          .next ((s.undecline cls (s.core core).part.toNat o).footprintFault t cls code o)

/-! Hod requests (R186). -/

/-- HODQ (R186). -/
def execHodq (f : FE) (s : State) : Out :=
  guarded f.g f.gn s (fun s =>
    ownRead 1 32 (s.sa f.b) s (fun s x =>
      if s.me.hodq.length ≥ 8 then .next (s.waitTh .hodq)
      else
        let r : HodRequest := { ctx := s.cur.ctx.val, data := BitVec.ofNat 256 x }
        retireE ((s.modMe (fun c => { c with hodq := c.hodq ++ [r] })).nonRestartable s.cur.core 3) f 0))

/-- HODR: the oldest request; an empty queue waits, or answers 0. -/
def hodr (f : FE) (test : Bool) (s : State) : Out :=
  hodOnly (f.word 0x1E4) f.g f.gn s (fun s =>
    ownSpan 1 32 (s.sa f.b) s (fun s =>
      match s.me.hodq with
      | [] => if test then retireE s f 0 else .next (s.waitTh .hodr)
      | r :: rs =>
        retireE ((s.modMe (fun c => { c with hodq := rs })).spWritesOwn s.cur.core (s.sa f.b).toNat
          (bytesOfNat 32 r.data.toNat)) f (BitVec.ofNat 64 (r.ctx + 1))))

/-- HODR (R186). -/
def execHodr (f : FE) (s : State) : Out := hodr f false s
/-- HODR.TEST (R186). -/
def execHodrTest (f : FE) (s : State) : Out := hodr f true s

end Sys2Proof.Machine
end

