-- ==== Sys2Proof/Machine/Cells.lean ====
section
/-! DEFINITION. The cell directory, the cell instructions, installation with the cycle check, and the flip and the abort
of a wave (R187, R284 to R303, R306, R307). -/

namespace Sys2Proof.Machine

/-! The directory. -/

/-- The code of a state (R187). -/
def CellState.code : CellState → Nat
  | .settled => 0 | .pending => 1 | .recomputed => 2 | .circular => 3 | .blocked => 4 | .failed => 5

/-- The cell of an id. -/
def Partition.cell? (p : Partition) (id : Nat) : Option Cell := Table.find p.cells id

/-- Changes the cell of an id. -/
def Partition.modCell (p : Partition) (id : Nat) (f : Cell → Cell) : Partition :=
  { p with cells := p.cells.map (fun e => if e.1 == id then (e.1, f e.2) else e) }

/-- The state of a cell is one of a list. -/
def Partition.inState (p : Partition) (id : Nat) (l : List CellState) : Bool :=
  (p.cell? id).any (fun c => l.contains c.state)

/-- Directory entries in use: cells and chained descriptors (R286). -/
def Partition.usedEntries (p : Partition) : List Nat := p.cells.flatMap (fun e => e.1 :: e.2.chain)

/-- The lowest number from `n` up that is not in use, among `fuel`. -/
def lowestFree (used : List Nat) : Nat → Nat → Option Nat
  | 0, _ => none
  | fuel + 1, n => if used.contains n then lowestFree used fuel (n + 1) else some n

/-- The `k` lowest free entries of the directory. -/
def Partition.freeEntries (p : Partition) : Nat → List Nat → List Nat
  | 0, _ => []
  | k + 1, used =>
    match lowestFree used 65536 0 with
    | some n => n :: p.freeEntries k (n :: used)
    | none => []

/-- Cells that name some of a set as a precedent. -/
def Partition.dependantsOf (p : Partition) (ids : List Nat) : List Nat :=
  (p.cells.filter (fun e => e.2.prec.any ids.contains)).map (·.1)

/-- Grows a set of cells by dependants until nothing is new, at most `fuel` times. -/
def Partition.close (p : Partition) : Nat → List Nat → List Nat
  | 0, seen => seen
  | fuel + 1, seen =>
    let new := (p.dependantsOf seen).filter (fun n => !seen.contains n)
    if new.isEmpty then seen else Partition.close p fuel (seen ++ new)

/-- The transitive dependants of a cell. -/
def Partition.downstream (p : Partition) (id : Nat) : List Nat :=
  p.close p.cells.length (p.dependantsOf [id])

/-! Waves (R290). -/

/-- The open wave. -/
def Partition.openWave (p : Partition) : Option Wave := p.waves.find? (fun w => !w.sealed)

/-- Changes the wave of a number. -/
def Partition.modWave (p : Partition) (n : BitVec 32) (f : Wave → Wave) : Partition :=
  { p with waves := p.waves.map (fun w => if w.number == n then f w else w) }

/-- Opens a wave when none is open; NEXT passes from 2^32 − 1 to 1. -/
def Partition.ensureOpen (p : Partition) : Partition :=
  if p.openWave.isSome then p
  else
    let w : Wave := { number := p.next, sealed := false, members := [], placed := [], failing := [], staged := [], kept := [] }
    { p with waves := p.waves ++ [w], next := if p.next = 0xFFFFFFFF then 1 else p.next + 1 }

/-- A cell is a member of a wave. -/
def Wave.has (w : Wave) (id : Nat) : Bool := w.members.any (·.1 == id)

/-- Makes a cell a member of the open wave. -/
def Partition.join (p : Partition) (id : Nat) (put : Bool) (st : CellState) : Partition :=
  let p := p.ensureOpen
  match p.openWave with
  | none => p
  | some w =>
    (p.modWave w.number (fun w => { w with members := w.members.filter (·.1 != id) ++ [(id, put)] })).modCell id
      (fun c => { c with state := st, wave := w.number })

/-- Takes a cell out of the open wave; an open wave left without members is discarded (R300). -/
def Partition.leave (p : Partition) (id : Nat) : Partition :=
  let ws := p.waves.map (fun w =>
    if w.sealed then w else { w with members := w.members.filter (·.1 != id) })
  { p with waves := ws.filter (fun w => w.sealed || !w.members.isEmpty) }

/-- A cell is a member of a sealed wave. -/
def Partition.inSealed (p : Partition) (id : Nat) : Bool :=
  p.waves.any (fun w => w.sealed && w.members.any (·.1 == id))

/-- A cell is a member of the open wave. -/
def Partition.inOpen (p : Partition) (id : Nat) : Bool :=
  p.waves.any (fun w => !w.sealed && w.members.any (·.1 == id))

/-! Binding records (R288). -/

/-- PC of a binding record. -/
def bindPc (x : Nat) : Word := field64 x 0
/-- NP. -/
def bindNp (x : Nat) : Nat := ((field64 x 8).extractLsb' 16 7).toNat
/-- The precedents. -/
def bindPrec (x : Nat) : List Nat := (List.range (bindNp x)).map (fun i => x / 2 ^ (8 * (0x20 + 2 * i)) % 65536)
/-- FOFF. -/
def bindFoff (x : Nat) : Nat := ((field64 x 0x10).extractLsb' 0 17).toNat
/-- WINTAB, as an intermediate address. -/
def bindWintab (x : Nat) : Nat := (field64 x 0x18).toNat % 2 ^ 56

/-- The places of a footprint: offset of each precedent and its extent (R294). -/
def Partition.footprint (p : Partition) : Nat → List Nat → List (Nat × Nat × Nat)
  | _, [] => []
  | off, id :: ids =>
    let e := match p.cell? id with
      | some c => c.extent
      | none => 0
    (id, off, e) :: p.footprint (off + (e + 63) / 64 * 64) ids

/-- Chained descriptors of a number of precedents. -/
def chainLength (np : Nat) : Nat := (np - 8 + 23) / 24

/-- A list holds an entry twice. -/
def repeats : List Nat → Bool
  | [] => false
  | x :: xs => xs.contains x || repeats xs

/-- A bad binding record (R288). -/
def Partition.badBinding (p : Partition) (id x : Nat) : Bool :=
  let np := bindNp x
  let prec := bindPrec x
  let have_ := match p.cell? id with
    | some c => c.chain.length
    | none => 0
  (field64 x 8 &&& ~~~0x7F0307#64) != 0 || (field64 x 0x10 &&& ~~~0x1FFFF#64) != 0 ||
  (field64 x 0x18 &&& 0xFF0000000000003F#64) != 0 || np > 64 || x / 2 ^ (8 * (0x20 + 2 * np)) != 0 ||
  prec.any (fun i => (p.cell? i).isNone) || repeats prec || (bindPc x == 0) != (np == 0) ||
  (p.footprint (bindFoff x) prec).any (fun e => e.2.1 + e.2.2 > 131072) ||
  (p.freeEntries (chainLength np - have_) p.usedEntries).length < chainLength np - have_

/-! Installation and the cycle check (R299 to R302). -/

/-- A cell lies on a cycle. -/
def Partition.cyclic (p : Partition) (id : Nat) : Bool := (p.downstream id).contains id

/-- A check has made a cell CIRCULAR, or will have at the end of its wave. -/
def Partition.circular (p : Partition) (id : Nat) : Bool :=
  (p.cell? id).any (fun c => c.state == .circular || c.after == some .circular)

/-- A cell is CIRCULAR after an installation: it lies on a cycle and its component holds the rebound cell or lies upstream
of it, or an earlier check found it so (R300). -/
def Partition.turnsCircular (p : Partition) (rebound id : Nat) : Bool :=
  p.cyclic id && (id == rebound || (p.downstream id).contains rebound || p.circular id)

/-- Where the check after an installation puts a cell: on a cycle, below one, or nowhere (R300, R302). -/
def Partition.verdict (p : Partition) (rebound id : Nat) : Option CellState :=
  if p.turnsCircular rebound id then some .circular
  else if p.cells.any (fun e => p.turnsCircular rebound e.1 && (p.downstream e.1).contains id) then some .blocked
  else none

/-- The check applied to one cell; with `input` the rebound cell is bound to PC 0 and stays SETTLED when it leaves a cycle
(R299). -/
def Partition.checkCell (p : Partition) (rebound : Nat) (input : Bool) (id : Nat) : Partition :=
  match p.verdict rebound id with
  | some st =>
    if p.inState id [.settled, .failed, .circular, .blocked] then p.modCell id (fun c => { c with state := st })
    else if p.inOpen id && p.inState id [.pending] then (p.leave id).modCell id (fun c => { c with state := st })
    else p.modCell id (fun c => { c with after := some st })
  | none =>
    let p := p.modCell id (fun c => { c with after := none })
    if !p.inState id [.circular, .blocked] then p
    else if input && id == rebound then p.modCell id (fun c => { c with state := .settled })
    else p.join id false .pending

/-- Makes a list of cells that are SETTLED or FAILED members of the open wave. -/
def Partition.mark (p : Partition) (ids : List Nat) : Partition :=
  ids.foldl (fun p id => if p.inState id [.settled, .failed] then p.join id false .pending else p) p

/-- The cells whose distance to a cell along dependant edges is 0, 1, 2 and so on. -/
def Partition.layers (p : Partition) : Nat → List Nat → List Nat → List (List Nat)
  | 0, _, _ => []
  | fuel + 1, seen, now =>
    if now.isEmpty then []
    else
      let prev := (now.flatMap (fun id => match p.cell? id with
        | some c => c.prec
        | none => [])).filter (fun id => !seen.contains id)
      now :: p.layers fuel (seen ++ prev) prev

/-- Follows dependant edges through layers, the lowest id first. -/
def Partition.follow (p : Partition) (id : Nat) : List (List Nat) → List Nat
  | [] => []
  | l :: ls =>
    match (p.cells.map (·.1)).find? (fun d => l.contains d && (p.dependantsOf [id]).contains d) with
    | some d => d :: p.follow d ls
    | none => []

/-- The shortest cycle through a cell, in cycle order from it (R301). -/
def Partition.cycle (p : Partition) (id : Nat) : List Nat :=
  let ls := p.layers (p.cells.length + 1) [id] [id]
  let deps := p.dependantsOf [id]
  match ls.findIdx? (fun l => l.any deps.contains) with
  | none => [id]
  | some n => id :: (p.follow id ((ls.take (n + 1)).reverse)).filter (· != id)

/-- The records of an installation that leaves the rebound cell on a cycle: code and operand of each (R301). -/
def cycleRecords (cells : List Nat) : List (Nat × Word) :=
  let word (l : List Nat) : Word :=
    BitVec.ofNat 64 ((l.zipIdx.map (fun e => e.1 * 65536 ^ e.2)).foldl (· + ·) 0)
  let first := cells.take 4
  let second := (cells.drop 4).take 4
  (first.length, word first) :: (if second.isEmpty then [] else [(second.length + 8, word second)])

/-- The level of a member of a wave: 0 when it was put, else one more than the greatest of its precedents in the wave
(R293). -/
def Partition.level (p : Partition) (w : Wave) : Nat → Nat → Nat
  | 0, _ => 0
  | fuel + 1, id =>
    if w.members.contains (id, true) then 0
    else match p.cell? id with
      | none => 0
      | some c => 1 + ((c.prec.filter w.has).map (p.level w fuel)).foldl max 0

/-- The level of a member. -/
def Partition.levelOf (p : Partition) (w : Wave) (id : Nat) : Nat := p.level w (w.members.length + 1) id

/-- The members of the open wave hold their level in it (Table 17-1). -/
def Partition.setLevels (p : Partition) : Partition :=
  match p.openWave with
  | none => p
  | some w => { p with cells := p.cells.map (fun e =>
      if w.has e.1 then (e.1, { e.2 with level := BitVec.ofNat 16 (p.levelOf w e.1) }) else e) }

/-- A cell with the binding of another. -/
def Cell.withBinding (c k : Cell) : Cell :=
  { c with pc := k.pc, prec := k.prec, chain := k.chain, gwm1 := k.gwm1, ghm1 := k.ghm1, wintab := k.wintab, foff := k.foff }

/-- The directory as a sealed wave sees it: its members with the bindings that it began with (R298). -/
def Partition.asOf (p : Partition) (w : Wave) : Partition :=
  { p with cells := p.cells.map (fun e => match w.kept.find? (·.1 == e.1) with
    | some k => (e.1, e.2.withBinding k.2)
    | none => e) }

/-- Sealed waves keep the binding of a cell that is one of their members and is bound anew (R298). -/
def Partition.keepBinding (p : Partition) (id : Nat) : Partition :=
  match p.cell? id with
  | none => p
  | some c => { p with waves := p.waves.map (fun w =>
      if w.sealed && w.has id && !w.kept.any (·.1 == id) then { w with kept := w.kept ++ [(id, c)] } else w) }

/-- Installs a binding: its fields, the cycle check, the marking; answers the records to post. -/
def Partition.install (p : Partition) (id : Nat) (x : Nat) : Partition × List (Nat × Word) :=
  let np := bindNp x
  let p := p.keepBinding id
  let p := p.modCell id (fun c => { c with chain := [] })
  let chain := p.freeEntries (chainLength np) p.usedEntries
  let p := p.modCell id (fun c =>
    { c with pc := bindPc x, prec := bindPrec x, chain := chain, gwm1 := (field64 x 8).extractLsb' 0 3,
             ghm1 := (field64 x 8).extractLsb' 8 2, wintab := bindWintab x, foff := bindFoff x })
  let input := bindPc x == 0
  let p := if input && p.inOpen id && p.inState id [.pending] then
      (p.leave id).modCell id (fun c => { c with state := .settled })
    else if input && p.inState id [.failed] then p.modCell id (fun c => { c with state := .settled })
    else p
  let p := (p.cells.map (·.1)).foldl (fun p i => p.checkCell id input i) p
  let p := p.mark (if input then (p.downstream id).filter (· != id) else id :: p.downstream id)
  (p.setLevels, if p.cyclic id then cycleRecords (p.cycle id) else [])

/-- Posts the records of an installation: to the supervisor mailbox of the gang that issued the CELL.BIND, if it still
exists and is supervised (of a saved gang they wait for its restore), else to the host through firmware; nothing stops and
no gang ends (R301, R307). -/
def State.postCycle (s : State) (part : Nat) (b : Binding) (rs : List (Nat × Word)) : State :=
  rs.foldl (fun s r =>
    let (dpc, s) := s.free
    let i : FaultInfo := { cls := .cellCyc, code := BitVec.ofNat 16 r.1, operand := r.2, pc := b.pc, async := true,
                           dpc := dpc }
    let rec_ := faultRecord false (BitVec.ofNat 4 part) 12 b.vy b.vx i
    let s := { s with records := (rec_ :: s.records).take 4096 }
    let m : Message := { kind := 1, ctx := 12, vx := b.vx, vy := b.vy, data := rec_.bytes }
    match s.gangs.find? (fun g => g.born == b.gang) with
    | some g => match g.supervisor with
      | some sup =>
        if g.state == .saved || g.saveDone then s.modGang g.gid (fun g => { g with held := g.held ++ [m] })
        else { s with posts := s.posts ++ [Post.message sup m] }
      | none => { s with notices := .record rec_ :: s.notices }
    | none => { s with notices := .record rec_ :: s.notices }) s

/-- Installs one binding of a partition. -/
def State.installBinding (s : State) (part id : Nat) (b : Binding) : State :=
  if ((s.part part).cell? id).isNone then s
  else
    let (p, rs) := (s.part part).install id b.record
    (s.modPart part (fun _ => p)).postCycle part b rs

/-! What the engine recalculates next (R292, R293). -/

/-- A member of a wave whose formula task the engine may place: PENDING, not placed, every member of a lower level
RECOMPUTED. -/
def Partition.placeable (p : Partition) (w : Wave) (id : Nat) : Bool :=
  p.inState id [.pending] && !w.placed.contains id &&
  w.members.all (fun m => decide (p.levelOf w m.1 ≥ p.levelOf w id) || p.inState m.1 [.recomputed])

/-- The next formula task: of the sealed waves that are not aborting, the first with a task to place, its cell lowest
in level and then in id. -/
def Partition.formulaNext (p : Partition) : Option (Wave × Nat) :=
  (p.waves.filter (fun w => w.sealed && w.failing.isEmpty)).findSome? (fun w =>
    ((p.cells.map (·.1)).find? (fun id => w.has id && (p.asOf w).placeable w id)).map (fun id => (w, id)))

/-! The cell instructions (R187). -/

/-- The partition of the core whose turn it is. -/
def State.myPart (s : State) : Nat := s.me.part.toNat

/-- Changes the partition of the core whose turn it is. -/
def State.modMyPart (s : State) (f : Partition → Partition) : State := s.modPart s.myPart f

/-- A status 2^63 + reason. -/
def failStatus (n : Nat) : Word := BitVec.ofNat 64 (2 ^ 63 + n)

/-- A cell instruction: it makes the superstep non-restartable (R363). -/
def cellOp (f : FE) (s : State) (k : State → Out) : Out :=
  guarded f.g f.gn s (fun s => k (s.nonRestartable s.cur.core 3))

/-- Goes on with the cell that reg(A) names, or raises CELLSTATE. -/
def namedCell (f : FE) (s : State) (k : Nat → Cell → Out) : Out :=
  match (s.part s.myPart).cell? (s.sa f.a).toNat with
  | none => .next (s.raise .cellState 0 (s.sa f.a))
  | some c => k (s.sa f.a).toNat c

/-- The multiples of 64 below a length: every boundary of a window or a page is one of them. -/
def granules (n : Nat) : List Nat := (List.range ((n + 63) / 64)).map (· * 64)

/-- Translates the buffers of a CELL.DEF, byte by byte as far as faults go: the intermediate address and leaf of each
granule, or the first trap (R287). -/
def State.defBytes (s : State) : List Word → Except Trap (List (Nat × Word))
  | [] => .ok []
  | va :: vs =>
    match windowHit va (s.accessWindows s.cur.core s.cur.ctx.val) with
    | none => .error (.fault .winMiss 0 va)
    | some ((_, _, i), ia) =>
      if ia ≥ 2 ^ 56 then .error (.fault .winMiss 1 va)
      else if !i.getLsbD 0 || !i.getLsbD 1 then .error (.fault .prot 1 va)
      else match s.leafOf (clusterOf s.cur.core) s.myPart ia with
        | .error (.fault c n _) => .error (.fault c n va)
        | .error t => .error t
        | .ok l => match s.defBytes vs with
          | .error t => .error t
          | .ok r => .ok ((ia, l.leaf) :: r)

/-- A shape that R284 admits, with its extent. -/
def cellShape (w : Word) : Option Cell :=
  let ty := (w.extractLsb' 16 4).toNat
  let rows := (w.extractLsb' 8 7).toNat
  let cols := (w.extractLsb' 0 7).toNat
  let c : Cell := { buf0 := 0, buf1 := 0, state := .settled, sel := false, ty := w.extractLsb' 16 4, rows := rows,
                    cols := cols, pc := 0, prec := [], chain := [], gwm1 := 0, ghm1 := 0, gen := 0, wave := 0, level := 0,
                    wintab := 0, foff := 0, after := none }
  if (w &&& ~~~0xF7F7F#64) == 0 && typeBits ty != 0 && 1 ≤ rows && rows ≤ 64 && 1 ≤ cols && cols ≤ 64 &&
      c.extent ≤ 16384 then some c else none

/-- Two runs of one length share a byte. -/
def runsMeet (a b n m : Nat) : Bool := a < b + m && b < a + n

/-- CELL.DEF (R287). The word at 0x18 of its record, zero in Table 17-2, is not looked at: the rule's list of reason 2 does not
name it (DESIGN CHOICE, log 52). -/
def execCellDef (f : FE) (s : State) : Out :=
  cellOp f s (fun s =>
    ownRead 32 32 (s.sa f.b) s (fun s x =>
      let va0 := field64 x 0
      let va1 := field64 x 8
      match cellShape (field64 x 0x10) with
      | none => retireE s f (failStatus 2)
      | some c =>
        let e := c.extent
        if va0.toNat % 64 ≠ 0 || va1.toNat % 64 ≠ 0 || runsMeet va0.toNat va1.toNat e e then retireE s f (failStatus 2)
        else
          let vas := (granules e).map (fun n => va0 + BitVec.ofNat 64 n) ++ (granules e).map (fun n => va1 + BitVec.ofNat 64 n)
          match s.defBytes vas with
          | .error t => s.settle t
          | .ok ps =>
            let ia0 := (ps.headD (0, 0)).1
            let ia1 := (ps.getD (granules e).length (0, 0)).1
            let p := s.part s.myPart
            if ps.any (fun q => leafOwner q.2 != s.myPart) then retireE s f (failStatus 4)
            else if ps.any (fun q => !leafCell q.2) then retireE s f (failStatus 3)
            else if runsMeet ia0 ia1 e e || p.cells.any (fun k => [k.2.buf0, k.2.buf1].any (fun b =>
                runsMeet ia0 b e k.2.extent || runsMeet ia1 b e k.2.extent)) then retireE s f (failStatus 2)
            else match lowestFree p.usedEntries 65536 0 with
              | none => retireE s f (failStatus 1)
              | some id =>
                retireE (s.modMyPart (fun p => { p with cells := Table.set p.cells id { c with buf0 := ia0, buf1 := ia1 } })) f
                  (BitVec.ofNat 64 id)))

/-- CELL.BIND (R288, R298). -/
def execCellBind (f : FE) (s : State) : Out :=
  cellOp f s (fun s =>
    ownRead 32 160 (s.sa f.b) s (fun s x =>
      namedCell f s (fun id _ =>
        let p := s.part s.myPart
        if p.badBinding id x then retireE s f (failStatus 2)
        else
          let b : Binding := { record := x, gid := s.me.gid, gang := ((s.gangOf s.cur.core).map (·.born)).getD 0
                               vx := s.me.vx, vy := s.me.vy, pc := s.my.pc }
          match (p.waves.filter (·.sealed)).getLast? with
          | none => retireE (s.installBinding s.myPart id b) f 0
          | some w => retireE (s.modMyPart (·.modWave w.number (fun w =>
              { w with staged := w.staged.filter (·.1 != id) ++ [(id, b)] }))) f 1)))

/-- The places of a run of intermediate addresses that the engine writes (R290). -/
def State.enginePlaces (s : State) (core ia n : Nat) : Except Trap (List Place) :=
  (List.range n).foldr (fun i acc =>
    match acc, s.translate core 11 (s.core core).part.toNat (ia + i) { w := true } (BitVec.ofNat 64 i) false with
    | .error t, .ok _ => .error t
    | _, .error t => .error t
    | .ok ps, .ok p => .ok (p :: ps)) (.ok [])

/-- The transitive dependants of a PUT and the cell itself: none may be a member of a sealed wave (R290). -/
def Partition.putWaits (p : Partition) (id : Nat) : Bool := (id :: p.downstream id).any p.inSealed

/-- CELL.PUT (R290, R291), which waits with wave 0, the number of no wave, also for reads of the
buffer that it writes (R297): accepted, it joins the open wave, marks its
dependants and lands at the home; ordered after every earlier access of its context at .sys. -/
def execCellPut (f : FE) (s : State) : Out :=
  cellOp f s (fun s =>
    ownSpan 32 0 (s.sa f.b) s (fun s =>
      namedCell f s (fun id c =>
        if c.pc ≠ 0 then .next (s.raise .cellState 3 (s.sa f.a))
        else ownRead 32 c.extent (s.sa f.b) s (fun s x =>
          if (s.part s.myPart).putWaits id || s.bufferRead s.myPart c.back then .next (s.waitTh (.cell id 0))
          else match s.enginePlaces s.cur.core c.back c.extent with
            | .error t => s.settle t
            | .ok ps =>
              let s := (s.release s.cur.core).engineVisit s.cur.core true ps
              let s := s.modMyPart (fun p => ((p.join id true .recomputed).mark ((p.downstream id).filter (· != id))).setLevels)
              let s := s.landBytes (ps.zip (bytesOfNat c.extent x))
              retireE s f (match (s.part s.myPart).openWave with
                | some w => w.number.zeroExtend 64
                | none => 0)))))

/-- CELL.GET (R187, R123): the buffer under the view, copied into the own scratchpad. -/
def execCellGet (f : FE) (s : State) : Out :=
  cellOp f s (fun s =>
    ownSpan 32 0 (s.sa f.b) s (fun s =>
      namedCell f s (fun _ c =>
        ownSpan 32 c.extent (s.sa f.b) s (fun s =>
          match s.loadBytes { am := 6, need := { r := true }, cell := s.sa f.a, vw := f.var } (offsets 0 0 c.extent) with
          | .error t => s.settle t
          | .ok (bs, s) => retireE (s.spWritesOwn s.cur.core (s.sa f.b).toNat bs) f 0))))

/-- Seals the open wave of a partition: its number, or 2^63 + 1 (R292). -/
def Partition.commit (p : Partition) : Word × Partition :=
  match p.openWave with
  | none => (failStatus 1, p)
  | some w => (w.number.zeroExtend 64, p.modWave w.number (fun w => { w with sealed := true }))

/-- CELL.COMMIT (R292). -/
def execCellCommit (f : FE) (s : State) : Out :=
  cellOp f s (fun s =>
    let (w, p) := (s.part s.myPart).commit
    retireE (s.modMyPart (fun _ => p)) f w)

/-- CELL.STATE (R187). -/
def execCellState (f : FE) (s : State) : Out :=
  cellOp f s (fun s => namedCell f s (fun _ c => retireE s f (c.gen ++ BitVec.ofNat 32 c.state.code)))
/-- CELL.STATE.FLIP (R187). -/
def execCellStateFlip (f : FE) (s : State) : Out :=
  cellOp f s (fun s => retireE s f ((s.part s.myPart).lastFlip.zeroExtend 64))
/-- CELL.STATE.ABORT (R187). -/
def execCellStateAbort (f : FE) (s : State) : Out :=
  cellOp f s (fun s => retireE s f ((s.part s.myPart).lastAbort.zeroExtend 64))

/-- The bindings staged in a partition: cell and record. -/
def Partition.staged (p : Partition) : List (Nat × Binding) := p.waves.flatMap (·.staged)

/-- A cell has dependants: others that name it, or a staged binding of another cell that does (R187, R298). -/
def Partition.hasDependants (p : Partition) (id : Nat) : Bool :=
  p.cells.any (fun e => e.1 != id && e.2.prec.contains id) ||
  p.staged.any (fun e => e.1 != id && (bindPrec e.2.record).contains id)

/-- CELL.DROP (R187). -/
def execCellDrop (f : FE) (s : State) : Out :=
  cellOp f s (fun s => namedCell f s (fun id _ =>
    let p := s.part s.myPart
    if p.hasDependants id then retireE s f (failStatus 1)
    else if (p.waveOf id).isSome then retireE s f (failStatus 2)
    else if p.staged.any (·.1 == id) then retireE s f (failStatus 3)
    else retireE (s.modMyPart (fun p => { p with cells := Table.erase p.cells id })) f 0))

/-! The flip and the abort (R296, R303). -/

/-- The sealed wave whose turn to flip or abort it is (R292). -/
def Partition.firstSealed (p : Partition) : Option Wave := p.waves.find? (·.sealed)

/-- A member at the flip of its wave. -/
def Cell.flip (w : BitVec 32) (c : Cell) : Cell :=
  { c with sel := !c.sel, gen := c.gen + 1, wave := w, state := c.after.getD .settled, after := none }

/-- A member at the abort of its wave. -/
def Cell.abort (failed : Bool) (c : Cell) : Cell :=
  { c with state := if failed then .failed else c.after.getD .settled, after := none }

/-- What a settled-view read that waits for the end of a wave selects when that wave has ended (R123, R296, R303): the front
that the cell now has, with its state; of a cell that the end left CIRCULAR, BLOCKED or FAILED it raises CELLCYC or CELLSTATE
as it issues again (R306). -/
def Partition.release (p : Partition) (wave : Nat) (x : Context) : Context :=
  match x.wait with
  | none => x
  | some k => match k.kind with
    | .cell id w =>
      if w ≠ wave then x
      else { x with cellSel := (p.cell? id).map (fun c => { id := id, extent := c.extent, buf := c.front, state := c.state }) }
    | _ => x

/-- Releases the reads that wait for a wave. -/
def State.releaseReads (s : State) (part wave : Nat) : State :=
  let p := s.part part
  let free (x : Context) : Context := p.release wave x
  { s with cores := s.cores.map (fun e =>
      (e.1, if e.2.part.toNat == part then { e.2 with ctxs := e.2.ctxs.map free } else e.2)) }

/-- Removes a wave, installs the bindings staged to it in the order of their acceptance, and releases the reads that
waited for it. -/
def State.endWave (s : State) (part : Nat) (w : Wave) : State :=
  (w.staged.foldl (fun s e => s.installBinding part e.1 e.2)
    (s.modPart part (fun p => { p with waves := p.waves.filter (·.number != w.number) }))).releaseReads part w.number.toNat

/-- WAVE_FLIP (R296): every member of the lowest sealed wave is RECOMPUTED and no task of it has failed. -/
def execWaveFlip (s : State) : Out :=
  let part := s.cur.args.part
  let p := s.part part
  match p.firstSealed with
  | none => .next s
  | some w =>
    if !w.failing.isEmpty || !w.members.all (fun m => p.inState m.1 [.recomputed]) then .next s
    else
      let s := s.modPart part (fun p =>
        { w.members.foldl (fun p m => p.modCell m.1 (Cell.flip w.number)) p with lastFlip := w.number })
      .next (s.endWave part w)

/-- WAVE_ABORT (R303): every formula task of the lowest sealed wave, one of which has failed, has ended. -/
def execWaveAbort (s : State) : Out :=
  let part := s.cur.args.part
  let p := s.part part
  match p.firstSealed with
  | none => .next s
  | some w =>
    if w.failing.isEmpty || s.gangs.any (fun g => g.part == part && g.formula.any (·.2 == w.number.toNat)) then .next s
    else
      let below := w.failing ++ w.failing.flatMap (p.asOf w).downstream
      let s := s.modPart part (fun p =>
        { w.members.foldl (fun p m => p.modCell m.1 (Cell.abort (below.contains m.1))) p with lastAbort := w.number })
      .next (s.endWave part w)

end Sys2Proof.Machine
end

