-- ==== Sys2Proof/Machine/Queues.lean ====
section
/-! DEFINITION. The queues and the packets that the command processor carries out itself (R267 to R271, R274 to R279,
R322): how it reaches memory, how a packet is read and checked, the end of a launch, and the packets. -/

namespace Sys2Proof.Machine

/-! The accesses of the command processor. -/

/-- A byte of a partition as the command processor reaches it, by a walk of the partition's page table (R268, R270); it
stands on die 0 (log 23). -/
def State.cmdPlace (s : State) (part ia : Nat) : Except Trap Place :=
  if ia ≥ 2 ^ 56 then .error (.fault .winMiss 1 (BitVec.ofNat 64 ia))
  else match s.walk part ia with
    | .absent => .error (.page part ia)
    | .malformed => .error (.fault .prot 10 (BitVec.ofNat 64 ia))
    | .leaf base size e =>
      let l : CachedLeaf := { part := part, base := base, size := size, leaf := e, host := none }
      let a := leafFrame e + (ia - base)
      match leafDenies part {} e with
      | some reason => .error (.fault .prot reason (BitVec.ofNat 64 ia))
      | none =>
        if leafHost e then
          let pasid := (s.part part).hpasid
          match s.hostGrant 0 pasid (a / 4096) with
          | none => .error (.host 0 pasid (a / 4096) part ia)
          | some g => .ok { loc := Config.hostBase + g.frame * 4096 + a % 4096, ia := some ia
                            leaf := some { l with host := some (a / 4096) } }
        else
          let pa := if leafRepl e then a % 2 ^ 46 else a
          if s.okPa pa then .ok { loc := pa, ia := some ia, leaf := some l }
          else .error (.fault .prot 10 (BitVec.ofNat 64 ia))

/-- The places of `n` bytes from an intermediate address up; bytes that are read must be readable (R269). -/
def State.cmdPlaces (s : State) (part : Nat) (read : Bool) : Nat → Nat → Except Trap (List Place)
  | 0, _ => .ok []
  | n + 1, ia =>
    match s.cmdPlace part ia with
    | .error t => .error t
    | .ok p =>
      match (if read then s.uceAt p else none) with
      | some code => .error (.fault .uce code (BitVec.ofNat 64 ia))
      | none =>
        match State.cmdPlaces s part read n (ia + 1) with
        | .error t => .error t
        | .ok ps => .ok (p :: ps)

/-- The little-endian value of `n` bytes that the command processor reads. -/
def State.cmdRead (s : State) (part ia n : Nat) : Except Trap Nat :=
  (s.cmdPlaces part true n ia).map (fun ps => natOfBytes (ps.map (fun p => s.mem.read p.loc)))

/-- A page, of any size, with the CELL attribute that holds a buffer of a defined cell (R285). -/
def State.cellPage (s : State) (l : CachedLeaf) : Bool :=
  leafCell l.leaf && (s.part l.part).cells.any (fun e =>
    [e.2.buf0, e.2.buf1].any (fun b => runsMeet b l.base e.2.extent l.size))

/-- The places of a write of the command processor: no byte of a page that holds a cell's buffer is one (R285, log 23). -/
def State.cmdWrite? (s : State) (part ia n : Nat) : Except Trap (List Place) :=
  match s.cmdPlaces part false n ia with
  | .error t => .error t
  | .ok ps =>
    if ps.any (fun p => p.leaf.any s.cellPage) then .error (.fault .cellStore 0 (BitVec.ofNat 64 ia)) else .ok ps

/-- The home of a location of a page, as the host or the command processor reaches it: no context's tag goes with it. -/
def State.hostHome (s : State) (l : CachedLeaf) (ia loc : Nat) : Home :=
  let k := s.l2Line? l.part ia (loc / 2 ^ 46)
  { part := l.part, ia := ia, loc := loc, gran := leafGran l.leaf, tag := (k.map (·.tag)).getD 0, era := (k.map (·.era)).getD 0 }

/-- Writes a byte at a location of a page, at its home (R266, R315): a cached copy of a DT line gives way. -/
def State.hostPoke (s : State) (l : CachedLeaf) (ia loc : Nat) (b : Byte) : State :=
  if leafHost l.leaf || !inDram loc then s.poke loc b
  else
    let s := s.wakeArray (8192 + s.homeSlice (loc / 2 ^ 46) ia)
    let h := s.hostHome l ia loc
    let s := if leafCoh l.leaf = 0 then s.homeRequest h true else s
    (s.dirtyL2 h).poke loc b

/-- Writes bytes at places; a multicast writes every replica (R263). -/
def State.cmdStore (s : State) (multi : Bool) (ps : List (Place × Byte)) : State :=
  ps.foldl (fun s e => match e.1.leaf, e.1.ia with
    | some l, some ia =>
      (if multi && leafRepl l.leaf then e.1.replicas else [e.1.loc]).foldl (fun s a => s.hostPoke l ia a e.2) s
    | _, _ => s.poke e.1.loc e.2) s

/-! Queues. -/

/-- A queue that has a packet to process. -/
def Queue.active (q : Queue) : Bool := q.en && !q.err && decide (q.head.toNat < q.tail.toNat)

/-- Where the packet at the head lies: in its slot, or in the indirect buffer that stands in its place (R267, R279). -/
def Queue.headIa (q : Queue) : Nat :=
  match q.indirect with
  | some (a, _, used) => a + used
  | none => q.base.toNat + 64 * (q.head.toNat % 2 ^ q.log2n.toNat)

/-- The packet at the head is consumed. -/
def Queue.consume (q : Queue) : Queue :=
  match q.indirect with
  | some (a, len, used) =>
    if used + 64 < len then { q with indirect := some (a, len, used + 64) }
    else { q with indirect := none, head := q.head + 1 }
  | none => { q with head := q.head + 1 }

/-- A queue stops with an error: HEAD stays at the failing packet (R269). -/
def State.stopQueue (s : State) (q code : Nat) : State :=
  s.modQueue q (fun k => { k with err := true, ecode := BitVec.ofNat 8 code })

/-- The bits that each kind defines in the eight words of its packet (Tables 16-2, 16-4, R276, R279, R322, R378). -/
def packetBits (type : Nat) : List Word :=
  let ia : Word := 0x00FFFFFFFFFFFFFF
  let all : Word := 0xFFFFFFFFFFFFFFFF
  match type with
  | 1 => [0x00FFFFFF001F0FFF, ia, all, all, 0x303, all, ia, 0]
  | 2 => [0x070F0FFF, ia, all, 3, ia, 0, 0, 0]
  | 3 => [0x10FFF, 3, all, ia, all, 0, 0, 0]
  | 4 => [0x10FFF, 3, all, 0, 0, 0, 0, 0]
  | 5 => [0xFFF, ia, all, 0, 0, 0, 0, 0]
  | 6 => [0xFFF, ia, 0, 0, 0, 0, 0, 0]
  | 7 => [0xFFF, ia, 0, 0, 0, 0, 0, 0]
  | _ => [0xFFF, 0x0FFFF007, 0, 0, 0, 0, 0, 0]

/-- The checks that every packet passes first: its kind, then VER and the reserved fields (Table 16-3). -/
def packetError (x : Nat) : Option Nat :=
  let type := x % 256
  if type = 0 || type > 8 then some 1
  else if x / 256 % 16 ≠ 1 ||
      (packetBits type).zipIdx.any (fun e => (field64 x (8 * e.2)) &&& ~~~e.1 != 0) then some 2
  else none

/-- What a packet that has passed its checks comes to: it is consumed, it holds its queue's head, or it fails with an
error and none of its effect (R269). -/
inductive PacketEnd where
  | done (s : State)
  | hold (s : State)
  | error (s : State) (code : Nat)

/-- What an access of the command processor that does not complete comes to (R268, R270): a request and a wait, or the
error of a page that cannot be read. -/
def State.cmdTrap (s : State) (t : Trap) (code : Nat) : PacketEnd :=
  match t with
  | .page part ia =>
    let page := ia - ia % 4096
    if s.declined.contains (part, page) then .error { s with declined := s.declined.erase (part, page) } code
    else .hold (s.requestPage part ia none)
  | .host die pasid page part _ =>
    if s.declined.contains (part, 2 ^ 64 + page) then
      .error { s with declined := s.declined.erase (part, 2 ^ 64 + page) } code
    else .hold (s.askHost die pasid page)
  | _ => .error s code

/-- The command processor runs: neither a trip nor a fatal error has stopped it (R371, R380). -/
def State.serving (s : State) : Bool := !s.service.stopped && !s.service.fatal

/-- Settles what a packet came to. -/
def PacketEnd.settle (q : Nat) : PacketEnd → Out
  | .done s => .next (s.modQueue q Queue.consume)
  | .hold s => .next s
  | .error s code => .next (s.stopQueue q code)

/-- A packet of a kind at the head of the queue that the event names: it is read whole and checked; a packet of
another kind waits for its own event. -/
def packet (types : List Nat) (s : State) (k : Nat → Queue → Nat → State → PacketEnd) : Out :=
  let q := s.cur.args.index
  let queue := s.queue q
  if q ≥ 64 || !queue.active || !s.serving then .next s
  else match s.cmdRead queue.part.toNat queue.headIa 64 with
    | .error t => (s.cmdTrap t 8).settle q
    | .ok x => match packetError x with
      | some code => .next (s.stopQueue q code)
      | none => if types.contains (x % 256) then (k q queue x s).settle q else .next s

/-- An enabled queue whose TAIL does not lie between HEAD and a full ring stops with error 3 (R268), also when ERR is
cleared over such a TAIL. -/
def State.checkTail (s : State) (q : Nat) : State :=
  let k := s.queue q
  if k.en && !k.err && (k.tail.toNat < k.head.toNat || k.tail.toNat > k.head.toNat + 2 ^ k.log2n.toNat) then s.stopQueue q 3
  else s

/-- A write of TAIL (R268): it takes the value, which must cover no more than the ring. -/
def State.writeTail (s : State) (q : Nat) (tail : Word) : State :=
  if q ≥ 64 then s else (s.modQueue q (fun k => { k with tail := tail })).checkTail q

/-- QUEUE_DOORBELL (R268). -/
def execQueueDoorbell (s : State) : Out := .next (s.writeTail s.cur.args.index s.cur.args.word)

/-- The control word of a queue as a write leaves it (Table 16-1, R267). -/
def Queue.control (k : Queue) (v : Word) : Queue :=
  let log : BitVec 5 := v.extractLsb' 0 5
  let k := if k.en then k else
    { k with part := v.extractLsb' 16 4, log2n := if 6 ≤ log.toNat && log.toNat ≤ 16 then log else 6 }
  { k with tkt := v.extractLsb' 32 12, cls := v.extractLsb' 12 2 }

/-- A write of the control word (R267): EN from 0 to 1 sets HEAD to TAIL, clears ERR and discards every launch that has
never been placed, without a record or an event. -/
def State.writeControl (s : State) (q : Nat) (v : Word) : State :=
  s.modQueue q (fun k =>
    let starts := v.getLsbD 63 && !k.en
    let k := { k.control v with en := v.getLsbD 63 }
    if starts then { k with head := k.tail, err := false, indirect := none, pending := [] } else k)

/-- QUEUE_ENABLE (R267). -/
def execQueueEnable (s : State) : Out := .next (s.writeControl s.cur.args.index s.cur.args.word)

/-! Launches (Tables 16-4, 16-5). -/

/-- A word of the packet. -/
def Launch.pk (l : Launch) (n : Nat) : Word := l.packet.getD n 0
/-- A word of the descriptor. -/
def Launch.dw (l : Launch) (n : Nat) : Word := l.desc.getD n 0
/-- CMPL. -/
def Launch.cmpl (l : Launch) : Bool := (l.pk 0).getLsbD 20
/-- RESIL. -/
def Launch.resil (l : Launch) : Bool := (l.pk 0).getLsbD 19
/-- STIME. -/
def Launch.stime (l : Launch) : Bool := (l.pk 0).getLsbD 18
/-- HODE. -/
def Launch.hode (l : Launch) : Bool := (l.pk 0).getLsbD 17
/-- SUP. -/
def Launch.sup (l : Launch) : Bool := (l.pk 0).getLsbD 16
/-- GCOUNT. -/
def Launch.gcount (l : Launch) : Nat := ((l.pk 0).extractLsb' 48 8).toNat
/-- SSEL. -/
def Launch.ssel (l : Launch) : Nat := ((l.pk 4).extractLsb' 8 2).toNat
/-- WSEL. -/
def Launch.wsel (l : Launch) : Nat := ((l.pk 4).extractLsb' 0 2).toNat
/-- The width of the gang. -/
def Launch.width (l : Launch) : Nat := ((l.dw 2).extractLsb' 0 6).toNat + 1
/-- Its height. -/
def Launch.height (l : Launch) : Nat := ((l.dw 2).extractLsb' 8 5).toNat + 1
/-- SUPX and SUPY. -/
def Launch.supXY (l : Launch) : Nat × Nat := (((l.dw 2).extractLsb' 24 6).toNat, ((l.dw 2).extractLsb' 32 5).toNat)
/-- PLANN. -/
def Launch.plann (l : Launch) : Nat := (l.dw 4).toNat % 512
/-- NR and NW. -/
def Launch.nr (l : Launch) : Nat := ((l.dw 6).extractLsb' 0 3).toNat
def Launch.nw (l : Launch) : Nat := ((l.dw 6).extractLsb' 4 3).toNat
/-- A range entry: base IA and length. -/
def Launch.range (l : Launch) (word : Nat) : Range := ((l.dw word).toNat, (l.dw (word + 1)).toNat)
/-- The read ranges. -/
def Launch.reads (l : Launch) : List Range := (List.range l.nr).map (fun i => l.range (8 + 2 * i))
/-- The write ranges. -/
def Launch.writes (l : Launch) : List Range := (List.range l.nw).map (fun i => l.range (16 + 2 * i))

/-- A range entry is bad: used, with high bits or a length outside 1 to 2^40; or unused and not zero. -/
def Launch.badRange (l : Launch) (word n i : Nat) : Bool :=
  let r := l.range (word + 2 * i)
  if i < n then r.1 ≥ 2 ^ 56 || r.2 == 0 || r.2 > 2 ^ 40 else r != (0, 0)

/-- A descriptor that R270 refuses; it names a supervisor core whether or not SUP is set. -/
def Launch.bad (l : Launch) : Bool :=
  l.desc.length != 24 || ((l.dw 2) &&& ~~~0x1F3F071F3F#64) != 0 || l.dw 3 ≥ 0x0100000000000000 ||
  ((l.dw 4) &&& ~~~0x1FF#64) != 0 || l.plann > 256 || (l.plann == 0 && l.dw 3 != 0) ||
  ((l.dw 5) &&& 0xFF0000000000003F#64) != 0 || ((l.dw 6) &&& ~~~0x77#64) != 0 || l.nr > 4 || l.nw > 4 || l.dw 7 != 0 ||
  !(l.supXY.1 < l.width && l.supXY.2 < l.height) ||
  (List.range 4).any (fun i => l.badRange 8 l.nr i || l.badRange 16 l.nw i)

/-- The completion record (Table 16-6). -/
def completionRecord (status exit : Nat) (tbase : Word) : List Byte :=
  bytesOfNat 8 (exit % 65536 + status * 65536) ++ bytesOfNat 8 tbase.toNat

/-- Sets event bits of a partition. -/
def State.setEvents (s : State) (part word : Nat) (f : Word → Word) : State :=
  s.modPart part (fun p => { p with events := p.events.setIfInBounds word (f (p.events.getD word 0)) })

/-- Writes a completion record, or asks for its page and keeps it; one that never can be written is dropped (log 23). -/
def State.writeCompletion (s : State) (c : Completion) : State :=
  match s.cmdWrite? c.part c.ia 16 with
  | .ok ps => s.cmdStore false (ps.zip (bytesOfNat 16 c.record.toNat))
  | .error t => match s.cmdTrap t 0 with
    | .hold s => { s with completions := s.completions ++ [c] }
    | .error s _ => s
    | .done s => s

/-- Writes the completion records that can be written. -/
def State.writeCompletions (s : State) : State := s.completions.foldl State.writeCompletion { s with completions := [] }

/-- The end of a launch (R275): its SMASK bits are set and, with CMPL, its record is written, with the TBASE of the end. -/
def State.endLaunch (s : State) (l : Launch) (status exit : Nat) : State :=
  let s := s.setEvents l.part l.ssel (· ||| l.pk 3)
  if !l.cmpl then s
  else s.writeCompletion
    { part := l.part, ia := (l.pk 6).toNat, record := BitVec.ofNat 128 (natOfBytes (completionRecord status exit s.tbase)) }

/-- Ends launches one after another as refused (R270). -/
def State.refuse (s : State) (ls : List Launch) : State :=
  ls.foldl (fun s l =>
    (s.endLaunch l 3 0).modQueue l.queue (fun k => { k with pending := k.pending.filter (·.order != l.order) })) s

/-- COMPL of a packet lies outside its partition (error 5 of Table 16-3): the page tables give it a page of another owner,
or none that can be. -/
def State.complOutside (s : State) (l : Launch) : Bool :=
  l.cmpl && match s.cmdPlace l.part (l.pk 6).toNat with
    | .error (.fault _ _ _) => true
    | _ => false

/-- Launches that a queue's pending list holds. -/
def Queue.listed (k : Queue) : Nat := k.pending.length + k.saved.length

/-- Every launch of a partition that has been accepted and has not ended (R278). -/
def State.tracked (s : State) (part : Nat) : List Launch :=
  s.queues.toList.flatMap (fun k => k.pending.filter (·.part == part)) ++
  (s.gangs.filter (·.part == part)).filterMap (·.launch)

/-- Pending launches of a group of a partition that have never been placed. -/
def State.groupPending (s : State) (part : Nat) (group : BitVec 16) : List Launch :=
  s.queues.toList.flatMap (fun k => k.pending.filter (fun l => l.part == part && l.group == group))

/-- The words of a number. -/
def wordsOf (x n : Nat) : List Word := (List.range n).map (fun i => field64 x (8 * i))

/-- DISPATCH (R270, R271, R274): the descriptor is read whole, and the launch joins its queue's pending list, or is
refused. A member of a group that is refused here for its own descriptor leaves the others pending: the spec does not say what
becomes of them (DESIGN CHOICE, log 34). -/
def execDispatch (s : State) : Out :=
  packet [1] s (fun q k x s =>
    let l : Launch := { queue := q, part := k.part.toNat, order := s.orders, packet := wordsOf x 8, desc := [] }
    if (l.pk 1).toNat % 64 ≠ 0 || (l.pk 6).toNat % 16 ≠ 0 || s.complOutside l then .error s 5
    else if l.gcount < 1 || l.gcount > 64 || (l.group == 0 && l.gcount != 1) then .error s 6
    else if k.listed ≥ 64 || (s.tracked l.part).length ≥ 256 then .hold s
    else
      let next := { s with orders := s.orders + 1 }
      match s.cmdRead l.part (l.pk 1).toNat 192 with
      | .error t => match s.cmdTrap t 0 with
        | .error s _ => .done ({ s with orders := s.orders + 1 }.endLaunch l 3 0)
        | e => e
      | .ok d =>
        let l := { l with desc := wordsOf d 24 }
        let same := s.groupPending l.part l.group
        if l.bad then .done (next.endLaunch l 3 0)
        else if l.group != 0 && same.any (·.gcount != l.gcount) then .done (next.refuse (same ++ [l]))
        else .done (next.modQueue q (fun k => { k with pending := k.pending ++ [l] })))

/-! Ranges of pages. -/

/-- What the command processor finds when it goes over the pages of a range: their leaves, or the first trap. -/
def State.rangePages (s : State) (part last : Nat) : Nat → Nat → Except Trap (List CachedLeaf)
  | 0, _ => .ok []
  | n + 1, ia =>
    if ia > last then .ok []
    else match s.cmdPlace part ia with
      | .error t => .error t
      | .ok p => match p.leaf with
        | none => .ok []
        | some l =>
          match State.rangePages s part last n (l.base + l.size) with
          | .error t => .error t
          | .ok ps => .ok (l :: ps)

/-- The fields of a CMO.RANGE of a kind: SCOPE 4 to 7, BASE and LEN in their ranges (R279). -/
def cmoRange (kind : Nat) (s : State) (k : Nat → Nat → Nat → Nat → State → PacketEnd) : Out :=
  packet [2] s (fun _ q x s =>
    let base := (field64 x 8).toNat
    let len := (field64 x 16).toNat
    let scope := x / 2 ^ 24 % 8
    let found := x / 2 ^ 16 % 16
    if found ≠ kind && found ≤ 3 then .hold s
    else if found > 3 || scope < 4 || len < 1 || len > 2 ^ 40 then .error s 6
    else if kind ≠ 3 && (field64 x 24 != 0 || field64 x 32 != 0) then .error s 2
    else k q.part.toNat x base len s)

/-- A kind over the range: its pages must be readable; the part of each that lies in the range, but for UC pages, on which
the kinds have no effect (R138), in every core data cache and L2 slice of the partition. -/
def cmoKind (kind : Nat) (effect : State → (CacheLine → Bool) → (L2Line → Bool) → State) (s : State) : Out :=
  cmoRange kind s (fun part _ base len s =>
    match s.rangePages part (base + len - 1) (len / 4096 + 2) base with
    | .error t => s.cmdTrap t 8
    | .ok pages =>
      .done (pages.foldl (fun s l =>
        if leafCoh l.leaf = 2 then s
        else
          let lo := max base l.base
          let hi := min (base + len) (l.base + l.size)
          effect s (lineIn part lo hi) (l2In part lo hi)) s))

/-- CMO_RANGE_CLEAN (R279). -/
def execCmoRangeClean (s : State) : Out :=
  cmoKind 0 (fun s sel l2 => (s.everyCore (fun s n => s.cleanLines n sel)).cleanL2Lines l2) s
/-- CMO_RANGE_INVAL (R279): in the core data caches dirty bytes of SI lines are discarded and those of DT lines written
back, as Table 6-6 states, and the lines leave; SCOPE 4 to 7 takes what the L2 slices hold on to DRAM, and the lines leave them
too. What a slice holds dirty has been performed at its home, so it is written back in every class (DEDUCED, log 23). -/
def execCmoRangeInval (s : State) : Out :=
  cmoKind 1 (fun s sel l2 => (s.everyCore (fun s n =>
    (s.flushLines n (fun l => sel l && l.coh == 0)).dropLines n sel)).flushL2Lines l2) s
/-- CMO_RANGE_FLUSH (R279). -/
def execCmoRangeFlush (s : State) : Out :=
  cmoKind 2 (fun s sel l2 => (s.everyCore (fun s n => s.flushLines n sel)).flushL2Lines l2) s

/-- The entry of a page table that gives the leaf of an address: its location and level. -/
def leafEntry (m : Memory) (ia : Nat) : Nat → Nat → Nat → Option (Nat × Nat)
  | 0, _, _ => none
  | n + 1, lv, t =>
    let a := t + 8 * tableIndex ia lv
    let e := m.readWord a
    if !e.getLsbD 0 then none
    else if isLeaf lv e then some (a, lv)
    else leafEntry m ia n (lv + 1) ((e.extractLsb' 12 36).toNat * 4096)

/-- Rewrites the leaf of a page; the 16 entries of a 64 KiB page change together (R326). -/
def State.rewriteLeaf (s : State) (part ia : Nat) (f : Word → Word) : State :=
  match leafEntry s.mem ia 5 0 (s.part part).ptbr.toNat with
  | none => s
  | some (a, lv) =>
    let e := f (s.mem.readWord a)
    let bytes := bytesOfNat 8 e.toNat
    if lv = 4 && (s.mem.readWord a).getLsbD 56 then
      (List.range 16).foldl (fun s i => s.pokes (a - a % 128 + 8 * i) bytes) s
    else s.pokes a bytes

/-- Cached leaves that overlap a range of addresses of a partition are dropped everywhere (R329 step 1). -/
def State.dropLeaves (s : State) (part lo hi : Nat) : State :=
  let keep (l : CachedLeaf) : Bool := !(l.part == part && l.base < hi && lo < l.base + l.size)
  { s with attrCache := s.attrCache.map (fun e => (e.1, e.2.filter keep))
           memXlat := s.memXlat.map (fun e => (e.1, e.2.filter keep)) }

/-- The lines of an SI range that several caches hold dirty, byte by byte: the addresses in conflict (R322). -/
def State.dirtyConflicts (s : State) (part lo hi : Nat) : List Nat :=
  let dirty := s.cores.flatMap (fun e => (e.2.dcache.filter (fun l => lineIn part lo hi l && l.coh == 1)).flatMap (fun l =>
    ((List.range 64).filter (fun i => l.dirty.getLsbD i)).map (fun i => l.line * 64 + i)))
  let rec dup : List Nat → List Nat
    | [] => []
    | a :: as =>
      let rest := dup as
      if as.contains a && !rest.contains a then a :: rest else rest
  (dup dirty).filter (fun a => lo ≤ a && a < hi)

/-- The pages of a range that ATTR changes: every one must be present and owned by the partition (R322); none of them is
accessed. -/
def State.attrPages (s : State) (part last : Nat) : Nat → Nat → Option (List CachedLeaf)
  | 0, _ => some []
  | n + 1, ia =>
    if ia > last then some []
    else match s.walk part ia with
      | .leaf base size e =>
        if leafOwner e ≠ part then none
        else (State.attrPages s part last n (base + size)).map
          ({ part := part, base := base, size := size, leaf := e, host := none } :: ·)
      | _ => none

/-- RD of every line of a range is cleared. -/
def State.clearRd (s : State) (pages : List CachedLeaf) : State :=
  pages.foldl (fun s l =>
    (s.rd.filter (fun e => inRun (leafFrame l.leaf) l.size e.1)).foldl (fun s e => s.writeH (leafGran l.leaf) e.1 0) s) s

/-- CMO_RANGE_ATTR (R322): the directory entries that meet the range recall their holders and are freed and RD dies are
recalled; the caches write back and drop the range's lines in ascending core number; the home slices write its dirty
lines to DRAM and keep them; every leaf takes the new class; the result record is written. The class is that of whole pages,
so a page that lies only partly in the range is recalled whole (DEDUCED, log 23). -/
def execCmoRangeAttr (s : State) : Out :=
  cmoRange 3 s (fun part x base len s =>
    let rec_ := (field64 x 32).toNat
    if x / 2 ^ 24 % 8 ≠ 7 || field64 x 24 = 3 then .error s 6
    else if base % 4096 ≠ 0 || len % 4096 ≠ 0 || rec_ % 16 ≠ 0 then .error s 5
    else match s.attrPages part (base + len - 1) (len / 4096 + 1) base with
      | none => .error s 5
      | some pages =>
        let lo := pages.foldl (fun a l => min a l.base) base
        let hi := pages.foldl (fun a l => max a (l.base + l.size)) (base + len)
        let conf := s.dirtyConflicts part lo hi
        let first := conf.foldl min (conf.headD 0)
        let out := bytesOfNat 4 (if conf.isEmpty then 0 else 1) ++ bytesOfNat 4 (min conf.length (2 ^ 32 - 1)) ++
          bytesOfNat 8 first
        match (if rec_ = 0 then .ok [] else s.cmdWrite? part rec_ 16) with
        | .error t => s.cmdTrap t 5
        | .ok ps =>
          let s := (s.freeEntries part lo hi).clearRd pages
          let s := (s.everyCore (fun s n => s.flushLines n (lineIn part lo hi))).cleanL2Lines (l2In part lo hi)
          let s := pages.foldl (fun s p => s.rewriteLeaf part p.base (fun e =>
            (e &&& ~~~0xC0#64) ||| ((field64 x 24 &&& 3) <<< 6))) s
          .done ((s.dropLeaves part lo hi).cmdStore false (ps.zip out)))

/-! The other packets. -/

/-- An address that a packet writes: aligned, of the partition; 0 stands for none where the kind allows it. -/
def State.packetStore (s : State) (part : Nat) (a : Word) (optional multi : Bool) (v : Word)
    (k : State → PacketEnd) : PacketEnd :=
  if optional && a = 0 then k s
  else if a.toNat % 8 ≠ 0 then .error s 5
  else match s.cmdWrite? part a.toNat 8 with
    | .error (.page p ia) => s.cmdTrap (.page p ia) 8
    | .error (.host d q p r ia) => s.cmdTrap (.host d q p r ia) 8
    | .error _ => .error s 5
    | .ok ps => match k s with
      | .done s => .done (s.cmdStore multi (ps.zip (bytesOfNat 8 v.toNat)))
      | e => e

/-- EVENT_SET (R276): the bits, then VALUE to ADDR as an STRL of scope .sys. -/
def execEventSet (s : State) : Out :=
  packet [3] s (fun _ k x s =>
    s.packetStore k.part.toNat (field64 x 24) true true (field64 x 32) (fun s =>
      .done (s.setEvents k.part.toNat ((field64 x 8).toNat % 4) (fun w =>
        if x / 2 ^ 16 % 2 = 1 then w &&& ~~~(field64 x 16) else w ||| field64 x 16))))

/-- EVENT_WAIT (R276). -/
def execEventWait (s : State) : Out :=
  packet [4] s (fun _ k x s =>
    let m := field64 x 16
    let w := (s.part k.part.toNat).events.getD ((field64 x 8).toNat % 4) 0
    if m = 0 || (if x / 2 ^ 16 % 2 = 1 then w &&& m == m else w &&& m != 0) then .done s else .hold s)

/-- INDIRECT (R279): the buffer's packets are processed in its place. -/
def execIndirect (s : State) : Out :=
  packet [5] s (fun q k x s =>
    let a := (field64 x 8).toNat
    let len := (field64 x 16).toNat
    if k.indirect.isSome then .error s 4
    else if a % 64 ≠ 0 then .error s 5
    else if len % 64 ≠ 0 || len < 64 || len > 65536 then .error s 6
    else .hold (s.modQueue q (fun k => { k with indirect := some (a, len, 0) })))

/-- TIMESTAMP (R279). -/
def execTimestamp (s : State) : Out :=
  packet [6] s (fun _ k x s => s.packetStore k.part.toNat (field64 x 8) false false s.tbase .done)

/-- CELL_WAVE (R279). -/
def execCellWave (s : State) : Out :=
  packet [7] s (fun _ k x s =>
    let part := k.part.toNat
    let (w, p) := (s.part part).commit
    s.packetStore part (field64 x 8) true false w (fun s => .done (s.modPart part (fun _ => p))))

end Sys2Proof.Machine
end

