-- ==== Sys2Proof/Machine/Placement.lean ====
section
/-! DEFINITION. The distributor (R272, R273, R280 to R282, R320, R321): which launch it takes, where it places the gang,
the start of the contexts, the launch barrier, and the end of a gang (R275). -/

namespace Sys2Proof.Machine

/-! Where a gang fits (R272). -/

/-- Package cluster numbers that gangs hold, or that are reserved for a placement under way (R270). -/
def State.heldClusters (s : State) : List Nat :=
  (s.gangs.filter (·.state != .saved)).flatMap (·.clusters) ++ ((s.placement.map (·.2)).getD []).flatMap (·.2)

/-- A cluster that can be given to a gang of a partition: owned, live, not retired, no service cluster (R272, R333,
R370). -/
def State.usable (s : State) (part cluster : Nat) : Bool :=
  let p := s.part part
  let d := cluster / 64
  (p.clu.getD d 0).getLsbD (cluster % 64) && (s.service.live.getD d 0).getLsbD (cluster % 64) &&
  !(s.service.ret.getD d 0).getLsbD (cluster % 64) && !p.service.contains cluster && s.service.testing != some cluster

/-- The first `cw` live clusters of a physical row eastward from a column. -/
def State.blockRow (s : State) (die row px0 cw : Nat) : List Nat :=
  (((List.range 8).filter (fun x => px0 ≤ x && (s.service.live.getD die 0).getLsbD (8 * row + x))).take cw).map
    (fun x => 64 * die + 8 * row + x)

/-- The clusters that a gang takes at a place, row by row; none when a row is short or a cluster is not free. -/
def State.clustersAt (s : State) (part : Nat) (busy : List Nat) (cw ch die py0 px0 : Nat) : Option (List Nat) :=
  let rows := (List.range ch).map (fun b => s.blockRow die (py0 + b) px0 cw)
  let all := rows.flatten
  if py0 + ch ≤ 8 && rows.all (·.length == cw) && all.all (fun c => s.usable part c && !busy.contains c) then some all
  else none

/-- The lowest die, row and column at which a gang of w × h cores fits. -/
def State.findPlace (s : State) (part : Nat) (busy dies : List Nat) (w h : Nat) : Option (Nat × List Nat) :=
  let cw := (w + 7) / 8
  let ch := (h + 3) / 4
  dies.findSome? (fun d => (List.range 8).findSome? (fun y => (List.range 8).findSome? (fun x =>
    (s.clustersAt part busy cw ch d y x).map (fun cs => (d, cs)))))

/-- The physical number of the core at virtual (x, y) of a gang in a list of clusters (log 7). -/
def coreIn (clusters : List Nat) (w x y : Nat) : Nat :=
  clusters.getD (y / 4 * ((w + 7) / 8) + x / 8) 0 * 32 + 8 * (y % 4) + x % 8

/-- The physical numbers of the cores of a gang, row by row. -/
def coresIn (clusters : List Nat) (w h : Nat) : List Nat :=
  (List.range h).flatMap (fun y => (List.range w).map (fun x => coreIn clusters w x y))

/-- The dies that a launch may take. -/
def Launch.dies (l : Launch) : List Nat :=
  if (l.dw 2).getLsbD 18 then [0, 1, 2, 3] else [((l.dw 2).extractLsb' 16 2).toNat]

/-! Context tags (R320, R321). -/

/-- A position of the tag counter as a tag and an era. -/
def tagAt (n : Nat) : BitVec 12 × BitVec 1 := (BitVec.ofNat 12 n, BitVec.ofNat 1 (n / 4096))

/-- The next position from `n` whose tag no gang holds. -/
def State.freeTag (s : State) : Nat → Nat → Nat
  | 0, n => n
  | fuel + 1, n => if s.gangs.any (fun g => g.tag == (tagAt n).1) then s.freeTag fuel (n + 1) else n

/-! The start of a gang (R273). -/

/-- What placement reads: the window triples as MTC would store them (R24), and the slot table (R235). -/
def windowTriples (x : Nat) : List (Word × Word × Word) :=
  (List.range 16).map (fun i => (field64 x (24 * i) &&& ~~~0xFFFF, storedVwl (field64 x (24 * i + 8)),
    field64 x (24 * i + 16) &&& 0x00FFFFFFFFFF0007))

/-- The entries of a slot table. -/
def planEntries (x n : Nat) : List PlanEntry := (List.range n).map (fun i => BitVec.ofNat 128 (x / 2 ^ (128 * i)))

/-- A context that starts at a PC (R16, R28), which is checked under R55 or not. -/
def Context.startAt (pc : Word) (check : Bool) : Context :=
  { Context.reset with pc := pc, live := true, entryCheck := check }

/-- A core as a placement starts it (R28, R273): what belongs to the core itself is its data cache, and FLTREC0–FLTREC3,
which live until the core's next fault (Table 1-7); its scratchpad and lane slices stay too (R351). -/
def Core.start (old : Core) (gid : BitVec 16) (x y w h part : Nat) (tag : BitVec 12) (era : BitVec 1) (pc : Word)
    (hod : Option Word) (ws : List (Word × Word × Word)) (ssel : Nat) (smask : Word) (resil : Bool) : Core :=
  let ctxs := Core.reset.ctxs.setIfInBounds 0 (Context.startAt pc false)
  let vec (f : Word × Word × Word → Word) : Vector Word 16 := Vector.ofFn (fun i => f (ws.getD i.val (0, 0, 0)))
  { Core.reset with
    placed := true, gid := gid, vx := BitVec.ofNat 6 x, vy := BitVec.ofNat 5 y
    gwm1 := BitVec.ofNat 6 (w - 1), ghm1 := BitVec.ofNat 5 (h - 1), part := BitVec.ofNat 4 part, tag := tag, era := era
    ctxs := match hod with
      | some p => ctxs.setIfInBounds 11 (Context.startAt p true)
      | none => ctxs
    vwb := vec (·.1), vwl := vec (·.2.1), vwi := vec (·.2.2)
    evw := Core.reset.evw.setIfInBounds ssel smask
    resil := resil, dcache := old.dcache, fltrec := old.fltrec, fltAt := old.fltAt }

/-- Places a gang that starts anew on clusters of a die: its GANGID (log 10) and tag, ahead of which the sweeper runs
1,024 positions (R321), its cores. -/
def State.placeGang (s : State) (g : Gang) (start : Core → BitVec 16 → Nat → Nat → BitVec 12 → BitVec 1 → Core)
    (sup : Option (Nat × Nat)) : State × BitVec 16 :=
  let gid := BitVec.ofNat 16 ((lowestFree (s.gangs.map (·.gid.toNat)) 65535 1).getD 0)
  let n := s.freeTag 4096 s.tagsIssued
  let s := { s.sweep (s.tagsIssued + 1025) (n + 1025) with
    tagsIssued := n + 1, orders := s.orders + 1, tagTable := Table.set s.tagTable (n % 4096) g.part }
  let cores := coresIn g.clusters g.w g.h
  let g := { g with gid := gid, cores := cores, order := s.orders, born := s.orders, tag := (tagAt n).1, era := (tagAt n).2,
                    supervisor := sup.map (fun p => coreIn g.clusters g.w p.1 p.2), mhz := s.service.mhz,
                    barrierAt := s.clk }
  let s := { s with gangs := s.gangs ++ [g] }
  (cores.zipIdx.foldl (fun s e =>
    s.modCore e.1 (fun c => start c gid (e.2 % g.w) (e.2 / g.w) g.tag g.era)) s, gid)

/-- A gang before its placement. -/
def Gang.fresh (part w h die : Nat) (clusters : List Nat) : Gang :=
  { gid := 0, part := part, launch := none, state := .starting, w := w, h := h, die := die, cores := [],
    clusters := clusters, order := 0, born := 0, supervisor := none, plan := [], fate := none, rollback := []
    drivings := [], holders := [], holds := [], pastHolds := [], mhz := 1050, throttle := none, barrierAt := 0, wideAt := 0, drain := none, started := false,
    stopping := false, tag := 0, era := 0, held := [], saves := [], slots := [], saveDone := false, wake := none,
    eligible := false, swappedAt := 0, savedTbase := 0, formula := none }

/-- Places one launch. -/
def State.placeLaunch (s : State) (l : Launch) (die : Nat) (clusters : List Nat) (ws : List (Word × Word × Word))
    (plan : List PlanEntry) : State × BitVec 16 :=
  let g := { Gang.fresh l.part l.width l.height die clusters with launch := some l, plan := plan }
  s.placeGang g (fun old gid x y tag era => old.start gid x y l.width l.height l.part tag era (l.dw 0)
    (if l.hode then some (l.dw 1) else none) ws l.ssel (l.pk 3) l.resil) (if l.sup then some l.supXY else none)

/-- The log before the launch barrier completes: its fields that read zero, and SSN, which the barrier's own advance makes zero
(R361, R362, Table 24-6; log 24). -/
def State.beforeFirst (s : State) (core : Nat) : State :=
  if (s.core core).resil then
    let zero (off n : Nat) (m : Memory) : Memory := m.writeBytes (Config.spLoc core off) (List.replicate n 0)
    let m := zero 0x1C3A0 96 (zero 0x1C1B8 8 (zero 0x1C020 32 s.mem))
    { s with mem := m.writeBytes (Config.spLoc core 0x1C008) (bytesOfNat 8 (2 ^ 64 - 1)) }
  else s

/-- The launch barrier in a core at the present clock C (R273): the core's first issue is at C + 1 + x + y. -/
def State.launchCore (s : State) (wide : Bool) (core : Nat) : State :=
  let at_ := s.clk + 1 + (s.core core).skew
  let s := s.modCore core (fun c =>
    (({ c with barSince := true, wideBarSince := wide }.modCtx 0 (fun x => { x with notBefore := at_ })).modCtx 11
      (fun x => { x with notBefore := at_ })))
  (s.beforeFirst core).beginSuperstep core false

/-- The launch barrier of gangs placed together. -/
def State.launchBarrier (s : State) (gids : List (BitVec 16)) (wide : Bool) : State :=
  gids.foldl (fun s gid =>
    let cores := match s.gang? gid with
      | some g => g.cores
      | none => []
    (cores.foldl (fun s c => s.launchCore wide c) s).modGang gid
      (fun g => { g with state := .running, started := true, barrierAt := s.clk, wideAt := if wide then s.clk else g.wideAt })) s

/-- A gang may start: its launch has no start time, or TBASE has reached it (R280). -/
def State.startDue (s : State) (g : Gang) : Bool :=
  match g.launch with
  | some l => !l.stime || decide ((l.pk 5).toNat ≤ s.tbase.toNat)
  | none => true

/-- Starts the gangs of a list, when all of them may start. -/
def State.startGangs (s : State) (gids : List (BitVec 16)) (wide : Bool) : State :=
  if gids.all (fun gid => (s.gang? gid).any s.startDue) then s.launchBarrier gids wide else s

/-! Which launch is next (R271, R278, R281). -/

/-- Two ranges share a byte. -/
def Range.meets (a b : Range) : Bool := runsMeet a.1 b.1 a.2 b.2

/-- A range dependence holds a launch behind an earlier one (R278). -/
def Launch.heldBehind (l e : Launch) : Bool :=
  e.queue == l.queue && decide (e.order < l.order) &&
  (e.writes.any (fun a => (l.reads ++ l.writes).any (Range.meets a)) || e.reads.any (fun a => l.writes.any (Range.meets a)))

/-- The conditions of R271 on one pending launch. -/
def State.launchReady (s : State) (l : Launch) : Bool :=
  (s.part l.part).events.getD l.wsel 0 &&& l.pk 2 == l.pk 2 && !(s.tracked l.part).any l.heldBehind

/-- The launches placed with a pending one: itself, or as many of its group as GCOUNT says, oldest first (R274). -/
def State.launchGroup (s : State) (l : Launch) : List Launch :=
  if l.group = 0 then [l]
  else
    let all := s.groupPending l.part l.group
    let older (k : Launch) : Nat := (all.filter (fun j => decide (j.order < k.order))).length
    (List.range l.gcount).filterMap (fun i => all.find? (fun k => older k == i))

/-- A pending launch is eligible (R271). -/
def State.eligible (s : State) (l : Launch) : Bool :=
  let g := s.launchGroup l
  g.length == (if l.group = 0 then 1 else l.gcount) && g.any (·.order == l.order) && g.all s.launchReady

/-- A formula task waits for clusters: the distributor places nothing else of the partition (R293). -/
def State.partHeld (s : State) (part : Nat) : Bool :=
  (s.part part).formulaNext.isSome ||
  s.gangs.any (fun g => g.part == part && g.formula.isSome && g.state == .saved && g.eligible && g.fate.isNone)

/-- The next of a queue. -/
def State.nextOf (s : State) (q : Queue) : Option Choice :=
  match q.saved.find? (fun gid => (s.gang? gid).any (fun g =>
      g.state == .saved && g.eligible && g.fate.isNone && !s.partHeld g.part)) with
  | some gid => some (.restore gid)
  | none => (q.pending.find? (fun l => s.eligible l && !s.partHeld l.part)).map .launch

/-- The queues with their numbers. -/
def State.numbered (s : State) : List (Queue × Nat) := s.queues.toList.zipIdx

/-- The lowest PASS of a list of queues. -/
def lowestPass : List Queue → Option Word
  | [] => none
  | q :: qs => match lowestPass qs with
    | none => some q.pass
    | some p => some (if q.pass.toNat ≤ p.toNat then q.pass else p)

/-- The queues at a decision: a queue that has become ready takes a PASS no lower than the lowest of the ready queues of
its class (R281). -/
def State.refreshQueues (s : State) : State :=
  let now (q : Queue) : Bool := (s.nextOf q).isSome
  let floor (q : Queue) : Option Word := lowestPass (s.queues.toList.filter (fun k => k.ready && now k && k.cls == q.cls))
  { s with queues := s.queues.map (fun q =>
      if now q && !q.ready then
        match floor q with
        | some p => { q with ready := true, pass := if q.pass.toNat ≤ p.toNat then p else q.pass }
        | none => { q with ready := true }
      else { q with ready := now q }) }

/-- One queue goes before another: class, then PASS, then number. -/
def before (a b : Queue × Nat) : Bool :=
  decide (a.1.cls.toNat < b.1.cls.toNat) ||
  (a.1.cls == b.1.cls && (decide (a.1.pass.toNat < b.1.pass.toNat) || a.1.pass == b.1.pass && decide (a.2 < b.2)))

/-- The queue that the distributor takes, and what it places (R281). -/
def State.choice (s : State) : Option (Nat × Choice) :=
  let ready := s.numbered.filter (fun e => (s.nextOf e.1).isSome)
  match ready.find? (fun e => !ready.any (fun f => before f e)) with
  | none => none
  | some e => (s.nextOf e.1).map (fun c => (e.2, c))

/-- A queue pays its stride for one gang (R281). -/
def State.charge (s : State) (q : Nat) : State :=
  s.modQueue q (fun k => { k with pass := k.pass + BitVec.ofNat 64 (1048576 / (k.tkt.toNat + 1)) })

/-! Pre-emption at the distributor's choice (R282, R340). -/

/-- Free core slots of a partition's save area, lowest first (R342, R352). -/
def State.freeSlots (s : State) (part : Nat) : List Nat :=
  (List.range (s.part part).savecap.toNat).filter (fun n => !(s.part part).slots.contains n)

/-- A save of these gangs would find its slots. -/
def State.canSave (s : State) (gs : List Gang) : Bool :=
  match gs with
  | [] => true
  | g :: _ => decide ((gs.flatMap (·.cores)).length ≤ (s.freeSlots g.part).length)

/-- A pre-emption request (R340): the drain limit current now applies; a group is pre-empted together, and only when
its save would find its slots (R342). -/
def State.requestPreemption (s : State) (gid : BitVec 16) : State :=
  match s.gang? gid with
  | none => s
  | some g =>
    let gs := (s.groupOf g).filter (fun h => h.state != .saved)
    if !s.canSave gs then s
    else
      let at_ := s.clk + (s.part g.part).drain.toNat * Config.clkPerUs
      gs.foldl (fun s h => s.modGang h.gid (fun h => { h with drain := h.drain.or (some at_) })) s

/-- CLASS of a gang's queue. -/
def State.classOf (s : State) (g : Gang) : Option Nat := g.launch.map (fun l => (s.queue l.queue).cls.toNat)

/-- A gang goes before another in the order of pre-emption: lowest class first, then the latest placed. -/
def State.preemptBefore (s : State) (a b : Gang) : Bool :=
  let ca := (s.classOf a).getD 0
  let cb := (s.classOf b).getD 0
  decide (ca > cb) || (ca == cb && decide (a.order > b.order))

/-- Inserts a gang in the order of pre-emption. -/
def State.insertByClass (s : State) (g : Gang) : List Gang → List Gang
  | [] => [g]
  | h :: hs => if s.preemptBefore g h then g :: h :: hs else h :: s.insertByClass g hs

/-- The gangs pre-empted for a launch that finds no clusters: as few as suffice, in order, of those that a save would
find slots for (R282, R342). -/
def State.victims (s : State) (fits : List Nat → Bool) : List Gang → List Gang → List Nat → List Gang
  | [], _, _ => []
  | g :: gs, taken, busy =>
    if !s.canSave (taken ++ [g]) then s.victims fits gs taken busy
    else
      let busy := busy.filter (fun c => !g.clusters.contains c)
      let taken := taken ++ [g]
      if fits busy then taken else s.victims fits gs taken busy

/-- Pre-empts gangs of lower classes that hold clusters which would suffice (R282). -/
def State.preemptFor (s : State) (part cls : Nat) (fits : List Nat → Bool) : State :=
  let lower := s.gangs.filter (fun g => g.part == part && g.state != .saved && (s.classOf g).any (fun c => decide (c > cls)))
  let order := lower.foldl (fun l g => s.insertByClass g l) []
  (s.victims fits order [] s.heldClusters).foldl (fun s g => s.requestPreemption g.gid) s

/-! LAUNCH_PLACEMENT. -/

/-- Places for launches one after another in clusters that are free. -/
def State.findPlaces (s : State) : List Launch → List Nat → Option (List (Nat × List Nat))
  | [], _ => some []
  | l :: ls, busy =>
    match s.findPlace l.part busy l.dies l.width l.height with
    | none => none
    | some (d, cs) => (s.findPlaces ls (busy ++ cs)).map ((d, cs) :: ·)

/-- The tables that a launch names: the window table and the slot table (R270, R235). -/
def State.readTables (s : State) (l : Launch) : Except Trap (List (Word × Word × Word) × List PlanEntry) :=
  match s.cmdRead l.part (l.dw 5).toNat 384 with
  | .error t => .error t
  | .ok x => (s.cmdRead l.part (l.dw 3).toNat (16 * l.plann)).map (fun y => (windowTriples x, planEntries y l.plann))

/-- Takes launches out of the pending lists. -/
def State.unlist (s : State) (ls : List Launch) : State :=
  ls.foldl (fun s l => s.modQueue l.queue (fun k => { k with pending := k.pending.filter (·.order != l.order) })) s

/-- The gangs of launches take their clusters and start together; the queue of each launch pays for its own gang: the rule says
only one stride for each gang (DESIGN CHOICE, log 34). -/
def State.placeAll_ (s : State) : List (Launch × (Nat × List Nat) × List (Word × Word × Word) × List PlanEntry) →
    List (BitVec 16) → State × List (BitVec 16)
  | [], gids => (s, gids)
  | (l, (d, cs), ws, plan) :: es, gids =>
    let (s, gid) := (s.charge l.queue).placeLaunch l d cs ws plan
    s.placeAll_ es (gids ++ [gid])

/-- Reads the tables of launches in turn. -/
def State.readAll (s : State) : List Launch → Except Trap (List (List (Word × Word × Word) × List PlanEntry))
  | [] => .ok []
  | l :: ls => match s.readTables l with
    | .error t => .error t
    | .ok x => match s.readAll ls with
      | .error t => .error t
      | .ok xs => .ok (x :: xs)

/-- A launch still stands in its queue's pending list: no write of EN has discarded it. -/
def State.stillListed (s : State) (l : Launch) : Bool := (s.queue l.queue).pending.any (·.order == l.order)

/-- Places a launch with its group on the clusters reserved for it, or refuses them; while a table's page is requested the
clusters stay reserved (R270). A placement whose launch or clusters have been taken away is given up. -/
def State.placeOn (s : State) (l : Launch) (places : List (Nat × List Nat)) : State :=
  let s := { s with placement := none }
  let ls := s.launchGroup l
  if ls.length != places.length || !ls.all s.stillListed || !places.all (fun p => p.2.all (s.usable l.part)) then s
  else match s.readAll ls with
    | .error t => match s.cmdTrap t 0 with
      | .error s _ => (s.refuse ls).refreshQueues
      | .hold s => { s with placement := some (.launch l, places) }
      | .done s => s
    | .ok tabs =>
      let (s, gids) := (s.unlist ls).placeAll_ (ls.zip (places.zip tabs)) []
      (s.startGangs gids (l.group != 0)).refreshQueues

/-- Finds clusters for a launch with its group, or pre-empts for it (R282). -/
def State.place (s : State) (q : Nat) (l : Launch) : State :=
  let ls := s.launchGroup l
  match s.findPlaces ls s.heldClusters with
  | none => s.preemptFor l.part (s.queue q).cls.toNat (fun busy => (s.findPlaces ls busy).isSome)
  | some places => s.placeOn l places

/-- The distributor places: no trip, no fatal error, no STANDBY (R371, R378, R380). -/
def State.placing (s : State) : Bool := s.serving && s.service.pst != 2

/-- LAUNCH_PLACEMENT (R272, R273, R281, R282): a placement under way goes on before another is chosen. -/
def execLaunchPlacement (s : State) : Out :=
  if !s.placing then .next s
  else match s.placement with
    | some (.launch l, places) => .next (s.placeOn l places)
    | some (.restore _, _) => .next s
    | none =>
      let s := s.refreshQueues
      match s.choice with
      | some (q, .launch l) => .next (s.place q l)
      | _ => .next s

/-- START_TIME_REACHED (R280): the launch barrier of a held gang, with every gang of its group; under a drain it runs on
(R340). -/
def execStartTimeReached (s : State) : Out :=
  match s.gang? s.cur.args.gid with
  | none => .next s
  | some g =>
    let gs := s.groupOf g
    if s.serving && gs.all (fun h => h.state == .starting && !h.started && !h.stopping && !h.saveDone) then
      .next (s.startGangs (gs.map (·.gid)) (gs.length > 1 || g.launch.any (·.group != 0)))
    else .next s

/-! The end of a gang (R93, R275). -/

/-- A core has ended (R93): its copies have written their records too. -/
def Core.ended (c : Core) : Bool :=
  c.programsEnded && !c.landing && !c.owes

/-- A post for one of a list of cores. -/
def Post.forCores (cores : List Nat) : Post → Bool
  | .event c _ _ => cores.contains c
  | .message c _ => cores.contains c
  | .tret c _ _ => cores.contains c
  | .helperReturn c _ => cores.contains c
  | .channel c _ _ _ => cores.contains c
  | .gather c _ _ _ _ _ => cores.contains c

/-- A core that no gang holds: what is left of it is its data cache, FLTREC0–FLTREC3, and PART until the cluster changes its
owner (Table 1-7). Its other registers belong to no context then, and no program can read them; where a dump shows them (R373)
they read as at reset, where R4 leaves them not defined (DESIGN CHOICE, log 5). -/
def Core.vacate (c : Core) : Core :=
  { Core.reset with dcache := c.dcache, fltrec := c.fltrec, fltAt := c.fltAt, part := c.part }

/-- Dirty lines of a gang's tag that lie in data caches are written back, because its cores may be others now (R347; log
25); they stay where they lie, and hit again where their context is restored (R320). -/
def State.gatherLines (s : State) (g : Gang) : State :=
  s.everyCore (fun s c => s.cleanLines c (fun l => l.part == g.part && l.tag == g.tag && l.era == g.era))

/-- Takes a gang away: its accesses are performed, its clusters released, what was on its way to it discarded. -/
def State.dropGang (s : State) (g : Gang) : State :=
  let here := if g.state == .saved then [] else g.cores
  let s := if g.state == .saved then s.gatherLines g else here.foldl (fun s c => s.release c) s
  let s := here.foldl (fun s c => s.modCore c Core.vacate) s
  let group := (g.launch.map (·.group)).getD 0
  let s := s.modPart g.part (fun p => { p with slots := p.slots.filter (fun n => !g.slots.contains n) })
  let s := match g.launch with
    | some l => s.modQueue l.queue (fun k => { k with saved := k.saved.filter (· != g.gid) })
    | none => s
  { s with gangs := s.gangs.filter (·.gid != g.gid)
           placement := if s.placement.any (fun p => p.1 == .restore g.gid) then none else s.placement
           orphans := s.orphans ++ (g.drivings.filter (fun d => group != 0 && s.abroad g.part group d)).map (fun d => (g.part, group, d))
           posts := s.posts.filter (fun p => !p.forCores here)
           tasks := s.tasks.filter (·.gid != g.gid)
           sysc := s.sysc.filter (·.gid != g.gid)
           monitors := s.monitors.filter (·.gid != g.gid) }

/-- A core that follows a stream has issued all of it, or waits in its last instruction. -/
def State.caughtUp (s : State) (core : Nat) : Bool :=
  match s.leader core with
  | none => true
  | some l =>
    let c := s.core core
    let n := (s.core l).stream.length
    c.excluded || decide (n ≤ c.spos) || (c.ctx 0).wait.isSome && decide (n ≤ c.spos + 1)

/-- A gang has ended: by its fate, once its stretchers have executed what was forwarded to them before a fault (R59), or
because all of its cores have (R93, R275). -/
def State.gangEnded (s : State) (g : Gang) : Bool :=
  (g.fate.isSome && (g.fate != some 1 || g.state != .running || g.cores.all s.caughtUp)) ||
  (g.state == .running && !g.saveDone && g.cores.all (fun c => (s.core c).ended))

/-- In STANDBY the arrays of idle cores sleep, and the L2 slices once no gang is placed; each notes the counter (R321,
R378). -/
def State.sleepIdle (s : State) : State :=
  if s.service.pst = 2 then
    let idle := (s.cores.filter (fun e => !e.2.placed)).map (·.1)
    let slices := if s.gangs.all (·.state == .saved) then (s.l2.map (·.1)).map (8192 + ·) else []
    { s with asleep := (idle ++ slices).foldl (fun t n =>
        if (Table.find t n).isSome then t else Table.set t n s.tagsIssued) s.asleep }
  else s

/-- GANG_END (R275): the clusters are released, the SMASK bits set, then the record written; records of earlier ends whose
page has come are written first. -/
def execGangEnd (s : State) : Out :=
  if !s.serving then .next s
  else
    let s := s.writeCompletions
    match s.gang? s.cur.args.gid with
    | none => .next s
    | some g => match g.launch with
      | none => .next s
      | some l =>
        if !s.gangEnded g then .next s
        else
          let status := g.fate.getD 0
          let exit := if status = 0 then (s.core g.origin).exit.toNat else 0
          .next ((s.dropGang g).endLaunch l status exit).sleepIdle

end Sys2Proof.Machine
end

