-- ==== Sys2Proof/Machine/Save.lean ====
section
/-! DEFINITION. Pre-emption, the forced save, the core record, the restore and the long-wait swap (R283, R340 to R348,
R352). -/

namespace Sys2Proof.Machine

/-! The core record (Tables 1-5, 21-2 to 21-4). -/

/-- A word as eight bytes. -/
def wordBytes (w : Word) : List Byte := bytesOfNat 8 w.toNat
/-- `n` zero bytes. -/
def zeroBytes (n : Nat) : List Byte := List.replicate n 0

/-- The record of a context (Table 1-5). -/
def Context.record (x : Context) (c : Core) (n clk : Nat) : List Byte :=
  (List.range 31).flatMap (fun i => wordBytes (x.s.getD (i + 1) 0)) ++ wordBytes x.pc ++
  x.a.toList.flatMap wordBytes ++ wordBytes x.monaddr ++ [x.p &&& 0xFE, BitVec.ofNat 8 n] ++
  bytesOfNat 2 (c.vx.toNat + 256 * c.vy.toNat) ++ bytesOfNat 4 c.gid.toNat ++
  bytesOfNat 8 (match x.waitt with
    | some (r, at_) => r - (clk - at_)
    | none => 0) ++ zeroBytes 40

/-- The bytes of a v register, lane 0 first. -/
def vregBytes (v : VReg) : List Byte := v.toList.flatMap (fun l => bytesOfNat 4 l.toNat)

/-- A circular buffer (Table 21-3). -/
def CBuf.record (b : CBuf) : List Byte :=
  bytesOfNat 4 b.base ++ bytesOfNat 4 b.size ++ bytesOfNat 2 b.slots ++ bytesOfNat 2 b.free ++ bytesOfNat 2 b.filled ++
  bytesOfNat 2 b.rout ++ bytesOfNat 2 b.wout ++ bytesOfNat 1 b.rcur ++ bytesOfNat 1 b.wcur ++ zeroBytes 12

/-- A number from flags, the first in bit 0. -/
def bitsOf (l : List Bool) : Nat := l.foldr (fun b n => (if b then 1 else 0) + 2 * n) 0

/-- The execution state (Table 21-3). -/
def Core.execState (c : Core) : List Byte :=
  bytesOfNat 1 (bitsOf (c.chan.toList.map (·.isSome))) ++
  bytesOfNat 1 ((if c.phase == .closed then 2 else 0) + (if c.barSince then 4 else 0)) ++
  bytesOfNat 1 ((match c.mode with | .attached => 0 | .bondHeader => 1 | .follower _ => 2) +
    (if (c.ctx 0).halted then 4 else 0) + (if (c.ctx 11).live then 8 else 0) + (if c.parked then 16 else 0)) ++
  zeroBytes 1 ++ bytesOfNat 2 (bitsOf (c.ctxs.toList.map (·.stop.isSome))) ++ zeroBytes 2 ++
  c.bars.toList.flatMap (fun b => bytesOfNat 1 b.count) ++ bytesOfNat 1 (bitsOf (c.bars.toList.map (·.pending))) ++
  zeroBytes 49

/-- The eleven registers at 0x2_F9A0 of the record. -/
def Core.savedRegisters (c : Core) : List Word :=
  [c.vxy, c.gid.zeroExtend 64, (c.era ++ c.tag).zeroExtend 64, BitVec.ofNat 64 c.skew, c.waitth.zeroExtend 64,
   c.bto.zeroExtend 64, c.hlive, c.fpmode.zeroExtend 64, c.fpflags.zeroExtend 64, c.sigctl, c.trappc]

/-- The core record of Table 21-2; the first argument is its scratchpad and lane slices. A landing of the clock of the stop counts
(R348). -/
def Core.record (local_ : List Byte) (c : Core) (clk : Nat) : List Byte :=
  local_ ++ c.t.toList.flatMap (fun t => bytesOfNat 4096 t.toNat) ++ c.v.toList.flatMap vregBytes ++
  c.chan.toList.flatMap (fun e => match e with
    | some v => vregBytes v
    | none => zeroBytes 256) ++
  (List.range 10).flatMap (fun i =>
    if (c.ctx (i + 1)).live then (c.ctx (i + 1)).record c (i + 1) clk else zeroBytes 448) ++
  (c.ctx 11).record c 11 clk ++ (c.ctx 0).record c 0 clk ++ c.k.toList.flatMap wordBytes ++
  c.tshp.toList.flatMap (fun w => bytesOfNat 8 w.toNat) ++ c.evw.toList.flatMap wordBytes ++
  c.savedRegisters.flatMap wordBytes ++ zeroBytes 8 ++ bytesOfNat 32 c.fltrec.bytes.toNat ++
  c.windows.flatMap (fun w => wordBytes w.1 ++ wordBytes w.2.1 ++ wordBytes w.2.2) ++
  (List.range 8).flatMap (fun n => wordBytes (c.watermark (clk + 1) n).word) ++ bytesOfNat 16 c.seq.word.toNat ++
  wordBytes c.seq.pc ++ wordBytes c.seq.image ++ c.cbuf.toList.flatMap CBuf.record ++ c.execState ++ zeroBytes 704

/-- The annex of Table 21-4 but for its check value: entries in the device's own layout, then reserved zeros. -/
def annexBytes (n : Nat) : List Byte := (List.range 0x25C0).map (Config.annexByte n) ++ zeroBytes 0xA00

/-- The size of a core slot, and the first byte of one (R352). -/
def slotSize : Nat := 0x33000
def Partition.slotAt (p : Partition) (n : Nat) : Nat := p.savebase.toNat + n * slotSize

/-! What a wait that exceeds WAITTH waits for (R283). -/

/-- The wake condition of a wait that counts toward WAITTH (Table 8-1); none for one that does not. -/
def WaitKind.wakeOf (k : WaitKind) (core ctx : Nat) : Option WakeCondition :=
  match k with
  | .barArrive _ | .barDone _ _ | .gattach _ | .engine | .join | .hold _ | .declined _ => none
  | .monitor => some (.monitor core ctx)
  | WaitKind.page part ia => some (WakeCondition.page part ia)
  | .hostPage part _ hp => some (.hostPage part hp)
  | .waittRel => some (.waittRel core ctx)
  | .waittAbs t => some (.waittAbs t)
  | .sysc => some (.sysc core ctx)
  | _ => some .interval

/-- The wake condition of a context whose wait, or of a control context for which the stream is withheld, has exceeded
the WAITTH with which that began (R209, R283). -/
def State.overlong (s : State) (core ctx : Nat) : Option WakeCondition :=
  let x := (s.core core).ctx ctx
  let waits := match x.wait with
    | some w => if s.waited core w.since ≤ w.limit || x.stop.isSome then none else w.kind.wakeOf core ctx
    | none => none
  waits.or (if ctx = 0 && s.overdue core then some .interval else none)

/-- The wake condition of the first context of a gang whose wait has exceeded its WAITTH. -/
def State.dueWake (s : State) (g : Gang) : Option WakeCondition :=
  g.cores.findSome? (fun c => (List.range 12).findSome? (s.overlong c))

/-! The stop (R212, R234, R341). -/

/-- A fault record that waits for room in its mailbox. -/
def State.undelivered (s : State) : Post → Bool
  | .message c m => !(s.core c).hasRoom m.kind
  | _ => false

/-- A product that a core's sequencer runs stands at one step in every core of the segment that has not left it: where one has
finished it, the others are to finish it too (R147). -/
def State.segmentEven (s : State) (core : Nat) : Bool :=
  !(s.core core).multiplying || (s.segment core).all (fun n =>
    (s.core n).excluded || (s.core n).multiplying && (s.core n).seq.step == (s.core core).seq.step)

/-- A gang has stopped at one stream position: no phase is open, every attached core has caught up, and nothing that it
has issued is still on its way. -/
def State.stoppedAll (s : State) (g : Gang) : Bool :=
  !s.anyOpen g && g.cores.all s.caughtUp && g.cores.all s.segmentEven &&
  g.cores.all (fun c => (s.core c).ctxs.toList.all (·.replies.isEmpty)) &&
  s.posts.all (fun p => !p.forCores g.cores || s.undelivered p)

/-- A wait that a save abandons: the instruction issues again (R163, R341). -/
def Context.abandon (clk : Nat) (x : Context) : Context :=
  { x with shippedTo := none, waitt := x.waitt.map (fun w => (w.1 - (clk - w.2), 0)), wait := none, cellSel := none }

/-- A waiting BARW is abandoned and has had no effect: its arrival is withdrawn (R163, R171, R341). -/
def Core.withdraw (c : Core) : Core :=
  match (c.ctx 0).wait with
  | some w => match w.kind with
    | .barDone scope none => c.modBar scope (fun b => { b with count := b.count - 1, pending := false })
    | _ => c
  | none => c

/-- The state of a core as the device keeps it. -/
def Core.suspend (clk : Nat) (c : Core) : Core :=
  { c with ctxs := c.ctxs.map (Context.abandon clk), operands := [], dcache := [], lines := [] }

/-- Copies the error marks of a run of bytes to where the bytes go (R314). -/
def State.moveMarks (s : State) (src dst len : Nat) : State :=
  let kept := s.bad.filter (fun e => !(dst ≤ e.1 && e.1 < dst + len))
  let moved := (s.bad.filter (fun e => src ≤ e.1 && e.1 < src + len)).map (fun e => (e.1 - src + dst, e.2))
  { s with bad := moved.foldl (fun t e => Table.set t e.1 e.2) kept }

/-- The scratchpad and the lane slices of a core. -/
def State.localBytes (s : State) (core : Nat) : List Byte :=
  s.mem.readBytes (Config.spLoc core 0) 131072 ++ s.mem.readBytes (Config.laneLoc core 0 0) 16384

/-- Writes the record and the annex of a core into a slot at a physical address (R342, R345). -/
def State.writeSlot (s : State) (core pa : Nat) : State :=
  let bytes := (s.core core).record (s.localBytes core) s.clk ++ annexBytes s.freeCtr
  let s := { s with freeCtr := s.freeCtr + 1, errs := s.errs.filter (fun e => !inRun pa slotSize (burstOf e.1)) }.pokes pa
    (bytes ++ bytesOfNat 64 (Config.checkValue bytes).toNat)
  (s.moveMarks (Config.spLoc core 0) pa 131072).moveMarks (Config.laneLoc core 0 0) (pa + 131072) 16384

/-- A task whose footprint is not complete when its gang is saved goes back to the list of the undispatched (R345): its
helper is free, its pins are released. -/
def Task.recalled (gid : BitVec 16) (t : Task) : Task :=
  if t.gid == gid && !t.started then { t with at_ := none, pins := [] } else t

/-- The forced save of a stopped gang (R341, R342, R352): the slots, the records, and the cores left behind. A swap that is due
in the same clock gives it its wake condition (R348). -/
def State.forcedSave (s : State) (g : Gang) : State :=
  let p := s.part g.part
  let slots := (s.freeSlots g.part).take g.cores.length
  let wake := g.wake.or (s.dueWake g)
  let s := g.cores.foldl (fun s c => s.modCore c Core.withdraw) s
  let saves := g.cores.map (fun c => (s.core c).suspend s.clk)
  let held := s.posts.filterMap (fun q => match q with
    | .message c m => if g.cores.contains c then some m else none
    | _ => none)
  let s := (g.cores.zip slots).foldl (fun s e => s.writeSlot e.1 (p.slotAt e.2)) s
  let s := s.modPart g.part (fun p => { p with slots := p.slots ++ slots })
  let s := { s with
    posts := s.posts.filter (fun q => !q.forCores g.cores)
    tasks := s.tasks.map (Task.recalled g.gid)
    monitors := s.monitors.map (fun (m : Monitor) =>
      if m.gid == g.gid && m.sector ≥ 2 ^ 65 && m.sector < 2 ^ 67 then { m with sector := 2 ^ 80 } else m) }
  let s := s.modGang g.gid (fun g =>
    { g with saves := saves, slots := slots, held := held, saveDone := true, wake := wake, savedTbase := s.tbase })
  g.cores.foldl (fun s c => s.modCore c Core.vacate) s

/-- The slots that a save of gangs takes lie in memory (R352). -/
def State.slotsExist (s : State) (gs : List Gang) : Bool :=
  match gs with
  | [] => true
  | g :: _ => ((s.freeSlots g.part).take (gs.flatMap (·.cores)).length).all (fun n =>
      s.okPa ((s.part g.part).slotAt n + slotSize - 1))

/-- Goes on with a stop that is due of gangs that are saved together: the origin of each issues nothing more once no phase of
it is open, and they are saved when all have stopped. Without slots for all it does not take place (R340, R342). -/
def State.stopAndSave (s : State) (gs : List Gang) : Out :=
  if !s.canSave gs then
    .next (gs.foldl (fun s g => s.modGang g.gid (fun g => { g with drain := none, wake := none, stopping := false })) s)
  else if !s.slotsExist gs then
    .fault (.noSuchPhysicalAddress ((gs.head?.map (fun g => (s.part g.part).savebase.toNat)).getD 0))
  else
    let s := gs.foldl (fun s g =>
      if s.anyOpen g && !g.stopping then s else s.modGang g.gid (fun g => { g with stopping := true })) s
    .next (if gs.all (fun g => (s.gang? g.gid).any (·.stopping) && s.stoppedAll g) then gs.foldl State.forcedSave s else s)

/-- A gang that holds clusters, is not being saved and has not ended. -/
def State.stoppable (s : State) (g : Gang) : Bool :=
  g.state != .saved && !g.saveDone && g.rollback.isEmpty && !s.gangEnded g

/-- The gangs of a group whose drain a pre-emption has begun: they are saved together (R340). -/
def State.draining (s : State) (g : Gang) : List Gang := (s.groupOf g).filter (fun h => h.drain.isSome && s.stoppable h)

/-- PREEMPTION_REQUEST (R340, R282). -/
def execPreemptionRequest (s : State) : Out := .next (s.requestPreemption s.cur.args.gid)

/-- DRAIN_EXPIRY (R340, R341): the drain limit has lapsed. -/
def execDrainExpiry (s : State) : Out :=
  match s.gang? s.cur.args.gid with
  | none => .next s
  | some g =>
    if g.drain.any (fun t => decide (t ≤ s.clk)) && s.stoppable g then s.stopAndSave (s.draining g) else .next s

/-- Nominal clocks in an interval of TBASE (R5, R184). -/
def clocksOf (dt : Nat) : Nat := dt * 1050 / 65536000

/-- The clocks for which a saved gang has been away. -/
def State.away (s : State) (g : Gang) : Nat := clocksOf (s.tbase.toNat - g.savedTbase.toNat)

/-- The state of a context of a saved gang. -/
def Gang.savedCtx (g : Gang) (core ctx : Nat) : Context :=
  match g.cores.idxOf? core with
  | some i => (g.saves.getD i Core.reset).ctx ctx
  | none => Context.reset

/-- A wake condition has occurred (R283), also while the gang was being stopped: its monitor or its request is gone then. -/
def State.woken (s : State) (g : Gang) : WakeCondition → Bool
  | .monitor core ctx => !s.monitors.any (fun m => m.gid == g.gid && m.core == core && m.ctx == ctx && !m.hit)
  | .page part ia => !s.pageRequests.any (fun r => r.part == part && r.page == ia - ia % 4096 && r.host.isNone)
  | .hostPage part page => !s.hostRequested (s.part part).hpasid page &&
      !s.hostAsked.any (fun a => a.2.1 == (s.part part).hpasid && a.2.2 == page)
  | .waittRel core ctx => match (g.savedCtx core ctx).waitt with
    | some (r, _) => decide (r ≤ s.away g)
    | none => true
  | .waittAbs t => decide (t.toNat ≤ s.tbase.toNat)
  | .sysc core ctx => !s.sysc.any (fun r => r.gid == g.gid && r.core == core && r.ctx == ctx && r.answer.isNone)
  | .interval => false

/-- SAVE_COMPLETE (R343, R283): the clusters are released, and the gang stands at the front of its queue's list; what it waits
for may have come since its wait exceeded WAITTH. -/
def execSaveComplete (s : State) : Out :=
  match s.gang? s.cur.args.gid with
  | none => .next s
  | some g =>
    if !g.saveDone || g.state == .saved then .next s
    else
      let s := s.modGang g.gid (fun g =>
        { g with state := .saved, drain := none, stopping := false, swappedAt := s.clk, eligible := g.wake.isNone || g.wake.any (s.woken g) })
      let s := s.sleepIdle
      match g.launch with
      | none => .next s
      | some l => .next (s.modQueue l.queue (fun k => { k with saved := g.gid :: k.saved }))

/-! The long-wait swap (R283). -/

/-- LONG_WAIT_SWAP (R283): a wait has exceeded the WAITTH with which it began. The swap is due from then on, also when
that wait ends before the gang has stopped. Under index 1 the wait is noted, ahead of what may end it in that clock; otherwise the
stop goes on. -/
def execLongWaitSwap (s : State) : Out :=
  let core := s.cur.args.core
  match s.gangOf core with
  | none => .next s
  | some g =>
    if g.state != .running || !s.stoppable g then .next s
    else match g.wake.or (s.overlong core s.cur.args.ctx.val) with
      | none => .next s
      | some k =>
        let s := s.modGang g.gid (fun g => { g with wake := some k })
        if s.cur.args.index = 1 then .next s else s.stopAndSave [{ g with wake := some k }]

/-- A swapped gang becomes eligible. -/
def State.wakeGang (s : State) (due : Gang → Bool) : Out :=
  match s.gang? s.cur.args.gid with
  | none => .next s
  | some g =>
    .next (if g.state == .saved && due g then s.modGang g.gid (fun g => { g with eligible := true }) else s)

/-- SWAP_WAKE (R283). -/
def execSwapWake (s : State) : Out := s.wakeGang (fun g => g.wake.any (s.woken g))
/-- RESUME_INTERVAL_EXPIRY (R283). -/
def execResumeIntervalExpiry (s : State) : Out :=
  s.wakeGang (fun g => g.wake.isSome && decide (s.clk ≥ g.swappedAt + s.service.resume))

/-! The restore (R345, R346). -/

/-- A record that no context raised (CTX 12) and that ends its gang: firmware reports it (R354, R357). -/
def State.reportEnd (s : State) (g : Gang) (cls : FaultClass) (code : Nat) (operand pc : Word) : State :=
  let (dpc, s) := s.free
  let r := faultRecord true (BitVec.ofNat 4 g.part) 12 0 0
    { cls := cls, code := BitVec.ofNat 16 code, operand := operand, pc := pc, async := true, dpc := dpc }
  { s with records := (r :: s.records).take 4096, notices := .record r :: s.notices }.modGang g.gid
    (fun g => { g with fate := g.fate.or (some 1) })

/-- The fault that an access which cannot be made stands for. -/
def Trap.asFault : Trap → FaultClass × Nat × Word
  | .fault c n o => (c, n, o)
  | .page _ ia => (.page, 0, BitVec.ofNat 64 ia)
  | .host _ _ _ _ ia => (.page, 0, BitVec.ofNat 64 ia)
  | _ => (.prot, 10, 0)

/-- The resume PC of a saved gang: that of its origin. -/
def Gang.resumePc (g : Gang) : Word := ((g.saves.headD Core.reset).ctx 0).pc

/-- The records of a saved gang carry their check values. -/
def State.recordsGood (s : State) (g : Gang) : Bool :=
  g.slots.all (fun n =>
    let pa := (s.part g.part).slotAt n
    let bytes := s.mem.readBytes pa (slotSize - 64)
    decide (BitVec.ofNat 512 (s.mem.readNat (pa + slotSize - 64) 64) = Config.checkValue bytes))

/-- The number of a core after a move of its gang. -/
def renumber (old new : List Nat) (core : Nat) : Nat :=
  match old.idxOf? core with
  | some i => new.getD i core
  | none => core

/-- A context as a restore loads it: its PC is checked under R55 only where it is a target that was not yet fetched at the
save, and what is left of a timed wait counts on. -/
def Context.restore (clk away at_ : Nat) (x : Context) : Context :=
  { x with
    notBefore := at_
    waitt := x.waitt.map (fun w => (w.1 - away, clk)) }

/-- A core as a restore loads it (R346): its macro-operation goes on at STEP from its first issue clock. -/
def Core.restore (saved old : Core) (clk away : Nat) (move : Nat → Nat) : Core :=
  let c := { saved with
    dcache := old.dcache
    checker := { saved.checker with active := false }
    seq := { saved.seq with since := clk + 1 + saved.skew }
    mode := match saved.mode with
      | .follower w => .follower (move w)
      | m => m }
  { c with ctxs := c.ctxs.map (Context.restore clk away (clk + 1 + c.skew)) }

/-- Loads the scratchpad and the lane slices of a core from its slot. -/
def State.loadLocal (s : State) (core pa : Nat) : State :=
  let m := s.mem.writeBytes (Config.spLoc core 0) (s.mem.readBytes pa 131072)
  let m := m.writeBytes (Config.laneLoc core 0 0) (m.readBytes (pa + 131072) 16384)
  ({ s with mem := m }.moveMarks pa (Config.spLoc core 0) 131072).moveMarks (pa + 131072) (Config.laneLoc core 0 0) 16384

/-- The reply of firmware in a context: status, and s2 where the service writes it (R92). -/
def State.answer (s : State) (core ctx : Nat) (a : Word × Word) : State :=
  (s.modCtx core ctx (fun x => (x.setSA 1 a.1).setSA 2 a.2)).endWait core ctx

/-- What waits outside the cores of a gang follows them to their new numbers. -/
def State.moveOutside (s : State) (gid : BitVec 16) (move : Nat → Nat) : State :=
  { s with
    monitors := s.monitors.map (fun m => if m.gid == gid then { m with core := move m.core } else m)
    sysc := s.sysc.map (fun r => if r.gid == gid then { r with core := move r.core } else r)
    tasks := s.tasks.map (fun t =>
      if t.gid == gid then
        { t with target := t.target.map move, issuer := (move t.issuer.1, t.issuer.2)
                 at_ := t.at_.map (fun a => (move a.1, a.2)), block := clusterOf (move (t.block * 32)) }
      else t) }

/-- Wakes the monitored waits of a restored gang (reason 3 without a write) and writes the replies that came while it was
away (R92, R283, Table 6-7). -/
def State.settleWaits (s : State) (gid : BitVec 16) : State :=
  let s := (s.monitors.filter (·.gid == gid)).foldl (fun s m =>
    (s.wake m (if m.hit then 1 else 3)).endWait m.core m.ctx) s
  (s.sysc.filter (fun r => r.gid == gid && r.answer.isSome)).foldl (fun s r =>
    { s.answer r.core r.ctx (r.answer.getD (0, 0)) with
      sysc := s.sysc.filter (fun k => !(k.gid == gid && k.core == r.core && k.ctx == r.ctx)) }) s

/-- Restores one gang on clusters of a die (R346, R352). -/
def State.restoreGang (s : State) (g : Gang) (die : Nat) (clusters : List Nat) (plan : List PlanEntry) : State :=
  let cores := coresIn clusters g.w g.h
  let move := renumber g.cores cores
  let away := s.away g
  let s := s.gatherLines g
  let s := (cores.zip g.slots).foldl (fun s e => s.loadLocal e.1 ((s.part g.part).slotAt e.2)) s
  let s := (cores.zip g.saves).foldl (fun s e => s.modCore e.1 (fun old => e.2.restore old s.clk away move)) s
  let s := s.modPart g.part (fun p => { p with slots := p.slots.filter (fun n => !g.slots.contains n) })
  let s := { s with orders := s.orders + 1 }
  let sup := g.supervisor.map move
  let s := s.modGang g.gid (fun g =>
    { g with
      state := if g.started then .running else .starting
      die := die, cores := cores, clusters := clusters, order := s.orders, supervisor := sup, plan := plan
      drivings := [], holders := [], holds := [], pastHolds := [], mhz := s.service.mhz, throttle := none, saves := [], slots := [], held := []
      saveDone := false, wake := none, eligible := false })
  let s := s.moveOutside g.gid move
  let s := match sup with
    | some c => { s with posts := s.posts ++ g.held.map (Post.message c) }
    | none => s
  let s := s.settleWaits g.gid
  if g.started then cores.foldl (fun s c => s.beginSuperstep c false) s else s

/-- What a restore reads anew: the slot table (R235). -/
def State.readPlan (s : State) (g : Gang) : Except Trap (List PlanEntry) :=
  match g.launch with
  | none => .ok []
  | some l => (s.cmdRead l.part (l.dw 3).toNat (16 * l.plann)).map (fun y => planEntries y l.plann)

/-- The dies that a gang may take. -/
def Gang.dies (g : Gang) : List Nat :=
  match g.launch with
  | some l => l.dies
  | none => [0, 1, 2, 3]

/-- Places for saved gangs one after another. -/
def State.findRestores (s : State) : List Gang → List Nat → Option (List (Nat × List Nat))
  | [], _ => some []
  | g :: gs, busy =>
    match s.findPlace g.part busy g.dies g.w g.h with
    | none => none
    | some (d, cs) => (s.findRestores gs (busy ++ cs)).map ((d, cs) :: ·)

/-- Restores a gang whose place is found, or ends it: an unreadable slot table, or a record that fails its check. -/
def State.restoreOne (s : State) (g : Gang) (place : Nat × List Nat) : PacketEnd :=
  match s.readPlan g with
  | .error t => match s.cmdTrap t 0 with
    | .error s _ =>
      let (cls, code, o) := t.asFault
      .done (s.reportEnd g cls code o g.resumePc)
    | e => e
  | .ok plan =>
    if !s.recordsGood g then
      .done (s.reportEnd g .uce 0 (BitVec.ofNat 64 ((s.part g.part).slotAt (g.slots.headD 0))) g.resumePc)
    else
      let s := match g.launch with
        | some l => (s.charge l.queue).modQueue l.queue (fun k => { k with saved := k.saved.filter (· != g.gid) })
        | none => s
      .done (s.restoreGang g place.1 place.2 plan)

/-- Restores gangs together. -/
def State.restoreAll (s : State) : List (Gang × (Nat × List Nat)) → PacketEnd
  | [] => .done s
  | (g, p) :: gs =>
    match s.restoreOne g p with
    | .done s => s.restoreAll gs
    | e => e

/-- The restore of a gang goes on with the clusters reserved for it, or may begin: the distributor takes it, or it is a
formula gang, which goes ahead of the queues (R293). -/
def State.restoreChosen (s : State) (g : Gang) : Bool :=
  match s.placement, g.launch with
  | some (c, _), _ => c == .restore g.gid
  | none, none => g.state == .saved && g.eligible
  | none, some l => decide (s.choice = some (l.queue, .restore g.gid))

/-- The gangs that are restored with a saved one: those of its group that were saved with it, whose resume barrier is one, and
those that are eligible too (R346). -/
def State.restoredWith (s : State) (g : Gang) : List Gang :=
  (s.groupOf g).filter (fun h => h.state == .saved &&
    (h.gid == g.gid || h.eligible || h.swappedAt == g.swappedAt && (h.wake.isNone || g.wake.isNone)))

/-- No gang of a group is being stopped or saved, or will be: a restore waits for that (R340, R346). -/
def State.groupSettled (s : State) (g : Gang) : Bool :=
  (s.groupOf g).all (fun h => h.state == .saved || h.drain.isNone && !h.stopping && !h.saveDone)

/-- GANG_RESTORE (R346): the saved gang that the distributor takes, with those of its group. While a slot table's
page is requested the clusters stay reserved (R270). -/
def execGangRestore (s : State) : Out :=
  let s' := s.refreshQueues
  match s.gang? s.cur.args.gid with
  | none => .next s
  | some g =>
    let gs := s.restoredWith g
    if g.state != .saved || !s.groupSettled g || !s.placing || !s'.restoreChosen g || !gs.all (fun h => h.eligible && h.fate.isNone) then .next s
    else match (s.placement.map (·.2)).or (s'.findRestores gs s'.heldClusters) with
      | none => match g.launch with
        | some l => .next (s'.preemptFor g.part (s'.queue l.queue).cls.toNat (fun busy => (s'.findRestores gs busy).isSome))
        | none => .next s'
      | some places =>
        let free := { s' with placement := none }
        if gs.length != places.length || !places.all (fun p => p.2.all (s.usable g.part)) then .next free
        else match free.restoreAll (gs.zip places) with
        | .done s => .next s.refreshQueues
        | .hold t => .next { s with
            pageRequests := t.pageRequests, hostAsked := t.hostAsked, notices := t.notices
            placement := some (.restore g.gid, places) }
        | .error s _ => .next s

end Sys2Proof.Machine
end

