-- ==== Sys2Proof/Machine/Formula.lean ====
section
/-! DEFINITION. Formula tasks: their placement with the fetch of the footprint, and their end (R293 to R295, R303). -/

namespace Sys2Proof.Machine

/-- The task of a gang has ended by itself with an exit code other than 0. -/
def State.exitFailed (s : State) (g : Gang) : Option (BitVec 16) :=
  let exit := (s.core g.origin).exit
  if g.cores.all (fun c => (s.core c).ended) && exit ≠ 0 then some exit else none

/-- A formula task fails: its wave aborts, step 1 of R303 at once. Another task of the wave that has ended by itself with a
code other than 0 by then has failed with it. The host is told of the failing cell of the lowest id, with the exit code of
a task that ended by itself. -/
def State.failFormula (s : State) (part : Nat) (wave : BitVec 32) (id : Nat) (exit : Option (BitVec 16) := none) : State :=
  let failing := ((s.part part).waves.filter (·.number == wave)).flatMap (·.failing)
  let later : HostNotice → Bool
    | .waveAborted q c _ => q == part && failing.contains c && decide (id < c)
    | _ => false
  let notices := if failing.any (fun c => decide (c < id)) then s.notices
    else .waveAborted part id exit :: s.notices.filter (fun n => !later n)
  let s := s.modPart part (fun p => p.modWave wave (fun w => { w with failing := w.failing ++ [id] }))
  { s with gangs := s.gangs.map (fun g =>
      if g.part == part && g.formula.any (·.2 == wave.toNat) then
        { g with fate := g.fate.or (some (if (s.exitFailed g).isSome then 1 else 2)) } else g)
           notices := notices }

/-- The record of a formula task that fails before it starts (R354): CTX 12, the gang's origin, the kernel's PC. -/
def State.formulaRecord (s : State) (part : Nat) (c : Cell) (t : Trap) : State :=
  let (cls, code, o) := t.asFault
  let (dpc, s) := s.free
  let r := faultRecord false (BitVec.ofNat 4 part) 12 0 0
    { cls := cls, code := BitVec.ofNat 16 code, operand := o, pc := c.pc, async := true, dpc := dpc }
  { s with records := (r :: s.records).take 4096, notices := .record r :: s.notices }

/-- The source bytes of a footprint: intermediate addresses with their scratchpad offsets. A precedent of the same wave
is read in its back buffer, another in its front buffer (R294). -/
def Partition.footprintBytes (p : Partition) (w : Wave) (c : Cell) : List (Nat × Nat) :=
  (p.footprint c.foff c.prec).flatMap (fun e => match p.cell? e.1 with
    | none => []
    | some k =>
      let b := if w.has e.1 then k.back else k.front
      (List.range k.extent).map (fun i => (b + i, e.2.1 + i)))

/-- The places of a footprint with their offsets, or the first trap; a page that may not be pinned faults (R332). -/
def State.readFootprint (s : State) (part origin : Nat) : List (Nat × Nat) → Except Trap (List (Nat × Place))
  | [] => .ok []
  | (ia, off) :: bs =>
    match s.translate origin 11 part ia { r := true } (BitVec.ofNat 64 ia) false with
    | .error t => .error t
    | .ok pl =>
      if pl.leaf.any (fun l => !leafPinok l.leaf) then .error (.fault .prot 9 (BitVec.ofNat 64 ia))
      else match s.uceAt pl with
      | some code => .error (.fault .uce code (BitVec.ofNat 64 ia))
      | none => match s.readFootprint part origin bs with
        | .error t => .error t
        | .ok r => .ok ((off, pl) :: r)

/-- The pins of a formula task, held until its gang ends (R294, R332). -/
def State.pinFormula (s : State) (gid : BitVec 16) (part origin : Nat) (pc : Word) (pages : List Nat) : State :=
  let t : Task :=
    { number := s.freeCtr, gid := gid, block := clusterOf origin, pc := pc, arg := 0, target := none, ranges := []
      issuer := (origin, 0), gone := false, issuePc := pc, windows := [], at_ := some (origin, 0), started := true
      pins := pages.map (fun a => (part, a)) }
  { s with tasks := s.tasks ++ [t], freeCtr := s.freeCtr + 1 }

/-- Each page once. -/
def pagesOnce : List Nat → List Nat
  | [] => []
  | a :: as => if as.contains a then pagesOnce as else a :: pagesOnce as

/-- Starts a formula task on a cluster, its footprint landed (R293, R294). -/
def State.startFormula (s : State) (part : Nat) (w : Wave) (id : Nat) (c : Cell) (die : Nat) (clusters : List Nat)
    (ws : List (Word × Word × Word)) (bytes : List (Nat × Byte)) : State :=
  let gw := c.gwm1.toNat + 1
  let gh := c.ghm1.toNat + 1
  let g := { Gang.fresh part gw gh die clusters with formula := some (id, w.number.toNat) }
  let origin := coreIn clusters gw 0 0
  let s := bytes.foldl (fun s e => s.poke (Config.spLoc origin e.1) e.2) s
  let values (x : Context) : Context :=
    ((x.setSA 2 (BitVec.ofNat 64 id)).setSA 3 (w.number.zeroExtend 64)).setSA 4 (BitVec.ofNat 64 c.foff)
  let (s, gid) := s.placeGang g (fun old gid x y tag era =>
    (old.start gid x y gw gh part tag era c.pc none ws 0 0 false).modCtx 0 values) none
  let level := BitVec.ofNat 16 (((s.part part).asOf w).levelOf w id)
  let s := s.modPart part (fun p =>
    (p.modWave w.number (fun w => { w with placed := w.placed ++ [id] })).modCell id (fun c => { c with level := level }))
  let pages := pagesOnce ((((s.part part).asOf w).footprintBytes w c).map (fun e => e.1 - e.1 % 4096))
  (s.pinFormula gid part origin c.pc pages).launchBarrier [gid] false

/-- FORMULA_TASK_PLACEMENT (R293, R294): the next formula task of a partition, when its gang fits. -/
def execFormulaTaskPlacement (s : State) : Out :=
  let part := s.cur.args.part
  let p := s.part part
  if !s.placing || s.placement.isSome then .next s
  else match p.formulaNext with
    | none => .next s
    | some (w, id) => match (p.asOf w).cell? id with
      | none => .next s
      | some c =>
        let gw := c.gwm1.toNat + 1
        let gh := c.ghm1.toNat + 1
        match s.findPlace part s.heldClusters [0, 1, 2, 3] gw gh with
        | none => .next s
        | some (die, cs) =>
          let fail (t : Trap) : Out := match s.cmdTrap t 0 with
            | .hold s => .next s
            | .done s => .next s
            | .error s _ => .next ((s.formulaRecord part c t).failFormula part w.number id)
          match s.cmdRead part c.wintab 384 with
          | .error t => fail t
          | .ok x =>
            match s.readFootprint part (coreIn cs gw 0 0) ((p.asOf w).footprintBytes w c) with
            | .error t => fail t
            | .ok ps =>
              let s := s.engineVisit (coreIn cs gw 0 0) false (ps.map (·.2))
              .next (s.startFormula part w id c die cs (windowTriples x) (ps.map (fun e => (e.1, s.mem.read e.2.loc))))

/-- FORMULA_TASK_END (R295, R303): exit code 0 makes the cell RECOMPUTED; any other end but one that the abort itself
made aborts the wave. -/
def execFormulaTaskEnd (s : State) : Out :=
  match s.gang? s.cur.args.gid with
  | none => .next s
  | some g => match g.formula with
    | none => .next s
    | some (id, wave) =>
      if !s.gangEnded g then .next s
      else
        let exit := s.exitFailed g
        let s := (s.dropGang g).sleepIdle
        match g.fate, exit with
        | some 2, _ => .next s
        | some _, e => .next (s.failFormula g.part (BitVec.ofNat 32 wave) id e)
        | none, some e => .next (s.failFormula g.part (BitVec.ofNat 32 wave) id (some e))
        | none, none => .next (s.modPart g.part (fun p => p.modCell id (fun c => { c with state := .recomputed })))

end Sys2Proof.Machine
end

