-- ==== Sys2Proof/Machine/Registers.lean ====
section
/-! DEFINITION. The register blocks of BAR 0 (R267, R328, R339, R372, R375), a change of owner (R349, R350), and the
power states (R378, R381). -/

namespace Sys2Proof.Machine

/-! Zeroing (R349). -/

/-- Writes zero to a run of locations: what reads as unlisted is not listed (log 6). -/
def Memory.clear (m : Memory) (lo n : Nat) : Memory := m.filter (fun e => !inRun lo n e.1)

/-- A run of locations is written whole: its error marks, what DRAM held differently, RD and the lines of the slices that
hold it go. -/
def State.forgetRun (s : State) (lo n : Nat) : State :=
  { s with
    bad := s.bad.filter (fun e => !inRun lo n e.1)
    errs := s.errs.filter (fun e => !inRun lo n (burstOf e.1))
    rd := s.rd.filter (fun e => !inRun lo n e.1)
    l2 := (s.l2.map (fun (e : Nat × List L2Line) => (e.1, e.2.filter (fun l => !inRun lo n l.loc)))).filter (fun e => !e.2.isEmpty) }

/-- Zeroes a run of locations; monitors see the writes. -/
def State.zeroRun (s : State) (lo n : Nat) : State :=
  let s := s.forgetRun lo n
  { s with
    mem := s.mem.clear lo n
    monitors := s.monitors.map (fun (m : Monitor) =>
      if lo ≤ m.sector * 32 + 31 && m.sector * 32 < lo + n then { m with hit := true } else m) }

/-- The leaves below a table: first address, size and entry, in ascending order (R325, R326). -/
def leavesFrom (cap : Nat) (m : Memory) : Nat → Nat → Nat → Nat → List (Nat × Nat × Word)
  | 0, _, _, _ => []
  | n + 1, lv, t, base =>
    if !okPa cap t then []
    else (List.range (if lv = 0 then 256 else 512)).flatMap (fun i =>
      let e := m.readWord (t + 8 * i)
      let ia := base + i * 2 ^ (48 - 9 * lv)
      if !e.getLsbD 0 then []
      else if malformed cap lv e ((List.range 16).map (fun j => m.readWord (t + 8 * (i - i % 16 + j)))) then []
      else if isLeaf lv e then (if lv = 4 && e.getLsbD 56 && i % 16 != 0 then [] else [(ia, leafSize lv e, e)])
      else leavesFrom cap m n (lv + 1) ((e.extractLsb' 12 36).toNat * 4096) ia)

/-- The leaves of a partition's page table. -/
def State.leaves (s : State) (part : Nat) : List (Nat × Nat × Word) := leavesFrom s.capacity s.mem 5 0 (s.part part).ptbr.toNat 0

/-- Zeroes the frame of a leaf in device memory, of a replicated one on every die. -/
def State.zeroLeaf (s : State) (size : Nat) (e : Word) : State :=
  if leafHost e then s
  else if leafRepl e then
    (List.range 4).foldl (fun s d => s.zeroRun (leafFrame e % 2 ^ 46 + d * 2 ^ 46) size) s
  else s.zeroRun (leafFrame e) size

/-- The package cluster numbers of a partition. -/
def Partition.clusters (p : Partition) : List Nat :=
  (List.range 256).filter (fun c => (p.clu.getD (c / 64) 0).getLsbD (c % 64))

/-- A directory entry without a cluster whose lines have gone; none when no holder is left (R349). -/
def DirEntry.without (c : Nat) (e : DirEntry) : Option DirEntry :=
  if !e.holders.contains c then some e
  else
    let left := e.holders.filter (· != c)
    if left.isEmpty && e.rdie = 0 then none else some { e with holders := left }

/-- A cluster that changes its owner: its cores at their start values, its local memories and its chip-scratchpad segment
zero, its lines dropped without writeback and the directory without it, its attribute cache empty. -/
def State.zeroCluster (s : State) (c : Nat) : State :=
  let s := { s with
    cores := s.cores.filter (fun e => e.1 / 32 != c)
    attrCache := Table.erase s.attrCache c
    dirs := (s.dirs.map (fun (d : Nat × List DirEntry) => (d.1, d.2.filterMap (DirEntry.without c)))).filter (fun d => !d.2.isEmpty)
    asleep := s.asleep.filter (fun e => e.1 / 32 != c) }
  ((s.zeroRun (Config.spLoc (c * 32) 0) (32 * 131072)).zeroRun (Config.laneLoc (c * 32) 0 0) (32 * 16384)).zeroRun
    (Config.chipLoc (c / 64) (c % 64) 0) 1048576

/-- Helpers shipped to a cluster go on at home (R334). -/
def State.recallHelpers (s : State) (c : Nat) : State :=
  { s with cores := s.cores.map (fun (e : Nat × Core) =>
      (e.1, { e.2 with ctxs := e.2.ctxs.map (fun x =>
        if x.shippedTo.any (fun n => n / 32 == c) then { x with shippedTo := none } else x) })) }

/-- Drops cache lines that a test selects, in every core, without writeback. -/
def State.dropEverywhere (s : State) (sel : Nat → CacheLine → Bool) : State :=
  { s with cores := s.cores.map (fun (e : Nat × Core) => (e.1, { e.2 with dcache := e.2.dcache.filter (fun l => !sel e.1 l) })) }

/-! A change of owner (R350). -/

/-- One cluster changes its owner: the gangs that hold it end without a record or an event; a formula task among them
fails (R303). -/
def State.releaseCluster (s : State) (c : Nat) : State :=
  let s := (s.dropEverywhere (fun n _ => n / 32 == c)).recallHelpers c
  let held := s.gangs.filter (fun g => g.state != .saved && g.clusters.contains c)
  let s := held.foldl (fun s g =>
    let s := s.dropGang g
    match g.formula with
    | some (id, w) => s.failFormula g.part (BitVec.ofNat 32 w) id
    | none => s) s
  s.zeroCluster c

/-- The clusters that firmware withholds as service clusters of a new partition: at most four on each die, which ones the
spec leaves open (R333; log 9). -/
def serviceChoice (clusters : List Nat) (free : Nat → Word) : List Nat :=
  (List.range 4).flatMap (fun d =>
    ((clusters.filter (fun c => c / 64 == d)).filter (fun c => (free d).getLsbD (c % 64))).take 4)

/-- Four free values. -/
def State.freeFour (s : State) : (Nat → Word) × State :=
  (fun d => Config.freeWord (s.freeCtr + d), { s with freeCtr := s.freeCtr + 4 })

/-- Step 3 of R350 for a whole partition: everything of R349, the frames of its pool that hold page tables among it. -/
def State.zeroPartition (s : State) (part : Nat) : State :=
  let p := s.part part
  let s := (s.leaves part).foldl (fun s e => if leafOwner e.2.2 = part then s.zeroLeaf e.2.1 e.2.2 else s) s
  let s := p.pool.foldl (fun s e => s.zeroLeaf (2 ^ e.1) e.2) s
  let s := p.tables.foldl (fun s f => s.zeroRun f 4096) s
  let s := s.zeroRun p.savebase.toNat (p.savecap.toNat * slotSize)
  let s := p.clusters.foldl State.zeroCluster s
  let keep (l : CachedLeaf) : Bool := l.part != part
  let s := { s with
    dirs := s.dirs.map (fun (e : Nat × List DirEntry) => (e.1, e.2.filter (·.part != part)))
    l2 := (s.l2.map (fun (e : Nat × List L2Line) => (e.1, e.2.filter (fun (l : L2Line) => l.part != part)))).filter (fun e => !e.2.isEmpty)
    completions := s.completions.filter (fun (c : Completion) => c.part != part)
    attrCache := s.attrCache.map (fun (e : Nat × List CachedLeaf) => (e.1, e.2.filter keep))
    memXlat := s.memXlat.map (fun (e : Nat × List CachedLeaf) => (e.1, e.2.filter keep))
    hostXlat := s.hostXlat.map (fun (e : Nat × List HostTranslation) => (e.1, e.2.filter (·.pasid != p.hpasid)))
    packets := s.packets.filter (·.part != part)
    combiners := s.combiners.map (fun (e : Nat × List CombinePacket) => (e.1, e.2.filter (·.part != part)))
    declined := s.declined.filter (·.1 != part) }.closeRequests (·.part == part)
  s.modPart part (fun p =>
    { p with events := Vector.replicate 4 0, next := 1, lastFlip := 0, lastAbort := 0, cells := [], waves := []
             slots := [], stats := [], tables := [] })

/-- Notes the outgoing owner of a cluster, for the interval's energy (R383). -/
def State.noteOutgoing (s : State) (part c : Nat) : State :=
  { s with service := { s.service with outgoing := Table.set s.service.outgoing c (part, s.clk) } }

/-- Notes the OWNER before a change; the first of a clock stands (R388). -/
def State.noteOwner (s : State) (part : Nat) : State :=
  if (Table.find s.service.exOwners part).any (fun e => e.2 == s.clk) then s
  else { s with service := { s.service with exOwners := Table.set s.service.exOwners part ((s.part part).owner, s.clk) } }

/-- A write of OWNER that differs from the current one (R339, R350). -/
def State.changeOwner (s : State) (part : Nat) (owner : BitVec 32) : State :=
  let p := s.part part
  if part ≥ 16 || p.st = 2 || p.owner = owner then s
  else
    let s := s.dropEverywhere (fun _ l => l.part == part)
    let s := (s.gangs.filter (·.part == part)).foldl State.dropGang s
    let s := { s with queues := s.queues.map (fun (q : Queue) => if q.part.toNat == part then {} else q) }
    let s := (s.zeroPartition part).noteOwner part
    let (free, s) := s.freeFour
    s.modPart part (fun p =>
      { p with owner := owner, st := if owner = 0 then 0 else 1
               service := if owner = 0 then [] else serviceChoice p.clusters free })

/-- A write of CLU: one that names a dead site or a cluster of another partition is ignored; every cluster that it adds
or removes changes its owner (R339, R350). -/
def State.writeClusters (s : State) (part die : Nat) (mask : Word) : State :=
  let p := s.part part
  let foreign := (List.range 16).any (fun q => q != part && ((s.part q).clu.getD die 0 &&& mask) != 0)
  if part ≥ 16 || die ≥ 4 || p.st = 2 || (mask &&& ~~~(s.service.live.getD die 0)) != 0 || foreign then s
  else
    let old := p.clu.getD die 0
    let moved := ((List.range 64).filter (fun i => (old ^^^ mask).getLsbD i)).map (· + 64 * die)
    (moved.foldl (fun s c => (s.releaseCluster c).noteOutgoing (if old.getLsbD (c % 64) then part else 16) c) s).modPart part (fun p =>
      { p with clu := p.clu.setIfInBounds die mask, service := p.service.filter (fun c => !moved.contains c) })

/-- PARTITION_OWNER_WRITE (R350). -/
def execPartitionOwnerWrite (s : State) : Out :=
  .next (s.changeOwner s.cur.args.part (s.cur.args.word.extractLsb' 0 32))

/-- PARTITION_CLUSTER_WRITE (R339). -/
def execPartitionClusterWrite (s : State) : Out :=
  .next (s.writeClusters s.cur.args.part s.cur.args.die s.cur.args.word)

/-! Power states (R378, R381). -/

/-- Changes the service tile. -/
def State.modService (s : State) (f : Service → Service) : State := { s with service := f s.service }

/-- The sustained power of a grade in W (Table 0-1). -/
def Service.gradePower (v : Service) : Nat :=
  if v.grade = 0x2365 then 3100 else if v.grade = 0x2357 then 2600 else Config.gradePower

/-- A power cap in its range (Table 25-1). -/
def Service.capOk (v : Service) (cap : Nat) : Bool := 1000 ≤ cap && cap ≤ v.gradePower

/-- A change of the clock, which each gang takes under R240. -/
def State.setClock (s : State) (mhz : Nat) : State :=
  if s.service.mhz = mhz then s
  else
    { s.modService (fun v => { v with mhz := mhz }) with
      gangs := s.gangs.map (fun (g : Gang) => if g.state == .saved then g else { g with throttle := some (mhz, s.clk) }) }

/-- Wakes every array. -/
def State.wakeAll (s : State) : State := (s.asleep.map (·.1)).foldl State.wakeArray s

/-- The device enters a commanded power state (Table 25-3). -/
def State.enterPower (s : State) (pst : BitVec 3) (cap : BitVec 16) : State :=
  let was := s.service.pst
  let s := s.modService (fun v => { v with pst := pst, cap := cap })
  let s := if was = 2 && pst != 2 then s.wakeAll else s
  let s := if pst = 0 then s.setClock 1050 else s
  if pst = 2 then (s.gangs.foldl (fun s g => s.requestPreemption g.gid) s).sleepIdle else s

/-- The commanded state is reached: in STANDBY every gang is saved; else no change of clock is outstanding. -/
def State.powerReached (s : State) : Bool :=
  if s.service.pst = 2 then s.gangs.all (·.state == .saved) else s.gangs.all (·.throttle.isNone)

/-- The states and caps that a register write may name; for any other the spec states no value (log 9). -/
def State.powerValues (s : State) (v : Word) : BitVec 3 × BitVec 16 × State :=
  let pst : BitVec 3 := v.extractLsb' 0 3
  let cap : BitVec 16 := v.extractLsb' 12 16
  let (x, s) := s.free
  let (y, s) := s.free
  (if pst.toNat ≤ 2 then pst else BitVec.ofNat 3 (x.toNat % 3),
   if s.service.capOk cap.toNat then cap else BitVec.ofNat 16 (1000 + y.toNat % (s.service.gradePower - 999)), s)

/-- A write at offset 0x60 of the service block while the hottest sensor reads `tmax` (R378, R381): a write of PST is
ignored while TRIP is 1 or TMAX is above 95 °C; else it also restarts a clock that a trip has stopped. -/
def State.writePower (s : State) (v : Word) (tmax : Nat) : State :=
  let (pst, cap, s) := s.powerValues v
  let s := s.modService (fun k => { k with pwrq := v.extractLsb' 32 6, tmax := BitVec.ofNat 16 tmax })
  if s.service.trip || tmax > 760 then s.modService (fun k => { k with cap := cap })
  else (s.modService (fun k => { k with stopped := false })).enterPower pst cap

/-- POWER_STATE_WRITE (R378, R381). -/
def execPowerStateWrite (s : State) : Out := .next (s.writePower s.cur.args.word s.cur.args.count)

/-- A thermal trip that is due in this clock, after this turn (R388). -/
def tripDue : List Turn → Bool
  | [] => false
  | .clock :: _ => false
  | .event .thermalTrip a :: ts => decide (840 ≤ a.count) || tripDue ts
  | _ :: ts => tripDue ts

/-- POWER (R378): honoured only from the queue that PWRQ names; it holds its queue's head until the state is reached,
and for a trip of the same clock (R388). -/
def execPower (s : State) : Out :=
  packet [8] s (fun q _ x s =>
    let v := field64 x 8
    let pst : BitVec 3 := v.extractLsb' 0 3
    let cap : BitVec 16 := v.extractLsb' 12 16
    if q ≠ s.service.pwrq.toNat then .error s 7
    else if pst.toNat > 2 || !s.service.capOk cap.toNat then .error s 6
    else if tripDue s.agenda then .hold s
    else
      let s := if s.service.pst = pst && s.service.cap = cap then s else s.enterPower pst cap
      if s.powerReached then .done s else .hold s)

/-! Register writes (R6). -/

/-- A write into the block of a queue (Table 16-1). -/
def State.writeQueue (s : State) (q off : Nat) (v : Word) : Option State :=
  match off with
  | 0x00 => some (s.modQueue q (fun k => if k.en then k else { k with base := v &&& 0x00FFFFFFFFFFF000 }))
  | 0x08 => some (s.writeControl q v)
  | 0x10 => some (s.writeTail q v)
  | 0x20 => some (if v.getLsbD 63 then (s.modQueue q (fun k => { k with err := false })).checkTail q else s)
  | 0x18 | 0x28 => some s
  | _ => none

/-- A value of PINTO; outside 1 to 10^6 the spec states none (Table 20-2; log 9). -/
def State.pintoValue (s : State) (v : BitVec 32) : BitVec 32 × State :=
  let (x, s) := s.free
  (if 1 ≤ v.toNat && v.toNat ≤ 1000000 then v else BitVec.ofNat 32 (1 + x.toNat % 1000000), s)

/-- A write into the translation registers of a partition (Table 20-2). -/
def State.writeTranslation (s : State) (q off : Nat) (v : Word) : Option State :=
  match off with
  | 0x00 => some (s.modPart q (fun p => { p with ptbr := v &&& 0x0000FFFFFFFFF800 }))
  | 0x08 => some (s.modPart q (fun p => { p with dpasid := v.extractLsb' 0 20, hpasid := v.extractLsb' 32 20 }))
  | 0x10 => some (s.modPart q (fun p => { p with shbase := v &&& 0x00FFFFFFFFFFF000 }))
  | 0x18 => some (s.modPart q (fun p => { p with shlen := v &&& 0x000001FFFFFFF000 }))
  | 0x20 => some (s.modPart q (fun p =>
      if p.go then p
      else
        let kind : BitVec 2 := if v.extractLsb' 0 2 = 3 then 0 else v.extractLsb' 0 2
        if v.getLsbD 63 then { p with kind := kind, go := true, shSince := s.clk, revoked := 0 }
        else { p with kind := kind }))
  | 0x28 => some (s.modPart q (fun p => { p with dest := v &&& 0x0000FFFFFFFFF000 }))
  | 0x30 => some (s.modPart q (fun p => if v.getLsbD 63 then { p with shdone := false } else p))
  | 0x38 =>
    let (x, s) := s.pintoValue (v.extractLsb' 0 32)
    some (s.modPart q (fun p => { p with pinto := x }))
  | 0x40 => some (s.modPart q (fun p => { p with mth := v.extractLsb' 0 16 }))
  | 0x48 => some (s.modPart q (fun p => { p with statq := v &&& 0x00FFFFFFFFFFF000 }))
  | 0x50 => some s
  | _ => none

/-- A write into the registers of a partition (Table 21-1); while STATE is 2 only DRAIN takes one. -/
def State.writePartition (s : State) (q off : Nat) (v : Word) : Option State :=
  let open_ := (s.part q).st != 2
  match off with
  | 0x00 => some (s.writeClusters q 0 v)
  | 0x08 => some (s.writeClusters q 1 v)
  | 0x10 => some (s.writeClusters q 2 v)
  | 0x18 => some (s.writeClusters q 3 v)
  | 0x20 => some (s.changeOwner q (v.extractLsb' 0 32))
  | 0x28 => some (s.modPart q (fun p =>
      { p with drain := if (v.extractLsb' 0 32).toNat > 1000000 then 1000000 else v.extractLsb' 0 32 }))
  | 0x30 => some (if open_ then s.modPart q (fun p => { p with savebase := v &&& 0x0000FFFFFFFF0000 }) else s)
  | 0x38 => some (if open_ then s.modPart q (fun p =>
      { p with savecap := v.extractLsb' 0 24
               wtmax := if (v.extractLsb' 32 32).toNat < 1024 then 1024 else v.extractLsb' 32 32 }) else s)
  | _ => none

/-- A write into the dump registers (Table 24-9). -/
def State.writeDump (s : State) (off : Nat) (v : Word) : Option State :=
  match off with
  | 0x00 => some (s.modService (fun k => { k with dbase := v &&& 0xFFFFFFFFFFFFF000 }))
  | 0x08 => some (s.modService (fun k => { k with dlen := v.extractLsb' 0 16 }))
  | 0x10 => some (s.modService (fun k => if v.getLsbD 63 then { k with dumpDone := false } else k))
  | _ => none

/-- The read-only offsets of the service block (Table 25-1). -/
def readOnlyService (off : Nat) : Bool :=
  off % 8 == 0 && (off ≤ 0x48 || off == 0x90 || 0x100 ≤ off && off ≤ 0x180)

/-- A write into the service block (Table 25-1); `tmax` is what the hottest sensor reads. -/
def State.writeService (s : State) (off : Nat) (v : Word) (tmax : Nat) : Option State :=
  match off with
  | 0x50 => some (s.modService (fun k => { k with fwimg := v &&& 0xFFFFFFFFFFFFF000 }))
  | 0x58 => some (s.modService (fun k => { k with go := k.go || v.getLsbD 63 }))
  | 0x60 => some (s.writePower v tmax)
  | 0x68 => some (s.modService (fun k => if v.getLsbD 63 then { k with trip := false } else k))
  | 0x70 => some (s.modService (fun k =>
      { k with ereq := k.ereq || v.getLsbD 63, ekind := v.extractLsb' 8 1, epart := v.extractLsb' 0 5 }))
  | 0x78 => some (s.modService (fun k => { k with eaddr := v &&& 0xFFFFFFFFFFFFFF00 }))
  | 0x80 => some (s.modService (fun k => { k with nonce := k.nonce.extractLsb' 64 64 ++ v }))
  | 0x88 => some (s.modService (fun k => { k with nonce := v ++ k.nonce.extractLsb' 0 64 }))
  | _ => if readOnlyService off then some s else none

/-- A write at an offset of BAR 0; none where the spec names no register. The certificate chain is only read (R386). -/
def State.writeRegister (s : State) (off : Nat) (v : Word) (tmax : Nat) : Option State :=
  if inRun 0x100000 0x1000 off then s.writeQueue ((off - 0x100000) / 64) (off % 64) v
  else if inRun 0x200000 0x1000 off then s.writeTranslation ((off - 0x200000) / 256) (off % 256) v
  else if inRun 0x300000 0x400 off then s.writePartition ((off - 0x300000) / 64) (off % 64) v
  else if inRun 0x380000 0x18 off then s.writeDump (off - 0x380000) v
  else if inRun 0x3C0000 0x1000 off then s.writeService (off - 0x3C0000) v tmax
  else if inRun 0x3D0000 0x2000 off then some s
  else none

/-- REGISTER_WRITE (R6): each field takes what its access allows. -/
def execRegisterWrite (s : State) : Out :=
  match s.writeRegister s.cur.args.addr s.cur.args.word s.cur.args.count with
  | some s => .next s
  | none => .fault (.noSuchRegister s.cur.args.addr)

end Sys2Proof.Machine
end

