-- ==== Sys2Proof/Machine/Service.lean ====
section
/-! DEFINITION. The service tile: clock windows and trips, energy, reports, the firmware complexes, device reset, the
in-field test, fatal errors and their dump (R4, R280, R314, R370 to R373, R376 to R388). -/

namespace Sys2Proof.Machine

/-- Tells the host. -/
def State.tell (s : State) (n : HostNotice) : State := { s with notices := n :: s.notices }

/-! Power (R379, R380). -/

/-- A live update under way ends without effect, with a result (Table 25-2). -/
def Service.abandonUpdate (v : Service) : Service := if v.go then { v with go := false, fwst := 4 } else v

/-- CAP_WINDOW (R379): the clock of CAPPED is set anew in steps of 25 MHz between 500 MHz and nominal, down when the
metered power is not below CAP; which step is left open (log 9). -/
def execCapWindow (s : State) : Out :=
  if s.service.pst != 1 || !s.serving then .next s
  else
    let mhz := s.service.mhz
    let power := s.cur.args.count
    let (x, s) := s.free
    if power < s.service.cap.toNat then .next (s.setClock (mhz + 25 * (x.toNat % ((1050 - mhz) / 25 + 1))))
    else if mhz ≤ 500 then .next (s.tell (.capExcess power))
    else .next (s.setClock (mhz - 25 * (1 + x.toNat % ((mhz - 500) / 25))))

/-- THERMAL_TRIP (R380, R388): a sensor at 105 °C, 840 units, stops the clock; a live update is abandoned. -/
def execThermalTrip (s : State) : Out :=
  let t := s.cur.args.count
  if t < 840 then .next s
  else .next ((s.modService (fun v => { v.abandonUpdate with stopped := true, trip := true, tmax := BitVec.ofNat 16 t })).tell
    .thermalTrip)

/-! Energy (R382 to R384). -/

/-- The sum of the first entries of a list of weights. -/
def weightBelow (w : List Nat) (n : Nat) : Nat := (w.take n).foldl (· + ·) 0

/-- Splits an energy in µJ over 17 counters in proportion to weights, so that nothing is lost (R383); with no weight at
all the spec does not say which counter takes it, and the one of number `none_` does (log 9). -/
def shareOf (total : Nat) (w : List Nat) (none_ q : Nat) : Nat :=
  let all := weightBelow w 17
  if all = 0 then (if q = none_ then total else 0) else total * weightBelow w (q + 1) / all - total * weightBelow w q / all

/-- The number of ones of a word. -/
def onesOf (w : Word) : Nat := ((List.range 64).filter w.getLsbD).length

/-- Live clusters of each partition, and of none (Table 25-4). -/
def State.clusterShares (s : State) : List Nat :=
  let live := (s.service.live.toList.map onesOf).foldl (· + ·) 0
  let owned := s.parts.toList.map (fun p => (p.clu.toList.map onesOf).foldl (· + ·) 0)
  owned ++ [live - owned.foldl (· + ·) 0]

/-- The counter of a cluster as CLU stands: its partition, or 16. -/
def State.clusterCounter (s : State) (c : Nat) : Nat :=
  ((List.range 16).find? (fun q => ((s.part q).clu.getD (c / 64) 0).getLsbD (c % 64))).getD 16

/-- Each partition's weighted event count (R384, Table 25-5). -/
def Service.weighted (v : Service) (m : EnergyMeters) : List Nat :=
  (List.range 17).map (fun q => ((m.events.getD q []).zip v.weights.toList).foldl (fun a e => a + e.1 * e.2) 0)

/-- The counter that owns a cluster at a sample (Table 25-4): in the clock in which the cluster changes its owner, that of its
outgoing one (R388). -/
def State.counterOf (s : State) (c : Nat) : Nat :=
  match Table.find s.service.outgoing c with
  | some (q, at_) => if at_ = s.clk then q else s.clusterCounter c
  | none => s.clusterCounter c

/-- The counter of the outgoing owner of a cluster that is being zeroed (R383). -/
def State.outgoingCounter (s : State) (c : Nat) : Nat := ((Table.find s.service.outgoing c).map (·.1)).getD (s.clusterCounter c)

/-- The sum of the entries of a table of energies whose key goes to a counter; what goes to no partition goes to 16 (R382). -/
def energyOf (l : List (Nat × Nat)) (counter : Nat → Nat) (q : Nat) : Nat :=
  l.foldl (fun a e => if min 16 (counter e.1) = q then a + e.2 else a) 0

/-- The core energy of a counter in µJ: of its clusters, of those zeroed for another owner, and of the work that firmware, the
in-field test and the save did for it (R383). -/
def State.coreEnergy (s : State) (m : EnergyMeters) (q : Nat) : Nat :=
  energyOf m.core s.counterOf q + energyOf m.zeroing s.outgoingCounter q + energyOf m.work id q

/-- The OWNER of a partition at a sample: in the clock of a change, the outgoing one (R388). -/
def State.ownerSampled (s : State) (q : Nat) : BitVec 32 :=
  match Table.find s.service.exOwners q with
  | some (o, at_) => if at_ = s.clk then o else (s.part q).owner
  | none => (s.part q).owner

/-- ENERGY_SAMPLE (R383 to R385): each part of the interval's energy is attributed as Table 25-4 states; a table of weights
that firmware sets applies from the next interval. -/
def execEnergySample (s : State) : Out :=
  let m := s.cur.args.meters
  let (x, s) := s.free
  let (y, s) := s.free
  let add (q : Nat) : Nat :=
    shareOf m.shared (s.service.weighted m) (x.toNat % 17) q + shareOf m.static s.clusterShares 16 q +
    shareOf m.host m.bytes (y.toNat % 17) q
  .next (s.modService (fun v =>
    { v with
      energy := Vector.ofFn (fun q => v.energy.getD q.val 0 + s.coreEnergy m q.val + add q.val)
      energyCore := Vector.ofFn (fun q => v.energyCore.getD q.val 0 + s.coreEnergy m q.val)
      seq := v.seq + 1, sampleAt := s.tbase, sampleOwners := Vector.ofFn (fun q => s.ownerSampled q.val)
      weights := m.weights.getD v.weights, outgoing := [], exOwners := [] }))

/-- ENERGY_CHECKPOINT (R382). -/
def execEnergyCheckpoint (s : State) : Out :=
  .next (s.modService (fun v => { v with checkpoint := v.energy, checkpointCore := v.energyCore }))

/-! Reports (R385, R386). -/

/-- Bytes 0x00 to 0x3F of a signed reading of counter `q` (Table 25-7); of a counter that does not exist the spec states
no values (log 9). -/
def State.energyItem (s : State) (q : Nat) : List Byte :=
  let v := s.service
  let open_ (known : Nat) (k : Nat) : Nat := if q ≤ 16 then known else (Config.freeWord (s.freeCtr + k)).toNat
  bytesOfNat 8 (1 + q * 65536 + (if v.unclean then 2 ^ 24 else 0)) ++ bytesOfNat 8 (open_ (v.energy.getD q 0 / 1000) 0) ++
  bytesOfNat 8 v.seq ++ bytesOfNat 8 v.sampleAt.toNat ++ bytesOfNat 8 v.epoch.toNat ++
  bytesOfNat 8 (open_ (if q < 16 then (v.sampleOwners.getD q 0).toNat else 0) 1) ++
  bytesOfNat 8 (open_ (v.energyCore.getD q 0 / 1000) 2) ++ zeroBytes 8

/-- A report is written to host memory, and EREQ is cleared. -/
def State.report (s : State) (bytes : List Byte) : State :=
  (s.pokes (Config.hostBase + s.service.eaddr.toNat) bytes).modService (fun v => { v with ereq := false })

/-- SIGNED_READING (R385). -/
def execSignedReading (s : State) : Out :=
  if !s.service.ereq || s.service.ekind != 0 then .next s
  else
    let item := s.energyItem s.service.epart.toNat ++ bytesOfNat 16 s.service.nonce.toNat ++ zeroBytes 48
    let s := { s with freeCtr := s.freeCtr + 3 }
    .next (s.report (item ++ bytesOfNat 114 (Config.ed448 item).toNat ++ zeroBytes 14))

/-- What the host reads in BAR 0 from offset 0x3D_0000 on: the certificate chain for the identity key (R386). -/
def certificateBytes (off n : Nat) : List Byte := (List.range n).map (fun i => Config.certificate (off - 0x3D0000 + i))

/-- ATTESTATION_REPORT (R386, Table 25-8). -/
def execAttestationReport (s : State) : Out :=
  let v := s.service
  if !v.ereq || v.ekind != 1 then .next s
  else
    let signed := bytesOfNat 8 (1 + v.grade.toNat * 65536 + (if v.mod then 2 ^ 32 else 0)) ++ bytesOfNat 8 v.epoch.toNat ++
      bytesOfNat 64 (Config.imageDigest v.activeImage).toNat ++
      (if v.sbok then bytesOfNat 64 (Config.imageDigest v.standbyImage).toNat else zeroBytes 64)
    .next (s.report (signed ++ bytesOfNat 16 v.nonce.toNat ++ bytesOfNat 114 (Config.ed448 signed).toNat ++ zeroBytes 238))

/-! The complexes (R376, R377). -/

/-- The standby takes over with the image that it runs, which is the active one now, and the host is told (R376); `f` is what
becomes of the other complex. -/
def State.takeOver (s : State) (f : Service → Service) : State :=
  (s.modService (fun v => f { v with act := ~~~v.act, activeImage := v.standbyImage })).tell .takeover

/-- WATCHDOG_TAKEOVER (R376): a running standby takes over; the complex that failed is no standby. -/
def execWatchdogTakeover (s : State) : Out :=
  .next (if !s.service.sbok then s else s.takeOver (fun v => { v with sbok := false }))

/-- No packet is partly executed: no queue that is being read stands inside an indirect buffer (R377). -/
def State.betweenPackets (s : State) : Bool :=
  s.placement.isNone && s.queues.toList.all (fun q => !q.active || q.indirect.all (fun b => b.2.2 == 0))

/-- A packet that holds its head is abandoned, to be evaluated whole again (R377). -/
def Queue.reevaluate (q : Queue) : Queue := { q with indirect := q.indirect.filter (fun b => b.2.2 != 0) }

/-- The image that a live update reads at FWIMG (R377). -/
def State.newImage (s : State) : List Byte :=
  s.mem.readBytes (Config.hostBase + s.service.fwimg.toNat) Config.imageBytes

/-- LIVE_UPDATE (R377, Table 25-2): the image's signature and its state table are checked (log 9), the standby takes over
with the new image at a boundary at which no packet is partly executed and no placement is in progress, and the old active complex
reboots with it. After a refused state table, whether the standby that has rebooted is current is left open. A trip of the same
clock abandons the update (R388). -/
def execLiveUpdate (s : State) : Out :=
  if !s.service.go then .next s
  else if tripDue s.agenda then .next (s.modService Service.abandonUpdate)
  else if !s.service.sbok then .next (s.modService (fun v => { v with go := false, fwst := 3 }))
  else
    let image := s.newImage
    let (signed, accepted) := Config.imageVerdict image
    if !signed then .next (s.modService (fun v => { v with go := false, fwst := 1 }))
    else if !accepted then
      let (x, s) := s.free
      .next (s.modService (fun v => { v with go := false, fwst := 2, sbok := x.getLsbD 0 }))
    else if !s.betweenPackets then .next s
    else
      let s := { s with queues := s.queues.map Queue.reevaluate }
      .next ((s.modService (fun v => { v with standbyImage := image })).takeOver (fun v =>
        { v with go := false, fwst := 0, sbok := true, fwver := Config.imageVersion image }))

/-! Device reset (R4, R372, R382). -/

/-- The service tile after a reset: fuses stay, the counters go on from themselves or, after a reset that is not orderly,
from their checkpoints; the dump registers are kept across the one reset that follows a dump (R372). -/
def Service.afterReset (v : Service) (orderly : Bool) : Service :=
  let energy := if orderly then v.energy else v.checkpoint
  let core := if orderly then v.energyCore else v.checkpointCore
  let r : Service :=
    { Service.reset with
      mod := v.mod, grade := v.grade, live := v.live, epoch := v.epoch + 1, energy := energy, energyCore := core
      checkpoint := energy, checkpointCore := core, unclean := !orderly, cap := BitVec.ofNat 16 v.gradePower
      activeImage := v.activeImage, standbyImage := v.standbyImage, pkg := v.pkg }
  if v.dumped then
    { r with dbase := v.dbase, dlen := v.dlen, dumpDone := true, dumpTrunc := v.dumpTrunc, dumpVer := v.dumpVer }
  else r

/-- DEVICE_RESET (R4): a new reset epoch; host memory and what the host has been told are not the device's, and TBASE is
disciplined time. -/
def execDeviceReset (s : State) : Out :=
  .next { State.reset with
    tbase := s.tbase
    agenda := s.agenda
    freeCtr := s.freeCtr
    mem := s.mem.filter (fun e => decide (2 ^ 64 ≤ e.1) && decide (e.1 < 2 ^ 70))
    notices := s.notices
    service := s.service.afterReset s.cur.args.yes }

/-! The in-field test (R370). -/

/-- A live cluster that has not been retired. -/
def State.testable (s : State) (c : Nat) : Bool :=
  (s.service.live.getD (c / 64) 0).getLsbD (c % 64) && !(s.service.ret.getD (c / 64) 0).getLsbD (c % 64)

/-- The next cluster in ascending number, from the lowest again after the last. -/
def State.nextCluster (s : State) : Option Nat :=
  ((List.range 256).map (fun i => (s.service.nextTest + i) % 256)).find? s.testable

/-- A gang holds a cluster. -/
def Gang.sitsOn (c : Nat) (g : Gang) : Bool := g.state != .saved && g.clusters.contains c

/-- Pre-empts the gangs that hold a cluster. -/
def State.clearCluster (s : State) (c : Nat) : State :=
  (s.gangs.filter (Gang.sitsOn c)).foldl (fun s g => s.requestPreemption g.gid) s

/-- A cluster that fails its test is retired: it leaves its partition as a change of owner of that cluster alone. -/
def State.retireCluster (s : State) (c : Nat) : State :=
  let bit : Word := 1#64 <<< (c % 64)
  let s := (s.releaseCluster c).noteOutgoing (s.clusterCounter c) c
  let s := { s with parts := s.parts.map (fun (p : Partition) =>
    if p.clusters.contains c then
      { p with clu := p.clu.setIfInBounds (c / 64) (p.clu.getD (c / 64) 0 &&& ~~~bit), service := p.service.filter (· != c) }
    else p) }
  (s.modService (fun v => { v with ret := v.ret.setIfInBounds (c / 64) (v.ret.getD (c / 64) 0 ||| bit) })).tell
    (.clusterRetired c)

/-- IN_FIELD_TEST (R370): the next cluster is taken out of placement and its gangs are pre-empted; once none holds it the
self-test has its result. One that falls due during a placement waits for its end (R374). -/
def execInFieldTest (s : State) : Out :=
  if !s.serving || s.placement.isSome && s.service.testing.isNone then .next s
  else match s.service.testing.or s.nextCluster with
    | none => .next s
    | some c =>
      let s := s.modService (fun v => { v with testing := some c })
      if s.gangs.any (Gang.sitsOn c) then .next (s.clearCluster c)
      else
        let pass := s.cur.args.yes
        let s := s.modService (fun v => { v with testing := none, nextTest := (c + 1) % 256 })
        .next (if pass then s else s.retireCluster c)

/-! Fatal errors and the dump (R371 to R373). -/

/-- The block of a queue (Table 16-1). -/
def Queue.block (q : Queue) : List Byte :=
  [q.base, BitVec.ofBool q.en ++ 0#19 ++ q.tkt ++ 0#12 ++ q.part ++ 0#2 ++ q.cls ++ 0#7 ++ q.log2n, q.tail, q.head,
   BitVec.ofBool q.err ++ 0#55 ++ q.ecode, q.pass].flatMap wordBytes

/-- The block of a partition (Table 21-1). -/
def Partition.block (p : Partition) : List Byte :=
  (p.clu.toList ++ [0#14 ++ p.st ++ 0#16 ++ p.owner, p.drain.zeroExtend 64, p.savebase,
    p.wtmax ++ 0#8 ++ p.savecap]).flatMap wordBytes

/-- STATR (Table 20-4). -/
def State.statr (s : State) (q : Nat) : Word :=
  let p := s.part q
  match s.walk q p.statq.toNat with
  | .leaf base _ e =>
    if leafHost e then 2#2 ++ 0#62
    else
      let k := p.stat base
      let moves := (k.moves.filter (fun t => decide (s.clk < t + 2 ^ 24))).length
      (if k.settledUntil.isSome then 1#2 else 0#2) ++ 0#1 ++ BitVec.ofNat 3 moves ++ BitVec.ofNat 2 (leafFrame e / 2 ^ 46)
        ++ 0#8 ++ BitVec.ofNat 48 ((k.settledUntil.getD 0) / 1024)
  | _ => 2#2 ++ 0#62

/-- The translation registers of a partition (Table 20-2). -/
def State.translationBlock (s : State) (q : Nat) : List Byte :=
  let p := s.part q
  [p.ptbr, 0#12 ++ p.hpasid ++ 0#12 ++ p.dpasid, p.shbase, p.shlen, BitVec.ofBool p.go ++ 0#61 ++ p.kind, p.dest,
   BitVec.ofBool p.shdone ++ 0#31 ++ p.revoked, p.pinto.zeroExtend 64, p.mth.zeroExtend 64, p.statq,
   s.statr q].flatMap wordBytes ++ zeroBytes 168

/-- A directory entry (Table 19-5). The table gives bits [1:0] of word 1 both to STATE and to the first holder slot; where
the two differ, the bits are open (log 9). -/
def DirEntry.block (e : DirEntry) (open_ : Word) : List Byte :=
  let slots := if e.ovf then [] else e.holders.take 4
  let hs := slots.zipIdx.foldl (fun x h => x + h.1 % 64 * 2 ^ (6 * h.2)) 0
  let hv := if e.ovf then 15 else 2 ^ slots.length - 1
  let low := if slots.isEmpty || hs % 4 = e.st.toNat then e.st.toNat else open_.toNat % 4
  bytesOfNat 8 (2 ^ 63 + e.span * 2 ^ 56 + e.base) ++
  bytesOfNat 8 (low + hs / 4 * 4 + hv * 2 ^ 32 + (if e.ovf then 2 ^ 36 else 0) + e.rdie.toNat * 2 ^ 40 +
    e.qt / 1024 % 2 ^ 20 * 2 ^ 44)

/-- Cores of live clusters, in ascending number. -/
def State.liveCores (s : State) : List Nat :=
  (List.range 8192).filter (fun n => (s.service.live.getD (n / 2048) 0).getLsbD (n / 32 % 64))

/-- The sections of a dump: kind, items and bytes (Table 24-11). -/
def State.dumpSections (s : State) : List (Nat × Nat × List Byte) :=
  let cores := s.liveCores
  let one (n i : Nat) : List Byte :=
    let b := (s.core n).record (s.localBytes n) s.clk ++ annexBytes (s.freeCtr + i)
    b ++ bytesOfNat 64 (Config.checkValue b).toNat
  let entries := s.dirs.flatMap (·.2)
  [(1, cores.length, cores.zipIdx.flatMap (fun e => one e.1 e.2)),
   (2, s.records.length, s.records.reverse.flatMap (fun r => bytesOfNat 32 r.bytes.toNat)),
   (3, 96, s.queues.toList.flatMap Queue.block ++ s.parts.toList.flatMap Partition.block ++
      (List.range 16).flatMap s.translationBlock),
   (4, entries.length, entries.zipIdx.flatMap (fun e => e.1.block (Config.freeWord (s.freeCtr + e.2)))),
   (5, 17, (List.range 17).flatMap s.energyItem)]

/-- Lays whole sections out, each 4 KiB aligned, until one does not fit: offset, kind, items, bytes. -/
def laySections (size : Nat) : Nat → List (Nat × Nat × List Byte) → List (Nat × Nat × Nat × List Byte)
  | _, [] => []
  | at_, (kind, n, b) :: ss =>
    if at_ + b.length > size then []
    else (at_, kind, n, b) :: laySections size ((at_ + b.length + 4095) / 4096 * 4096) ss

/-- The header and the directory of a dump (Table 24-10). -/
def dumpHeader (reason unit : Nat) (tbase : Word) (secs : List (Nat × Nat × Nat × List Byte)) : List Byte :=
  bytesOfNat 8 (0x0100 + secs.length * 65536) ++ bytesOfNat 8 reason ++ wordBytes tbase ++ bytesOfNat 8 unit ++
  zeroBytes 4064 ++
  (secs.flatMap (fun e => bytesOfNat 8 e.2.1 ++ bytesOfNat 8 e.1 ++ bytesOfNat 8 e.2.2.2.length ++ bytesOfNat 8 e.2.2.1)) ++
  zeroBytes (2048 - 32 * secs.length)

/-- Firmware writes the dump into the region that the host has reserved (R371, R372). -/
def State.writeDumpRegion (s : State) (reason unit : Nat) : State :=
  let v := s.service
  if v.dlen = 0 then s
  else
    let all := s.dumpSections
    let secs := laySections (v.dlen.toNat * 1048576) 0x2000 all
    let base := Config.hostBase + v.dbase.toNat
    let s := s.pokes base (dumpHeader reason unit s.tbase secs)
    let s := secs.foldl (fun s e => s.pokes (base + e.1) e.2.2.2) s
    s.modService (fun v => { v with dumpDone := true, dumpTrunc := decide (secs.length < all.length), dumpVer := 0x0100, dumped := true })

/-- FATAL_ERROR (R371): the package stops where it stands, firmware writes the dump and signals the host. Its reason is the
CLASS and CODE of an error within one unit, which come with the event, or else its cause (Table 24-10). -/
def execFatalError (s : State) : Out :=
  let s := s.modService (fun v => { v.abandonUpdate with fatal := true })
  let unit := if s.cur.args.count < 256 then s.cur.args.count else 0xFFFF
  let reason := if unit < 256 then (s.cur.args.word.extractLsb' 0 32).toNat else 0x100 + s.cur.args.index
  .next ((s.writeDumpRegion reason unit).tell .dump)

/-! Marks and time. -/

/-- FAILED_SUB_CHANNEL_MARK (R314): one sub-channel of a gang group; its pages migrate by moves of their own. -/
def execFailedSubChannelMark (s : State) : Out :=
  let m := (s.cur.args.die, s.cur.args.index, s.cur.args.count)
  if s.failed.any (fun f => f.1 == m.1 && f.2.1 == m.2.1) then .next s else .next { s with failed := s.failed ++ [m] }

/-- TBASE_DISCIPLINE (R280). -/
def execTbaseDiscipline (s : State) : Out := .next { s with tbase := s.cur.args.word }

end Sys2Proof.Machine
end

