-- ==== Sys2Proof/Machine/Translation.lean ====
section
/-! DEFINITION. Translation, invalidation and migration (R328 to R332, R335 to R338): shootdowns, pins and their
time-out, the host link's completions and invalidations, and the moves of pages. -/

namespace Sys2Proof.Machine

/-! Shootdowns (R329). -/

/-- The range of a shootdown: its first address and the one after its last (Table 20-2). -/
def Partition.shRange (p : Partition) : Nat × Nat := (p.shbase.toNat, p.shbase.toNat + p.shlen.toNat)

/-- A pin holds a page that meets a range of a partition (R332). -/
def State.pinnedIn (s : State) (part lo hi : Nat) : Bool :=
  s.tasks.any (fun t => t.pins.any (fun k => k.1 == part && decide (k.2 < hi) && decide (lo < k.2 + 4096)))

/-- Accesses to a range that its cached leaves have checked are performed at .sys (R329 step 3): every line of it leaves
the core data caches, the directory and the L2 for the frame that it was filled from, where a later access may not go
(R318, R320; log 16). -/
def State.performRange (s : State) (part lo hi : Nat) : State :=
  ((s.freeEntries part lo hi).everyCore (fun s n => s.flushLines n (lineIn part lo hi))).flushL2Lines (l2In part lo hi)

/-- A shootdown of a kind in a partition: nothing unless it has been started. -/
def shootdown (kind : BitVec 2) (s : State) (k : Nat → Nat → Nat → Out) : Out :=
  let part := s.cur.args.part
  let p := s.part part
  if part < 16 && p.go && p.kind == kind then k part p.shRange.1 p.shRange.2 else .next s

/-- The end of a shootdown: the cached leaves of its range are gone, DONE becomes 1 and GO 0. -/
def State.endShootdown (s : State) (part lo hi : Nat) : State :=
  ((s.dropLeaves part lo hi).performRange part lo hi).modPart part (fun p => { p with go := false, shdone := true })

/-- SHOOTDOWN_DROP (R329). -/
def execShootdownDrop (s : State) : Out :=
  shootdown 0 s (fun part lo hi => .next (s.endShootdown part lo hi))

/-- SHOOTDOWN_UNMAP (R329, R332): it waits for the pins of its range. -/
def execShootdownUnmap (s : State) : Out :=
  shootdown 1 s (fun part lo hi => if s.pinnedIn part lo hi then .next s else .next (s.endShootdown part lo hi))

/-! Moving a page (R335). -/

/-- A copy engine, of a combining copy too, still has to land a byte in a range of its partition (R259). -/
def State.engineOwns (s : State) (part lo hi : Nat) : Bool :=
  s.cores.any (fun e => e.2.part.toNat == part && e.2.copies.any (fun k =>
    k.state == .running && k.dam == 0 &&
    (List.range (k.total - k.count)).any (fun n => (run (k.dstOf (k.count + n)) k.esz).any (fun o =>
      match windowHit o k.windows with
      | some (_, ia) => lo ≤ ia && ia < hi
      | none => false))))

/-- Copies a run of locations to another. -/
def Memory.copyRun (m : Memory) (src dst n : Nat) : Memory :=
  (m.filter (fun e => inRun src n e.1)).foldl (fun t e => t.write (e.1 - src + dst) e.2) (m.clear dst n)

/-- A leaf with another frame. -/
def withFrame (e : Word) (frame : Nat) : Word :=
  (e &&& ~~~0x00FFFFFFFFFFF000#64) ||| (BitVec.ofNat 64 frame &&& 0x00FFFFFFFFFFF000#64)

/-- The granules of a frame that DRAM holds differently from what was written. -/
def State.erredGranules (s : State) (gran : BitVec 2) (src n : Nat) : List Nat :=
  s.errs.foldl (fun l e =>
    let b := granBase gran (burstOf e.1)
    if inRun src n b && !l.contains b then b :: l else l) []

/-- A granule can be read from DRAM. -/
def State.readable (s : State) (gran : BitVec 2) (base : Nat) : Bool :=
  match s.readGranule gran base with
  | .corrected _ => true
  | _ => false

/-- Corrects the granules of a frame that can be, so that they are copied as they are read; answers those that are copied
poisoned (R314, R335 step 3). -/
def State.readFrame (s : State) (gran : BitVec 2) (src n : Nat) : State × List Nat :=
  let bases := s.erredGranules gran src n
  ((bases.filter (s.readable gran)).foldl (fun s b => s.takeGranule gran b (fun _ => true)) s,
   bases.filter (fun b => !s.readable gran b))

/-- Moves the bytes of a page: with them go the error marks, and the monitors that watch them; the fetch units give up
what they hold of it. -/
def State.moveBytes (s : State) (src dst n : Nat) : State :=
  let s := { s with
    mem := s.mem.copyRun src dst n
    rd := s.rd.filter (fun e => !inRun src n e.1 && !inRun dst n e.1)
    errs := s.errs.filter (fun e => !inRun src n (burstOf e.1) && !inRun dst n (burstOf e.1))
    cores := s.cores.map (fun (e : Nat × Core) =>
      (e.1, { e.2 with lines := e.2.lines.filter (fun l => !inRun src n l.1.toNat && !inRun dst n l.1.toNat) }))
    monitors := s.monitors.map (fun (m : Monitor) =>
      if inRun src n (m.sector * 32) then { m with sector := m.sector - src / 32 + dst / 32 }
      else if inRun dst n (m.sector * 32) then { m with hit := true } else m) }
  s.moveMarks src dst n

/-- Moves the page of a leaf to a new frame: its lines are recalled, whole spans with them, and written to DRAM; its
granules are copied, its leaf rewritten, and the cached leaves dropped; its counts begin anew (R337). -/
def State.movePage (s : State) (part base size : Nat) (e : Word) (frame : Nat) : State :=
  let hi := base + size
  let src := leafFrame e
  let (s, lost) := (s.performRange part base hi).readFrame (leafGran e) src size
  let s := s.moveBytes src frame size
  let s := lost.foldl (fun s b => s.poisonGranule (leafGran e) (b - src + frame)) s
  let s := (s.rewriteLeaf part base (fun e => withFrame e frame)).dropLeaves part base hi
  s.modPart part (fun p =>
    if (Table.find p.stats base).isSome then p.setStat base { p.stat base with counts := [0, 0, 0, 0] } else p)

/-- Moves the pages of a list to their new frames, by an offset. -/
def movePages (part lo : Nat) (dest : Nat) : List (Nat × Nat × Word) → State → Except Fault State
  | [], s => .ok s
  | (base, size, e) :: ls, s =>
    let frame := dest + base - lo
    if !movable part e then movePages part lo dest ls s
    else if !s.okPa frame then .error (.noSuchPhysicalAddress frame)
    else movePages part lo dest ls (s.movePage part base size e frame)

/-- SHOOTDOWN_MOVE (R329, R335): it waits for pins and for engines that own lines of its range. -/
def execShootdownMove (s : State) : Out :=
  shootdown 2 s (fun part lo hi =>
    if s.pinnedIn part lo hi || s.engineOwns part lo hi then .next s
    else
      let pages := (s.leaves part).filter (fun e => decide (e.1 < hi) && decide (lo < e.1 + e.2.1))
      match movePages part lo (s.part part).dest.toNat pages s with
      | .error f => .fault f
      | .ok s => .next (s.endShootdown part lo hi))

/-! Pins (R332). -/

/-- The clock since which a shootdown of KIND 1 or 2, or a PAGE.PUT, waits for the pins of a page. -/
def State.pinSince (s : State) (part page : Nat) : Option Nat :=
  let p := s.part part
  if p.go && p.kind != 0 && p.shRange.1 < page + 4096 && page < p.shRange.2 then some p.shSince
  else (s.sysc.find? (fun r => r.begun && r.service == 2 && r.answer.isNone && (s.gang? r.gid).any (·.part == part) &&
    inRun r.s2.toNat (2 ^ (r.s3.toNat % 64)) page)).map (·.since)

/-- A context of a core of a saved gang takes a fault in the state that the device keeps of the core; the record goes to the
supervisor mailbox when the gang is restored (R332, R345). The bytes of its save slot stay as the save wrote them (log 44). -/
def State.takeSavedFault (s : State) (g : Gang) (core ctx : Nat) (i : FaultInfo) : State :=
  match g.cores.idxOf? core with
  | none => s
  | some n =>
    let c := g.saves.getD n Core.reset
    let r := faultRecord g.endsOnFault c.part ctx c.vy c.vx i
    let clk := s.clk
    (s.modGang g.gid (fun g => { g with saves := g.saves.modify n (fun c => c.takeFault clk ctx i true r) })).deliver
      g.gid ctx c.vx c.vy g.endsOnFault r

/-- The pin of a page is revoked: the page's lines in the L2 and the data caches are written back and dropped, REVOKED counts the pin, and the helper
of the task takes PINREVOKED against its TQPUT. -/
def State.revokePin (s : State) (part page : Nat) (t : Task) : State :=
  let s := s.performRange part page (page + 4096)
  let s := s.modTask t.number (fun u => { u with pins := u.pins.filter (· != (part, page)) })
  let s := s.modPart part (fun p => { p with revoked := p.revoked + 1 })
  match t.at_ with
  | none => s
  | some (core, h) =>
    let i (pc : Word) : FaultInfo :=
      { cls := .pinRevoked, code := 0, operand := BitVec.ofNat 64 page, pc := t.issuePc, async := true, dpc := pc }
    match s.gang? t.gid with
    | some g => if g.saveDone then s.takeSavedFault g core h (i (g.savedCtx core h).pc)
                else s.takeFault core h (i ((s.core core).ctx h).pc)
    | none => s

/-- PINTO_EXPIRY (R332). -/
def execPintoExpiry (s : State) : Out :=
  let part := s.cur.args.part
  let page := s.cur.args.addr - s.cur.args.addr % 4096
  match s.tasks.find? (fun t => t.pins.contains (part, page)), s.pinSince part page with
  | some t, some since =>
    .next (if s.clk ≥ since + (s.part part).pinto.toNat * Config.clkPerUs then s.revokePin part page t else s)
  | _, _ => .next s

/-! The host link (R330, R331). -/

/-- A wait is for a page that the host has been asked for: the address that its fault would report. -/
def WaitKind.waitsFor (s : State) (part page : Nat) (host : Bool) : WaitKind → Option Nat
  | WaitKind.page q ia => if !host && q == part && ia - ia % 4096 == page then some ia else none
  | WaitKind.hostPage q ia h =>
    if host && h == page && (s.part q).hpasid == (s.part part).hpasid then some ia else none
  | _ => none

/-- A trap asks for such a page. -/
def Trap.asksFor (s : State) (part page : Nat) (host : Bool) : Trap → Bool
  | Trap.page q ia => !host && q == part && ia - ia % 4096 == page
  | .host _ pasid h _ _ => host && h == page && pasid == (s.part part).hpasid
  | _ => false

/-- Contexts that wait for a page: core, context, and the address. -/
def State.pageWaiters (s : State) (part page : Nat) (host : Bool) : List (Nat × Nat × Nat) :=
  s.cores.flatMap (fun e => e.2.ctxs.toList.zipIdx.filterMap (fun x =>
    match x.1.wait with
    | some w => (w.kind.waitsFor s part page host).map (fun ia => (e.1, x.2, ia))
    | none => none))

/-- A step of an engine, a queue or the distributor for a partition meets a page that is not there: it asks for it. -/
def State.meets (s : State) (part page : Nat) (host : Bool) (r : Nat × Out) : Bool :=
  r.1 == part && match r.2 with
  | .next t =>
    if host then t.hostAsked.any (fun k => k.2.1 == (s.part part).hpasid && k.2.2 == page && !s.hostAsked.contains k)
    else t.pageRequests.any (fun r => r.part == part && r.page == page && r.host.isNone)
  | _ => false

/-- The partition of the launch that the distributor places or would take next. -/
def State.placedPart (s : State) : Nat :=
  match s.placement, s.refreshQueues.choice with
  | some (.launch l, _), _ => l.part
  | none, some (_, .launch l) => l.part
  | _, _ => 16

/-- The partition of a gang. -/
def State.partOf (s : State) (gid : BitVec 16) : Nat := ((s.gang? gid).map (·.part)).getD 16

/-- The steps of the command processor, the distributor and the task queue that reach memory, with their partitions. -/
def State.engineSteps (s : State) : List (Nat × Out) :=
  let on (a : EventArgs) : State := { s with cur := { s.cur with args := a } }
  s.queues.toList.zipIdx.flatMap (fun q => if !q.1.active then [] else
    let t := on { index := q.2 }
    [execDispatch t, execCmoRangeClean t, execCmoRangeInval t, execCmoRangeFlush t, execCmoRangeAttr t, execEventSet t,
     execTimestamp t, execCellWave t].map (fun r => (q.1.part.toNat, r))) ++
  s.tasks.map (fun t => (s.partOf t.gid, execFootprintComplete (on { index := t.number }))) ++
  (List.range 16).map (fun q => (q, execFormulaTaskPlacement (on { part := q }))) ++
  (s.gangs.filter (·.state == .saved)).map (fun g => (g.part, execGangRestore (on { gid := g.gid }))) ++
  s.completions.map (fun c => (c.part, .next ({ s with completions := [] }.writeCompletion c))) ++
  [(s.placedPart, execLaunchPlacement s)]

/-- The engines, heads of queues, distributor steps and records of ended launches of a partition that wait for a page: each
would ask again. -/
def State.engineAsks (s : State) (part page : Nat) (host : Bool) : Nat :=
  (s.cores.map (fun e => if e.2.part.toNat = part then
    (e.2.copies.filter (fun k => k.state == .running && (s.copyTrap e.1 k).any (Trap.asksFor s part page host))).length else 0)).sum +
  (s.engineSteps.filter (s.meets part page host)).length

/-- The partitions that a request for a page concerns: of a host page every one with its PASID. -/
def State.asking (s : State) (part : Nat) (host : Bool) : List Nat :=
  if host then (List.range 16).filter (fun q => (s.part q).hpasid == (s.part part).hpasid) else [part]

/-- The marks with which the engine work that waits for a declined page finds it so, one for each. -/
def State.declineMarks (s : State) (part page : Nat) (host : Bool) : List (Nat × Nat) :=
  (s.asking part host).flatMap (fun q =>
    List.replicate (s.engineAsks q page host) (q, if host then 2 ^ 64 + page else page))

/-- The host declines a page (R331): every context that waits for it takes PAGE, once what it has issued before has completed
(R71, R146); an engine or a packet that waits for it finds a mark at its next attempt. -/
def State.declinePage (s : State) (part page : Nat) (host : Bool) : State :=
  let ws := s.pageWaiters part page host
  let marks := s.declineMarks part page host
  let s := ws.foldl (fun s w =>
    if s.unfinished w.1 w.2.1 then s.modCtx w.1 w.2.1 (fun x => { x with wait := x.wait.map (fun k => { k with kind := .declined w.2.2 }) })
    else s.declinedFault w.1 w.2.1 w.2.2) s
  { s with declined := s.declined ++ marks }

/-- PAGE_GROUP_RESPONSE (R331): after a success the accesses walk again on their turns. -/
def execPageGroupResponse (s : State) : Out :=
  let a := s.cur.args
  let page := if a.also then a.addr else a.addr - a.addr % 4096
  let asked (r : PageRequest) : Bool :=
    r.part == a.part && (if a.also then r.host == some page else r.page == page && r.host.isNone)
  if !s.outstanding.any asked then .next s
  else
    let s := s.closeRequests asked
    .next (if a.yes then s else s.declinePage a.part page a.also)

/-- ATS_INVALIDATION_REQUEST (R330): the covered translations and the leaves filled through them are dropped; accesses
have completed, since each is performed in its own step. -/
def execAtsInvalidationRequest (s : State) : Out :=
  let a := s.cur.args
  let covered (pasid : BitVec 20) (page : Nat) : Bool :=
    match a.pasid with
    | none => true
    | some p => p == pasid && a.addr < page * 4096 + 4096 && page * 4096 < a.addr + a.count
  let keep (l : CachedLeaf) : Bool := !l.host.any (covered (s.part l.part).hpasid)
  .next ({ s with
    hostXlat := s.hostXlat.map (fun (e : Nat × List HostTranslation) => (e.1, e.2.filter (fun t => !covered t.pasid t.page)))
    attrCache := s.attrCache.map (fun (e : Nat × List CachedLeaf) => (e.1, e.2.filter keep)) }.tell .invalidationComplete)

/-- TRANSLATION_COMPLETION (R330): it fills the cache of its die; one that grants nothing sends a Page Request with the
host address, in the name of the lowest partition with the PASID. -/
def execTranslationCompletion (s : State) : Out :=
  let a := s.cur.args
  let key := (a.die, a.pasid.getD 0, a.addr)
  if !s.hostAsked.contains key then .next s
  else
    let s := { s with hostAsked := s.hostAsked.filter (· != key) }
    if !a.yes && !a.also then
      match (List.range 16).find? (fun q => (s.part q).hpasid == key.2.1) with
      | none => .next s
      | some q => .next (s.requestPage q 0 (some a.addr))
    else
      let old := ((Table.find s.hostXlat a.die).getD []).filter (fun t => !(t.pasid == key.2.1 && t.page == a.addr))
      let new : HostTranslation := { pasid := key.2.1, page := a.addr, frame := a.word.toNat % 2 ^ 52, r := a.yes, w := a.also }
      .next { s with hostXlat := Table.set s.hostXlat a.die ((new :: old).take 4096) }

/-! Automatic migration (R337). -/

/-- The entry of a pool that gives a frame of a size on a die. -/
def Partition.poolFrame (p : Partition) (size die : Nat) : Option (Nat × Word) :=
  p.pool.find? (fun e => 2 ^ e.1 == size && !leafHost e.2 && leafFrame e.2 / 2 ^ 46 == die)

/-- MIGRATION_TRIGGER (R337, R338): the accesses from a die have reached MTH, and the page moves to a frame of the pool on
that die, or becomes SETTLED when its fourth-latest move lies less than 2^24 clk back; a pinned page is skipped, and
engines that own lines of it are waited for (R335). -/
def execMigrationTrigger (s : State) : Out :=
  let part := s.cur.args.part
  let die := s.cur.args.die
  let p := s.part part
  match s.walk part s.cur.args.addr with
  | .leaf base size e =>
    let k := p.stat base
    if p.mth = 0 || k.counts.getD die 0 < p.mth.toNat || !movable part e || leafFrame e / 2 ^ 46 = die ||
      k.settledUntil.isSome || s.pinnedIn part base (base + size) then .next s
    else if k.moves.length ≥ 4 && k.moves.getLast?.any (fun t => decide (s.clk < t + 2 ^ 24)) then
      .next (s.modPart part (·.setStat base { k with settledUntil := some (s.clk + 2 ^ 26) }))
    else if s.engineOwns part base (base + size) then .next s
    else match p.poolFrame size die with
      | none => .next s
      | some new =>
        .next ((s.movePage part base size e (leafFrame new.2)).modPart part (fun p =>
          let p := p.setStat base { k with moves := (s.clk :: k.moves).take 4, counts := [0, 0, 0, 0] }
          { p with pool := p.pool.erase new ++ [(new.1, e)] }))
  | _ => .next s

/-- SETTLED_EXPIRY (R337): 2^26 clk later the page is ACTIVE again, its counts cleared. -/
def execSettledExpiry (s : State) : Out :=
  let part := s.cur.args.part
  match s.walk part s.cur.args.addr with
  | .leaf base _ _ =>
    let k := (s.part part).stat base
    .next (if k.settledUntil.any (fun t => decide (t ≤ s.clk)) then
      s.modPart part (·.setStat base { k with settledUntil := none, counts := [0, 0, 0, 0] }) else s)
  | _ => .next s

end Sys2Proof.Machine
end

