-- ==== Sys2Proof/Machine/Coherence.lean ====
section
/-! DEFINITION. The directory and the arrays (R313, R317 to R321, R323), and the host's accesses to device memory (R266,
R285). -/

namespace Sys2Proof.Machine

/-! The directory (R318, R319). -/

/-- DIRECTORY_REQUEST (R318, R319): a request of a core's cache for a DT line is resolved against the entry of its home
slice, and the cache takes the line; a write then also recalls the line from the dies in RD or RDIE. A line that an engine
holds admits none (R259). -/
def execDirectoryRequest (s : State) : Out :=
  let a := s.cur.args
  let core := a.core
  let part := (s.core core).part
  if !(s.core core).placed || a.addr ≥ 2 ^ 56 || s.engineHolds part a.addr then .next s
  else match s.translate core 0 part.toNat a.addr {} 0 false with
    | .error _ => .next s
    | .ok p => match s.homeOf core p with
      | none => .next s
      | some h => .next (if p.tracked then (s.requestLine core h a.yes).fillTracked core h else s)

/-- Two siblings may merge: they are equal, RDIE included, or one is I with no die to recall (R319). -/
def DirEntry.mergeWith (a b : DirEntry) : Option DirEntry :=
  let same := a.st == b.st && a.ovf == b.ovf && a.rdie == b.rdie && a.holders.all b.holders.contains && b.holders.all a.holders.contains
  let up (e : DirEntry) : DirEntry := { e with span := a.span + 1, base := a.base, qt := max a.qt b.qt, asked := max a.asked b.asked }
  let idle (e : DirEntry) : Bool := e.st == 0 && e.rdie == 0
  if idle a then some (up b) else if idle b || same then some (up a) else none

/-- DIRECTORY_MERGE (R319, R323): the halves of one span, quiet for the interval. A request of one of them in this clock
prevails: the merge is abandoned, and QT restarts. -/
def execDirectoryMerge (s : State) : Out :=
  let a := s.cur.args
  let l := s.slice a.index
  let quiet (e : DirEntry) : Bool := decide (s.clk ≥ e.qt + s.service.quiet)
  match l.find? (fun e => e.part == a.part && e.base == a.addr) with
  | none => .next s
  | some lo =>
    match l.find? (fun e => e.part == a.part && e.base == lo.base + 2 ^ lo.span && e.span == lo.span) with
    | none => .next s
    | some hi =>
      if lo.span ≥ 16 || lo.base % 2 ^ (lo.span + 1) != 0 || !quiet lo || !quiet hi then .next s
      else match lo.mergeWith hi with
        | none => .next s
        | some m =>
          if lo.asked = s.clk || hi.asked = s.clk then
            .next (s.setSlice a.index (l.map (fun e => if e == lo || e == hi then { e with qt := s.clk } else e)))
          else .next (s.setSlice a.index (l.filterMap (fun e => if e == lo then some m else if e == hi then none else some e)))

/-- ARRAY_WAKE (R321). -/
def execArrayWake (s : State) : Out := .next (s.wakeArray s.cur.args.index)

/-! The host (R266, R285). -/

/-- The page of a partition, with the CELL attribute and a buffer of a defined cell, that a physical address lies in
(R285). -/
def State.cellFrame (s : State) (pa : Nat) : Bool :=
  (List.range 16).any (fun part => (s.part part).cells.any (fun e => [e.2.buf0, e.2.buf1].any (fun b =>
    (List.range (e.2.extent / 4096 + 2)).any (fun i =>
      match s.walk part (b - b % 4096 + 4096 * i) with
      | .leaf base size w =>
        s.cellPage { part := part, base := base, size := size, leaf := w, host := none } && inRun (leafFrame w) size pa
      | _ => false))))

/-- The line of the slices that holds a physical address. -/
def State.l2At? (s : State) (pa : Nat) : Option L2Line :=
  ((s.l2.flatMap (·.2)).find? (fun l => inRun l.loc 64 pa))

/-- Writes a byte of device memory by its physical address: in the line of a slice that holds it, and in no core's data
cache, which gives a DT line up; else in DRAM. -/
def State.physicalPoke (s : State) (pa : Nat) (b : Byte) : State :=
  match s.l2At? pa with
  | some l =>
    let h : Home := { part := l.part, ia := l.line * 64 + pa % 64, loc := pa, gran := l.gran, tag := l.tag, era := l.era }
    ((s.everyCore (fun s n => s.flushLines n (fun k => k.coh == 0 && inRun k.loc 64 pa))).dirtyL2 h).poke pa b
  | none => (s.setErr pa 0).poke pa b

/-- The data of a host read; of data that cannot be corrected the spec states no value (log 9). -/
def State.hostRead (s : State) (ps : List Place) : Out :=
  let (x, s) := s.free
  let w := if ps.any (fun p => (s.uceAt p).isSome) then x
    else BitVec.ofNat 64 (natOfBytes (ps.map (fun p => s.mem.read p.loc)))
  .next (s.tell (.hostRead w))

/-- HOST_ACCESS (R266): eight aligned bytes of a partition's memory, or, with a number above the partitions, of device
memory by physical address, which is how the host reaches page tables (Table 20-1; log 23). A write to a page that holds a
buffer of a defined cell, or an access to a byte that the page tables do not map or that no die has, completes as an
Unsupported Request. The host is told the data that a read returns. -/
def execHostAccess (s : State) : Out :=
  let a := s.cur.args
  if a.addr % 8 ≠ 0 then .next s
  else if a.part ≥ 16 then
    if !s.okPa a.addr || a.yes && s.cellFrame a.addr then .next (s.tell .unsupportedRequest)
    else if a.yes then
      .next (((List.range 8).map (a.addr + ·)).zip (bytesOfNat 8 a.word.toNat) |>.foldl (fun s e => s.physicalPoke e.1 e.2) s)
    else s.hostRead ((List.range 8).map (fun i => { loc := a.addr + i }))
  else if a.yes then
    match s.cmdWrite? a.part a.addr 8 with
    | .ok ps => .next (s.cmdStore false (ps.zip (bytesOfNat 8 a.word.toNat)))
    | .error (.stop f) => .fault f
    | .error _ => .next (s.tell .unsupportedRequest)
  else
    match s.cmdPlaces a.part false 8 a.addr with
    | .ok ps => s.hostRead ps
    | .error (.stop f) => .fault f
    | .error _ => .next (s.tell .unsupportedRequest)

end Sys2Proof.Machine
end

