-- ==== Sys2Proof/Machine/Recovery.lean ====
section
/-! DEFINITION. Handlers, TRET's arrival, the firmware's services, the block checker, rollback, and the fault of a fetch
(R71, R90 to R92, R358, R364, R368, R369). -/

namespace Sys2Proof.Machine

/-! The handler (R90). -/

/-- HANDLER_START (R90): a record is in the mailbox of the supervisor core and h10 is not live. -/
def execHandlerStart (s : State) : Out :=
  match s.gang? s.cur.args.gid with
  | none => .next s
  | some g => match g.supervisor with
    | none => .next s
    | some c =>
      let k := s.core c
      if g.state != .running || g.stopping || g.fate.isSome || (k.ctx 10).live || !k.mbox.any (·.kind == 1) then .next s
      else .next (s.startContext c 10 k.trappc 0 s.clk)

/-! TRET's arrival (R91, R358). -/

/-- A stopped stretcher rejoins its stream when the fetching core has issued nothing since it stopped: it executes the
next instruction that the fetching core forwards, at its skew point; under action 00 that includes a reissue of the
instruction at which it stopped (log 49). Otherwise it resumes detached at the chosen PC, as after GDETACH (R91). -/
def State.resumeStretcher (s : State) (core leader : Nat) (st : Stop) (skip : Bool) : State :=
  let stream := (s.core leader).stream
  let s := (s.resume core 0 skip).modCore core Core.uncheck
  if stream.any (fun i => decide (i.clk > st.at_)) then
    s.becomeHeader core (if skip then nextPc st.pc else st.pc) (s.clk + 1)
  else s.modCore core (fun c => { c with spos := stream.length, redo := !skip })

/-- A context resumes: a stretcher in its stream or detached, any other in the clock after the action's arrival. -/
def State.resumeContext (s : State) (core ctx : Nat) (st : Stop) (skip : Bool) : State :=
  let s := if ctx = 0 then s.modCore core Core.uncheck else s
  match (if ctx = 0 then s.leader core else none) with
  | some l =>
    if st.cls = .barTimeout then
      let s := s.resume core ctx skip
      if skip && st.wait != some .join then s.modCore core (fun c => { c with spos := c.spos + 1 }) else s
    else s.resumeStretcher core l st skip
  | none => (s.resume core ctx skip).modCtx core ctx (fun x => { x with notBefore := max x.notBefore (s.clk + 1) })

/-- The first action on its way to a context, and the others. -/
def takeTret (core ctx : Nat) : List Post → Option (BitVec 2 × List Post)
  | [] => none
  | p :: ps => match p with
    | .tret c x a => if c = core && x = ctx then some (a, ps) else (takeTret core ctx ps).map (fun r => (r.1, p :: r.2))
    | _ => (takeTret core ctx ps).map (fun r => (r.1, p :: r.2))

/-- TRET_ACTION_ARRIVAL (R91, R358). -/
def execTretActionArrival (s : State) : Out :=
  let core := s.cur.args.core
  let ctx := s.cur.args.ctx.val
  match takeTret core ctx s.posts with
  | none => .next s
  | some (a, rest) =>
    let s := { s with posts := rest }
    match ((s.core core).ctx ctx).stop with
    | none => .next s
    | some st => .next (s.resumeContext core ctx st (a == 1))

/-! Firmware's services (R92). -/

/-- The sizes that the page services take. -/
def pageLog (w : Word) : Bool := w == 12 || w == 16 || w == 21 || w == 30

/-- The level of the leaf of a page of a size. -/
def levelOfLog (lg : Nat) : Nat := if lg = 30 then 2 else if lg = 21 then 3 else 4

/-- Writes a leaf into a page table; a table that is missing on the way takes a zeroed 4 KiB page of the pool (log 11).
None when a slot is taken, or no page is left for a table. -/
def mapPage (cap ia target : Nat) (leaf : Word) : Nat → Nat → Nat → Memory → List (Nat × Word) → Option (Memory × List (Nat × Word))
  | 0, _, _, _, _ => none
  | n + 1, lv, t, m, pool =>
    if !okPa cap t then none
    else
      let a := t + 8 * tableIndex ia lv
      let e := m.readWord a
      if lv = target then
        let slots := if lv = 4 && leaf.getLsbD 56 then (List.range 16).map (fun i => a - a % 128 + 8 * i) else [a]
        if slots.any (fun b => (m.readWord b).getLsbD 0) then none
        else some (slots.foldl (fun m b => m.writeBytes b (wordBytes leaf)) m, pool)
      else if e.getLsbD 0 then
        if isLeaf lv e then none else mapPage cap ia target leaf n (lv + 1) ((e.extractLsb' 12 36).toNat * 4096) m pool
      else match pool.find? (fun k => k.1 == 12 && !leafHost k.2) with
        | none => none
        | some k =>
          let f := leafFrame k.2
          let m := (m.clear f 4096).writeBytes a (bytesOfNat 8 (f + 1))
          mapPage cap ia target leaf n (lv + 1) f m (pool.erase k)

/-- An argument of a page service that is bad: the size, the alignment, or a page of another partition; an address of 2^56
or more, which no partition has, is bad too (DESIGN CHOICE, log 11: the rule's list does not name it). -/
def State.badPage (s : State) (part : Nat) (ia lg : Word) : Bool :=
  !pageLog lg || ia.toNat % 2 ^ lg.toNat != 0 || ia.toNat ≥ 2 ^ 56 ||
  match s.walk part ia.toNat with
  | .leaf _ _ e => leafOwner e != part
  | _ => false

/-- PAGE.GET (Table 4-10): a page of the size leaves the pool and is mapped; a page that is mapped already stays. A page of
the pool is mapped with the attributes, GRAN among them, of its last mapping, so that R310 has nothing to zero; the
frames of new tables are written whole. -/
def State.pageGet (s : State) (part : Nat) (ia lg : Word) : Word × State :=
  let p := s.part part
  if s.badPage part ia lg then (2, s)
  else match s.walk part ia.toNat with
    | .leaf base size _ => (if base = ia.toNat && size = 2 ^ lg.toNat then 0 else 2, s)
    | _ => match p.pool.find? (fun e => e.1 == lg.toNat) with
      | none => (3, s)
      | some e =>
        match mapPage s.capacity ia.toNat (levelOfLog lg.toNat) (e.2 ||| 1) 5 0 p.ptbr.toNat s.mem (p.pool.erase e) with
        | none => (3, s)
        | some (m, pool) =>
          let tables := (p.pool.erase e).filter (fun k => !pool.contains k)
          let s := tables.foldl (fun s k => s.forgetRun (leafFrame k.2) 4096) s
          (0, { s with mem := m }.modPart part (fun p =>
            { p with pool := pool, tables := p.tables ++ tables.map (fun (k : Nat × Word) => leafFrame k.2) }))

/-- PAGE.PUT (Table 4-10, R332): a shootdown of KIND 1 of the page, which must be mapped whole, so that REVOKED counts its
pins from then on; it goes to the pool, not zeroed. -/
def State.pagePut (s : State) (part : Nat) (ia lg : Word) : Word × State :=
  if s.badPage part ia lg then (2, s)
  else match s.walk part ia.toNat with
    | .leaf base size e =>
      if base ≠ ia.toNat || size ≠ 2 ^ lg.toNat then (2, s)
      else
        let s := s.performRange part base (base + size)
        let s := (s.rewriteLeaf part base (fun _ => 0)).dropLeaves part base (base + size)
        (0, s.modPart part (fun p => { p with pool := p.pool ++ [(lg.toNat, e)] }))
    | _ => (2, s)

/-- What firmware answers to a request, in s1; none while a PAGE.PUT waits for pins (R92, R332). -/
def State.serve (s : State) (part : Nat) (r : SyscRequest) : Option (Word × State) :=
  match r.service.toNat with
  | 0 => some (0, s)
  | 1 => some (s.pageGet part r.s2 r.s3)
  | 2 =>
    if !s.badPage part r.s2 r.s3 && s.pinnedIn part r.s2.toNat (r.s2.toNat + 2 ^ r.s3.toNat) then none
    else some (s.pagePut part r.s2 r.s3)
  | _ => some (1, s)

/-- Firmware begins the shootdown of a PAGE.PUT (R332): REVOKED counts anew, and PINTO runs from now on. -/
def State.beginPut (s : State) (part : Nat) (mine : SyscRequest → Bool) (r : SyscRequest) : State :=
  if r.begun || r.service != 2 || s.badPage part r.s2 r.s3 then s
  else
    { s with sysc := s.sysc.map (fun (k : SyscRequest) => if mine k then { k with begun := true, since := s.clk } else k) }.modPart
      part (fun p => { p with revoked := 0 })

/-- SYSC_REPLY (R92): the status goes to s1 and s2 keeps its value; a saved gang finds the reply when it is restored. -/
def execSyscReply (s : State) : Out :=
  let a := s.cur.args
  let mine (r : SyscRequest) : Bool := r.gid == a.gid && r.core == a.core && r.ctx == a.ctx.val && r.answer.isNone
  match s.sysc.find? mine, s.gang? a.gid with
  | some r, some g =>
    if !s.serving then .next s
    else
    let s := s.beginPut g.part mine r
    match s.serve g.part r with
      | none => .next s
      | some (status, s) =>
        if g.state == .saved || g.saveDone then
          .next { s with sysc := s.sysc.map (fun (k : SyscRequest) => if mine k then { k with answer := some (status, r.s2) } else k) }
        else .next ({ s with sysc := s.sysc.filter (fun k => !mine k) }.answer r.core r.ctx (status, r.s2))
  | _, _ => .next s

/-! The block checker (R368, R369). -/

/-- SIGNATURE_CHECK (R368, R369): the oldest block whose last slot has retired is compared; CNT advances and LAST takes its SIGIX. -/
def execSignatureCheck (s : State) : Out :=
  let core := s.cur.args.core
  let c := s.core core
  match (if c.checker.closing then c.checker.ended.dropLast else c.checker.ended) with
  | [] => .next s
  | (ix, crc, expected, first) :: _ =>
    let rest := c.checker.ended.drop 1
    let s := s.modCore core (fun c =>
      { c with checker := { c.checker with ended := rest }, sigCnt := c.sigCnt + 1, sigLast := ix })
    if expected = some crc then .next s
    else .next (s.takeError core 0
      { cls := .sigMismatch, code := if expected.isNone then 1 else 0, operand := 0#16 ++ ix ++ crc ++ expected.getD 0
        pc := first, async := true, dpc := (c.ctx 0).pc })

/-! Rollback (R364 to R366). -/

/-- Writes the before-images of a core back, in descending index order. -/
def undoImages (core : Nat) : Nat → State → State
  | 0, s => s
  | n + 1, s =>
    let line := s.spNat core (0x1C1C0 + 2 * n) 2 % 2048
    let image := s.mem.readBytes (Config.spLoc core (0x1C400 + 64 * n)) 64
    undoImages core n (s.pokes (Config.spLoc core (64 * line)) image)

/-- A byte of a before-image of a core that is itself uncorrectable. -/
def State.badImage? (s : State) (core : Nat) : Option (Nat × Bool × BitVec 3) :=
  let n := (s.undoWord core).toNat % 256
  s.bad.find? (fun e => inRun (Config.spLoc core 0x1C400) (64 * n) e.1)

/-- The word of the undo log at an offset. -/
def State.logWord (s : State) (core off : Nat) : Word := s.mem.readWord (Config.spLoc core off)

/-- The control context as the log restores it: s, a, p and the restart PC; it goes on unless it had halted there. -/
def State.restoredCtx (s : State) (core : Nat) (x : Context) : Context :=
  let pc := s.logWord core 0x1C010
  let still := x.halted && x.pc == pc
  { x with
    s := Vector.ofFn (fun i => if i.val = 0 then 0 else s.logWord core (0x1C040 + 8 * (i.val - 1)))
    a := Vector.ofFn (fun i => s.logWord core (0x1C138 + 8 * i.val))
    p := (s.logWord core 0x1C018).extractLsb' 0 8, pc := pc, live := !still, halted := still
    wait := none, waitt := none, issued := false, entryCheck := false, afterGissue := false }

/-- One core goes back to the start of its superstep. -/
def State.rollCore (s : State) (core : Nat) : State :=
  let w := s.undoWord core
  let s := undoImages core (w.toNat % 256) s
  let s := { s with mem := s.mem.writeBytes (Config.spLoc core 0x1C000) (bytesOfNat 8 (w.toNat + 2 ^ 16)) }
  let x := s.restoredCtx core ((s.core core).ctx 0)
  let at_ := match s.leader core with
    | some l => (s.core l).stream.length
    | none => (s.core core).spos
  let s := s.modCore core (fun c =>
    let k : Core := { c with
      chan := Vector.replicate 4 none, phase := .compute, barSince := true, captures := [], conds := []
      again := false, redo := false
      seq := { c.seq with busy := false, joining := false, arrived := false }
      checker := { c.checker.reopen with active := false }
      bars := c.bars.map (fun b => { b with pending := false, raised := false })
      spos := at_ }
    k.setCtx 0 { x with notBefore := s.clk + 1 + c.skew })
  ((s.disarm core 0).acquire core true).beginSuperstep core true

/-- A post that a rollback waits for, and one that it discards. -/
def Post.isGather : Post → Bool
  | .gather _ _ _ _ _ _ => true
  | _ => false
def Post.isChannel : Post → Bool
  | .channel _ _ _ _ => true
  | _ => false

/-- A gang that rolls back has stopped: every attached core but one that consumed an error has caught up, and what was
issued has completed (R212, R364). -/
def State.readyToRoll (s : State) (g : Gang) : Bool :=
  g.cores.all (fun c => g.rollback.contains c || s.caughtUp c) &&
  g.cores.all (fun c => (s.core c).ctxs.toList.all (·.replies.isEmpty)) &&
  !s.posts.any (fun p => p.isGather && p.forCores g.cores)

/-- ROLLBACK (R364): the gang goes back to the start of its superstep, and its barrier completes again; a before-image
that cannot be read is fatal (R365). -/
def execRollback (s : State) : Out :=
  match s.gang? s.cur.args.gid with
  | none => .next s
  | some g =>
    if g.rollback.isEmpty || g.fate.isSome || !s.readyToRoll g then .next s
    else match g.cores.find? (fun n => (s.badImage? n).isSome) with
      | some c =>
        let (off, poisoned) := ((s.badImage? c).map (fun e => (e.1 - Config.spLoc c 0, e.2.1))).getD (0, false)
        .next (s.takeFault c 0 { cls := .uce, code := if poisoned then 7 else 6, operand := BitVec.ofNat 64 off
                                 pc := ((s.core c).ctx 0).pc } (fatal := true))
      | none =>
        let s := g.cores.foldl State.rollCore s
        let s := { s with posts := s.posts.filter (fun p => !(p.isChannel && p.forCores g.cores)) }
        .next ((s.barrierIn false s g).modGang g.gid (fun g => { g with rollback := [] }))

/-! Fetch (R54, R55, R71). -/

/-- FETCH_FAULT (R71): a slot whose fetch fails, or that decodes as ILLEGAL, raises its precise fault and has no effect. -/
def execFetchFault (s : State) : Out :=
  let core := s.cur.args.core
  let ctx := s.cur.args.ctx
  if !s.mayIssue core ctx.val || ctx.val == 0 && (s.leader core).isSome then .next s
  else
    let t := s.turnTo core ctx none
    match t.fetch core ctx.val t.my.pc t.my.entryCheck with
    | .bad cls code operand => .next (t.raise cls code operand)
    | .trap (.stop f) => .fault f
    | _ => .next s

end Sys2Proof.Machine
end

