-- ==== Sys2Proof/Machine/Dispatch.lean ====
section
/-! DEFINITION. The one match over the instructions: each arm calls the meaning of its instruction. -/

namespace Sys2Proof.Machine

/-- The effect of one instruction or event. -/
def exec (i : Instr) (s : State) : Host.Outcome State Fault Refusal :=
  match i with
  | .nop f => Sys2Proof.Machine.execNop f s
  | .add f => Sys2Proof.Machine.execAdd f s
  | .sub f => Sys2Proof.Machine.execSub f s
  | .addi f => Sys2Proof.Machine.execAddi f s
  | .mul f => Sys2Proof.Machine.execMul f s
  | .mulh f => Sys2Proof.Machine.execMulh f s
  | .mulhu f => Sys2Proof.Machine.execMulhu f s
  | .div f => Sys2Proof.Machine.execDiv f s
  | .divu f => Sys2Proof.Machine.execDivu f s
  | .rem f => Sys2Proof.Machine.execRem f s
  | .remu f => Sys2Proof.Machine.execRemu f s
  | .and f => Sys2Proof.Machine.execAnd f s
  | .or f => Sys2Proof.Machine.execOr f s
  | .xor f => Sys2Proof.Machine.execXor f s
  | .andn f => Sys2Proof.Machine.execAndn f s
  | .andi f => Sys2Proof.Machine.execAndi f s
  | .ori f => Sys2Proof.Machine.execOri f s
  | .xori f => Sys2Proof.Machine.execXori f s
  | .shl f => Sys2Proof.Machine.execShl f s
  | .shr f => Sys2Proof.Machine.execShr f s
  | .sra f => Sys2Proof.Machine.execSra f s
  | .shli f => Sys2Proof.Machine.execShli f s
  | .shri f => Sys2Proof.Machine.execShri f s
  | .srai f => Sys2Proof.Machine.execSrai f s
  | .rol f => Sys2Proof.Machine.execRol f s
  | .roli f => Sys2Proof.Machine.execRoli f s
  | .clz f => Sys2Proof.Machine.execClz f s
  | .ctz f => Sys2Proof.Machine.execCtz f s
  | .popc f => Sys2Proof.Machine.execPopc f s
  | .min f => Sys2Proof.Machine.execMin f s
  | .max f => Sys2Proof.Machine.execMax f s
  | .minu f => Sys2Proof.Machine.execMinu f s
  | .maxu f => Sys2Proof.Machine.execMaxu f s
  | .sext f => Sys2Proof.Machine.execSext f s
  | .zext f => Sys2Proof.Machine.execZext f s
  | .bfx f => Sys2Proof.Machine.execBfx f s
  | .bfxSx f => Sys2Proof.Machine.execBfxSx f s
  | .bfi f => Sys2Proof.Machine.execBfi f s
  | .sel f => Sys2Proof.Machine.execSel f s
  | .cmp f => Sys2Proof.Machine.execCmp f s
  | .cmpi f => Sys2Proof.Machine.execCmpi f s
  | .li f => Sys2Proof.Machine.execLi f s
  | .lih f => Sys2Proof.Machine.execLih f s
  | .mov f => Sys2Proof.Machine.execMov f s
  | .aadd f => Sys2Proof.Machine.execAadd f s
  | .aaddi f => Sys2Proof.Machine.execAaddi f s
  | .mfc f => Sys2Proof.Machine.execMfc f s
  | .mtc f => Sys2Proof.Machine.execMtc f s
  | .pand f => Sys2Proof.Machine.execPand f s
  | .por f => Sys2Proof.Machine.execPor f s
  | .pxor f => Sys2Proof.Machine.execPxor f s
  | .pnot f => Sys2Proof.Machine.execPnot f s
  | .br f => Sys2Proof.Machine.execBr f s
  | .j f => Sys2Proof.Machine.execJ f s
  | .jr f => Sys2Proof.Machine.execJr f s
  | .loop f => Sys2Proof.Machine.execLoop f s
  | .trap f => Sys2Proof.Machine.execTrap f s
  | .chk f => Sys2Proof.Machine.execChk f s
  | .sysc f => Sys2Proof.Machine.execSysc f s
  | .tret f => Sys2Proof.Machine.execTret f s
  | .halt f => Sys2Proof.Machine.execHalt f s
  | .fenceI f => Sys2Proof.Machine.execFenceI f s
  | .yield f => Sys2Proof.Machine.execYield f s
  | .vadd f => Sys2Proof.Machine.execVadd f s
  | .vsub f => Sys2Proof.Machine.execVsub f s
  | .vmul f => Sys2Proof.Machine.execVmul f s
  | .vfma f => Sys2Proof.Machine.execVfma f s
  | .vfms f => Sys2Proof.Machine.execVfms f s
  | .vdiv f => Sys2Proof.Machine.execVdiv f s
  | .vsqrt f => Sys2Proof.Machine.execVsqrt f s
  | .vrcpe f => Sys2Proof.Machine.execVrcpe f s
  | .vrsqe f => Sys2Proof.Machine.execVrsqe f s
  | .vexp2 f => Sys2Proof.Machine.execVexp2 f s
  | .vlog2 f => Sys2Proof.Machine.execVlog2 f s
  | .vmin f => Sys2Proof.Machine.execVmin f s
  | .vmax f => Sys2Proof.Machine.execVmax f s
  | .vabs f => Sys2Proof.Machine.execVabs f s
  | .vneg f => Sys2Proof.Machine.execVneg f s
  | .vcmp f => Sys2Proof.Machine.execVcmp f s
  | .vsel f => Sys2Proof.Machine.execVsel f s
  | .vcvt f => Sys2Proof.Machine.execVcvt f s
  | .viadd f => Sys2Proof.Machine.execViadd f s
  | .visub f => Sys2Proof.Machine.execVisub f s
  | .vimul f => Sys2Proof.Machine.execVimul f s
  | .vimad f => Sys2Proof.Machine.execVimad f s
  | .vimin f => Sys2Proof.Machine.execVimin f s
  | .vimax f => Sys2Proof.Machine.execVimax f s
  | .vand f => Sys2Proof.Machine.execVand f s
  | .vor f => Sys2Proof.Machine.execVor f s
  | .vxor f => Sys2Proof.Machine.execVxor f s
  | .vshl f => Sys2Proof.Machine.execVshl f s
  | .vshr f => Sys2Proof.Machine.execVshr f s
  | .vsra f => Sys2Proof.Machine.execVsra f s
  | .vclass f => Sys2Proof.Machine.execVclass f s
  | .vmovv f => Sys2Proof.Machine.execVmovv f s
  | .vrsum f => Sys2Proof.Machine.execVrsum f s
  | .vrmax f => Sys2Proof.Machine.execVrmax f s
  | .vrmin f => Sys2Proof.Machine.execVrmin f s
  | .vscan f => Sys2Proof.Machine.execVscan f s
  | .vbcast f => Sys2Proof.Machine.execVbcast f s
  | .vperm f => Sys2Proof.Machine.execVperm f s
  | .vslide f => Sys2Proof.Machine.execVslide f s
  | .vcomp f => Sys2Proof.Machine.execVcomp f s
  | .vexpd f => Sys2Proof.Machine.execVexpd f s
  | .viota f => Sys2Proof.Machine.execViota f s
  | .vgetl f => Sys2Proof.Machine.execVgetl f s
  | .vsetl f => Sys2Proof.Machine.execVsetl f s
  | .kpopc f => Sys2Proof.Machine.execKpopc f s
  | .kfirst f => Sys2Proof.Machine.execKfirst f s
  | .kand f => Sys2Proof.Machine.execKand f s
  | .kor f => Sys2Proof.Machine.execKor f s
  | .kxor f => Sys2Proof.Machine.execKxor f s
  | .knot f => Sys2Proof.Machine.execKnot f s
  | .kmov f => Sys2Proof.Machine.execKmov f s
  | .vnsend f => Sys2Proof.Machine.execVnsend f s
  | .vnrecv f => Sys2Proof.Machine.execVnrecv f s
  | .vlmul f => Sys2Proof.Machine.execVlmul f s
  | .vlsum f => Sys2Proof.Machine.execVlsum f s
  | .vlpack f => Sys2Proof.Machine.execVlpack f s
  | .vlunpk f => Sys2Proof.Machine.execVlunpk f s
  | .ld f => Sys2Proof.Machine.execLd f s
  | .st f => Sys2Proof.Machine.execSt f s
  | .ldv f => Sys2Proof.Machine.execLdv f s
  | .stv f => Sys2Proof.Machine.execStv f s
  | .ldvs f => Sys2Proof.Machine.execLdvs f s
  | .stvs f => Sys2Proof.Machine.execStvs f s
  | .ldvx f => Sys2Proof.Machine.execLdvx f s
  | .stvx f => Sys2Proof.Machine.execStvx f s
  | .ldk f => Sys2Proof.Machine.execLdk f s
  | .stk f => Sys2Proof.Machine.execStk f s
  | .lda f => Sys2Proof.Machine.execLda f s
  | .strl f => Sys2Proof.Machine.execStrl f s
  | .pref f => Sys2Proof.Machine.execPref f s
  | .amoadd f => Sys2Proof.Machine.execAmoadd f s
  | .amomin f => Sys2Proof.Machine.execAmomin f s
  | .amomax f => Sys2Proof.Machine.execAmomax f s
  | .amominu f => Sys2Proof.Machine.execAmominu f s
  | .amomaxu f => Sys2Proof.Machine.execAmomaxu f s
  | .amoand f => Sys2Proof.Machine.execAmoand f s
  | .amoor f => Sys2Proof.Machine.execAmoor f s
  | .amoxor f => Sys2Proof.Machine.execAmoxor f s
  | .amoswp f => Sys2Proof.Machine.execAmoswp f s
  | .amocas f => Sys2Proof.Machine.execAmocas f s
  | .amofadd f => Sys2Proof.Machine.execAmofadd f s
  | .fence f => Sys2Proof.Machine.execFence f s
  | .fenceSs f => Sys2Proof.Machine.execFenceSs f s
  | .fenceLl f => Sys2Proof.Machine.execFenceLl f s
  | .fenceS f => Sys2Proof.Machine.execFenceS f s
  | .cmoClean f => Sys2Proof.Machine.execCmoClean f s
  | .cmoInval f => Sys2Proof.Machine.execCmoInval f s
  | .cmoFlush f => Sys2Proof.Machine.execCmoFlush f s
  | .cmoZero f => Sys2Proof.Machine.execCmoZero f s
  | .waitm f => Sys2Proof.Machine.execWaitm f s
  | .waitmCmp f => Sys2Proof.Machine.execWaitmCmp f s
  | .ldsec f => Sys2Proof.Machine.execLdsec f s
  | .stsec f => Sys2Proof.Machine.execStsec f s
  | .tset f => Sys2Proof.Machine.execTset f s
  | .tget f => Sys2Proof.Machine.execTget f s
  | .tld f => Sys2Proof.Machine.execTld f s
  | .tst f => Sys2Proof.Machine.execTst f s
  | .tzero f => Sys2Proof.Machine.execTzero f s
  | .tmov f => Sys2Proof.Machine.execTmov f s
  | .gissue f => Sys2Proof.Machine.execGissue f s
  | .tmma f => Sys2Proof.Machine.execTmma f s
  | .tmmal f => Sys2Proof.Machine.execTmmal f s
  | .tscale f => Sys2Proof.Machine.execTscale f s
  | .tadd f => Sys2Proof.Machine.execTadd f s
  | .tmul f => Sys2Proof.Machine.execTmul f s
  | .tcvt f => Sys2Proof.Machine.execTcvt f s
  | .ttrans f => Sys2Proof.Machine.execTtrans f s
  | .trsum f => Sys2Proof.Machine.execTrsum f s
  | .trmax f => Sys2Proof.Machine.execTrmax f s
  | .tv2t f => Sys2Proof.Machine.execTv2t f s
  | .tt2v f => Sys2Proof.Machine.execTt2v f s
  | .tbcst f => Sys2Proof.Machine.execTbcst f s
  | .tstat f => Sys2Proof.Machine.execTstat f s
  | .hstart f => Sys2Proof.Machine.execHstart f s
  | .hend f => Sys2Proof.Machine.execHend f s
  | .hjoin f => Sys2Proof.Machine.execHjoin f s
  | .hstat f => Sys2Proof.Machine.execHstat f s
  | .gdetach f => Sys2Proof.Machine.execGdetach f s
  | .gdetachJoin f => Sys2Proof.Machine.execGdetachJoin f s
  | .gattach f => Sys2Proof.Machine.execGattach f s
  | .gmerge f => Sys2Proof.Machine.execGmerge f s
  | .barw f => Sys2Proof.Machine.execBarw f s
  | .bara f => Sys2Proof.Machine.execBara f s
  | .barq f => Sys2Proof.Machine.execBarq f s
  | .barqTest f => Sys2Proof.Machine.execBarqTest f s
  | .xph f => Sys2Proof.Machine.execXph f s
  | .xsend f => Sys2Proof.Machine.execXsend f s
  | .xmux f => Sys2Proof.Machine.execXmux f s
  | .xend f => Sys2Proof.Machine.execXend f s
  | .cpy f => Sys2Proof.Machine.execCpy f s
  | .cpyn f => Sys2Proof.Machine.execCpyn f s
  | .cpyc f => Sys2Proof.Machine.execCpyc f s
  | .cpyr f => Sys2Proof.Machine.execCpyr f s
  | .cpycmb f => Sys2Proof.Machine.execCpycmb f s
  | .wmset f => Sys2Proof.Machine.execWmset f s
  | .wmclr f => Sys2Proof.Machine.execWmclr f s
  | .wmrd f => Sys2Proof.Machine.execWmrd f s
  | .wmrdAddr f => Sys2Proof.Machine.execWmrdAddr f s
  | .crwait f => Sys2Proof.Machine.execCrwait f s
  | .crpop f => Sys2Proof.Machine.execCrpop f s
  | .cbinit f => Sys2Proof.Machine.execCbinit f s
  | .cbacqRd f => Sys2Proof.Machine.execCbacqRd f s
  | .cbacqWr f => Sys2Proof.Machine.execCbacqWr f s
  | .cbrelRd f => Sys2Proof.Machine.execCbrelRd f s
  | .cbrelWr f => Sys2Proof.Machine.execCbrelWr f s
  | .gather f => Sys2Proof.Machine.execGather f s
  | .evset f => Sys2Proof.Machine.execEvset f s
  | .evclr f => Sys2Proof.Machine.execEvclr f s
  | .evwaitAny f => Sys2Proof.Machine.execEvwaitAny f s
  | .evwaitAll f => Sys2Proof.Machine.execEvwaitAll f s
  | .mpost f => Sys2Proof.Machine.execMpost f s
  | .mrecv f => Sys2Proof.Machine.execMrecv f s
  | .mrecvTest f => Sys2Proof.Machine.execMrecvTest f s
  | .waitt f => Sys2Proof.Machine.execWaitt f s
  | .waittAbs f => Sys2Proof.Machine.execWaittAbs f s
  | .tqput f => Sys2Proof.Machine.execTqput f s
  | .hodq f => Sys2Proof.Machine.execHodq f s
  | .hodr f => Sys2Proof.Machine.execHodr f s
  | .hodrTest f => Sys2Proof.Machine.execHodrTest f s
  | .cellDef f => Sys2Proof.Machine.execCellDef f s
  | .cellBind f => Sys2Proof.Machine.execCellBind f s
  | .cellPut f => Sys2Proof.Machine.execCellPut f s
  | .cellGet f => Sys2Proof.Machine.execCellGet f s
  | .cellCommit f => Sys2Proof.Machine.execCellCommit f s
  | .cellState f => Sys2Proof.Machine.execCellState f s
  | .cellStateFlip f => Sys2Proof.Machine.execCellStateFlip f s
  | .cellStateAbort f => Sys2Proof.Machine.execCellStateAbort f s
  | .cellDrop f => Sys2Proof.Machine.execCellDrop f s
  | .registerWrite => Sys2Proof.Machine.execRegisterWrite s
  | .queueDoorbell => Sys2Proof.Machine.execQueueDoorbell s
  | .queueEnable => Sys2Proof.Machine.execQueueEnable s
  | .dispatch => Sys2Proof.Machine.execDispatch s
  | .cmoRangeClean => Sys2Proof.Machine.execCmoRangeClean s
  | .cmoRangeInval => Sys2Proof.Machine.execCmoRangeInval s
  | .cmoRangeFlush => Sys2Proof.Machine.execCmoRangeFlush s
  | .cmoRangeAttr => Sys2Proof.Machine.execCmoRangeAttr s
  | .eventSet => Sys2Proof.Machine.execEventSet s
  | .eventWait => Sys2Proof.Machine.execEventWait s
  | .indirect => Sys2Proof.Machine.execIndirect s
  | .timestamp => Sys2Proof.Machine.execTimestamp s
  | .cellWave => Sys2Proof.Machine.execCellWave s
  | .power => Sys2Proof.Machine.execPower s
  | .launchPlacement => Sys2Proof.Machine.execLaunchPlacement s
  | .startTimeReached => Sys2Proof.Machine.execStartTimeReached s
  | .gangEnd => Sys2Proof.Machine.execGangEnd s
  | .preemptionRequest => Sys2Proof.Machine.execPreemptionRequest s
  | .drainExpiry => Sys2Proof.Machine.execDrainExpiry s
  | .saveComplete => Sys2Proof.Machine.execSaveComplete s
  | .gangRestore => Sys2Proof.Machine.execGangRestore s
  | .longWaitSwap => Sys2Proof.Machine.execLongWaitSwap s
  | .resumeIntervalExpiry => Sys2Proof.Machine.execResumeIntervalExpiry s
  | .swapWake => Sys2Proof.Machine.execSwapWake s
  | .btoExpiry => Sys2Proof.Machine.execBtoExpiry s
  | .barrierCompletion => Sys2Proof.Machine.execBarrierCompletion s
  | .joinCompletion => Sys2Proof.Machine.execJoinCompletion s
  | .sequencerStep => Sys2Proof.Machine.execSequencerStep s
  | .streamConditionReport => Sys2Proof.Machine.execStreamConditionReport s
  | .memoryReply => Sys2Proof.Machine.execMemoryReply s
  | .channelArrival => Sys2Proof.Machine.execChannelArrival s
  | .xmuxCapture => Sys2Proof.Machine.execXmuxCapture s
  | .xcollideSense => Sys2Proof.Machine.execXcollideSense s
  | .holdRaise => Sys2Proof.Machine.execHoldRaise s
  | .holdRelease => Sys2Proof.Machine.execHoldRelease s
  | .throttleChange => Sys2Proof.Machine.execThrottleChange s
  | .throttleLimitExpiry => Sys2Proof.Machine.execThrottleLimitExpiry s
  | .copyLanding => Sys2Proof.Machine.execCopyLanding s
  | .copyComplete => Sys2Proof.Machine.execCopyComplete s
  | .copyFault => Sys2Proof.Machine.execCopyFault s
  | .combinePacketArrival => Sys2Proof.Machine.execCombinePacketArrival s
  | .combineEntryTimeout => Sys2Proof.Machine.execCombineEntryTimeout s
  | .gatherReply => Sys2Proof.Machine.execGatherReply s
  | .taskDispatch => Sys2Proof.Machine.execTaskDispatch s
  | .footprintComplete => Sys2Proof.Machine.execFootprintComplete s
  | .pintoExpiry => Sys2Proof.Machine.execPintoExpiry s
  | .pageGroupResponse => Sys2Proof.Machine.execPageGroupResponse s
  | .atsInvalidationRequest => Sys2Proof.Machine.execAtsInvalidationRequest s
  | .translationCompletion => Sys2Proof.Machine.execTranslationCompletion s
  | .shootdownDrop => Sys2Proof.Machine.execShootdownDrop s
  | .shootdownUnmap => Sys2Proof.Machine.execShootdownUnmap s
  | .shootdownMove => Sys2Proof.Machine.execShootdownMove s
  | .migrationTrigger => Sys2Proof.Machine.execMigrationTrigger s
  | .settledExpiry => Sys2Proof.Machine.execSettledExpiry s
  | .helperReturnMessage => Sys2Proof.Machine.execHelperReturnMessage s
  | .directoryRequest => Sys2Proof.Machine.execDirectoryRequest s
  | .directoryMerge => Sys2Proof.Machine.execDirectoryMerge s
  | .arrayWake => Sys2Proof.Machine.execArrayWake s
  | .hostAccess => Sys2Proof.Machine.execHostAccess s
  | .eventDelivery => Sys2Proof.Machine.execEventDelivery s
  | .messageDelivery => Sys2Proof.Machine.execMessageDelivery s
  | .handlerStart => Sys2Proof.Machine.execHandlerStart s
  | .tretActionArrival => Sys2Proof.Machine.execTretActionArrival s
  | .monitorWake => Sys2Proof.Machine.execMonitorWake s
  | .syscReply => Sys2Proof.Machine.execSyscReply s
  | .waittExpiry => Sys2Proof.Machine.execWaittExpiry s
  | .formulaTaskPlacement => Sys2Proof.Machine.execFormulaTaskPlacement s
  | .formulaTaskEnd => Sys2Proof.Machine.execFormulaTaskEnd s
  | .waveFlip => Sys2Proof.Machine.execWaveFlip s
  | .waveAbort => Sys2Proof.Machine.execWaveAbort s
  | .signatureCheck => Sys2Proof.Machine.execSignatureCheck s
  | .rollback => Sys2Proof.Machine.execRollback s
  | .inFieldTest => Sys2Proof.Machine.execInFieldTest s
  | .fatalError => Sys2Proof.Machine.execFatalError s
  | .watchdogTakeover => Sys2Proof.Machine.execWatchdogTakeover s
  | .liveUpdate => Sys2Proof.Machine.execLiveUpdate s
  | .powerStateWrite => Sys2Proof.Machine.execPowerStateWrite s
  | .capWindow => Sys2Proof.Machine.execCapWindow s
  | .thermalTrip => Sys2Proof.Machine.execThermalTrip s
  | .energySample => Sys2Proof.Machine.execEnergySample s
  | .energyCheckpoint => Sys2Proof.Machine.execEnergyCheckpoint s
  | .signedReading => Sys2Proof.Machine.execSignedReading s
  | .attestationReport => Sys2Proof.Machine.execAttestationReport s
  | .partitionOwnerWrite => Sys2Proof.Machine.execPartitionOwnerWrite s
  | .partitionClusterWrite => Sys2Proof.Machine.execPartitionClusterWrite s
  | .deviceReset => Sys2Proof.Machine.execDeviceReset s
  | .fetchFault => Sys2Proof.Machine.execFetchFault s
  | .failedSubChannelMark => Sys2Proof.Machine.execFailedSubChannelMark s
  | .tbaseDiscipline => Sys2Proof.Machine.execTbaseDiscipline s

end Sys2Proof.Machine
end

