-- ==== Sys2Proof/Machine/Turns.lean ====
section
/-! DEFINITION. The clock, and who acts next (log 1): the turns of the agenda in order and, when it is empty, one round of
everything that is due in the next clock. -/

namespace Sys2Proof.Machine

/-- The turn of an event: its arguments (log 1). -/
def State.withArgs (s : State) (args : EventArgs) : State := { s with cur := { s.cur with args := args } }

/-- The fetching core of a core's stream waits, or waited in this clock, for a barrier too. -/
def State.sharesBarrier (s : State) (core : Nat) : Bool :=
  match s.leader core with
  | none => true
  | some l => (s.core l).conds.any (fun k => decide (k.key = .barrier))

/-- A clock of HOLD moves what a control context has still to rest (R242). -/
def Core.delayIssue (c : Core) (clk : Nat) : Core :=
  c.modCtx 0 (fun x => { x with notBefore := if clk < x.notBefore then x.notBefore + 1 else x.notBefore })

/-- One clock: CYCLE and TBASE advance; a trip stops the arithmetic clock but not TBASE (R26, R380). What the clock that
ends has brought is noted: conditions met (R208), bridge drivings of ended gangs that have passed every tap (R237). -/
def State.tick (s : State) : State :=
  let mhz := s.service.mhz
  let dt := (s.clk + 1) * 65536000 / mhz - s.clk * 65536000 / mhz
  { s with clk := if s.service.stopped then s.clk else s.clk + 1, tbase := s.tbase + BitVec.ofNat 64 dt
           cores := s.cores.map (fun e => (e.1, (if s.isPaused e.1 then e.2.delayIssue s.clk else e.2).stampConds s.clk
             (s.sharesBarrier e.1)))
           orphans := s.orphans.filter (fun o => s.abroad o.1 o.2.1 o.2.2) }

/-- Events of the host and of the service tile, which go on while a trip has stopped the arithmetic clock (R380). -/
def isService : Instr → Bool
  | .registerWrite | .queueDoorbell | .queueEnable | .powerStateWrite | .liveUpdate | .energySample | .energyCheckpoint
  | .signedReading | .attestationReport | .watchdogTakeover | .fatalError | .thermalTrip | .tbaseDiscipline
  | .partitionOwnerWrite | .partitionClusterWrite | .deviceReset => true
  | _ => false

/-- An event can happen: after a fatal error nothing but a reset, during a trip only what the service tile does (R371,
R380). -/
def State.admits (s : State) (i : Instr) : Bool :=
  if s.service.fatal then decide (i = .deviceReset) else !s.service.stopped || isService i

/-! One round of what is due (log 1). -/

/-- A turn when a condition holds. -/
def dueIf (b : Bool) (i : Instr) (a : EventArgs) : List Turn := if b then [.event i a] else []

/-- The event of the packet at the head of a queue. -/
def State.packetTurn (s : State) (n : Nat) (q : Queue) : List Turn :=
  if !q.active then []
  else
    let i := match s.cmdRead q.part.toNat q.headIa 64 with
      | .error _ => Instr.dispatch
      | .ok x => match x % 256 with
        | 2 => match x / 2 ^ 16 % 16 with
          | 0 => .cmoRangeClean
          | 1 => .cmoRangeInval
          | 2 => .cmoRangeFlush
          | _ => .cmoRangeAttr
        | 3 => .eventSet
        | 4 => .eventWait
        | 5 => .indirect
        | 6 => .timestamp
        | 7 => .cellWave
        | 8 => .power
        | _ => .dispatch
    [.event i { index := n }]

/-- What is due in a context. -/
def State.contextTurns (s : State) (core : Nat) (c : Core) (x : Fin 12) : List Turn :=
  let k := c.ctx x.val
  let a : EventArgs := { core := core, ctx := x }
  dueIf (x.val == 0 && (c.seq.joining || k.afterGissue || s.heldTooLong core || k.wait.any (fun w => decide (s.clk - w.since > w.limit))))
    .btoExpiry a ++
  match k.wait with
    | none => []
    | some w => match w.kind with
      | .waittRel => dueIf true .waittExpiry a
      | .waittAbs _ => dueIf true .waittExpiry a
      | .monitor => dueIf true .monitorWake { a with index := 1 } ++ dueIf true .monitorWake { a with index := 2 }
      | .sysc => dueIf true .syscReply { a with gid := c.gid }
      | _ => []

/-- What lands in a copy of a core, and its fault, which follows the landing before it and precedes a CPYC (R230). -/
def landingTurns (core : Nat) (e : Copy × Nat) : List Turn :=
  let a : EventArgs := { core := core, index := e.2, count := 64 }
  dueIf (e.1.state == .running) .copyLanding a ++ dueIf (e.1.state == .running) .copyFault a

/-- A record that a copy of a core owes. -/
def copyTurns (core : Nat) (e : Copy × Nat) : List Turn :=
  dueIf (!e.1.owed.isEmpty) .copyComplete { core := core, index := e.2 }

/-- What reaches a core before its contexts issue: landings, replies, reports of conditions. -/
def arrivalTurns (core : Nat) (c : Core) : List Turn :=
  let a : EventArgs := { core := core }
  c.entries.zipIdx.flatMap (landingTurns core) ++
  (List.finRange 12).flatMap (fun x => (c.ctx x.val).replies.flatMap (fun _ => dueIf true .memoryReply { a with ctx := x })) ++
  dueIf (!c.conds.isEmpty) .streamConditionReport a

/-- What completes in a core before its contexts issue: a sequencer step, which TSTAT then counts (R161), and barriers,
so that a write of that clock belongs to the new superstep (R374). -/
def completionTurns (core : Nat) (c : Core) : List Turn :=
  let a : EventArgs := { core := core }
  dueIf c.seq.busy .sequencerStep a ++
  (List.range 6).flatMap (fun i => dueIf (c.bars.getD i {}).pending .barrierCompletion { a with index := i + 1 })

/-- The waits of a core that have exceeded WAITTH, noted before anything ends them in that clock (R283). -/
def State.swapTurns (s : State) (core : Nat) : List Turn :=
  (List.finRange 12).flatMap (fun x =>
    dueIf (s.overlong core x.val).isSome .longWaitSwap { core := core, ctx := x, index := 1 })

/-- What is due in a core after its contexts have issued, the captures at the end of the clock among it (R173). -/
def State.coreTurns (s : State) (core : Nat) (c : Core) : List Turn :=
  let a : EventArgs := { core := core }
  dueIf c.seq.joining .joinCompletion a ++
  (List.finRange 12).flatMap (s.contextTurns core c) ++ c.entries.zipIdx.flatMap (copyTurns core) ++
  dueIf (decide (c.checker.ended.length > if c.checker.closing then 1 else 0)) .signatureCheck a ++
  dueIf (!c.captures.isEmpty || c.phase == .openPhase) .xmuxCapture a ++
  (s.sensedWires core).flatMap (fun w => dueIf true .xcollideSense { a with index := w })

/-- The arrival of a neighbour value, which is there before the contexts issue (R114). -/
def Post.early : Post → Bool
  | .channel _ _ _ _ => true
  | _ => false

/-- The arrival of something on its way. -/
def postTurn : Post → Turn
  | .event core _ _ => .event .eventDelivery { core := core }
  | .message core _ => .event .messageDelivery { core := core }
  | .tret core ctx _ => .event .tretActionArrival { core := core, ctx := Fin.ofNat 12 ctx }
  | .helperReturn core ctx => .event .helperReturnMessage { core := core, ctx := Fin.ofNat 12 ctx }
  | .channel core side _ _ => .event .channelArrival { core := core, index := side }
  | .gather core _ _ _ _ _ => .event .gatherReply { core := core }

/-- What is due of a gang. -/
def State.gangTurns (s : State) (g : Gang) : List Turn :=
  let a : EventArgs := { gid := g.gid }
  dueIf (s.gangEnded g && g.formula.isNone) .gangEnd a ++ dueIf (s.gangEnded g && g.formula.isSome) .formulaTaskEnd a ++
  dueIf (!g.started) .startTimeReached a ++ dueIf g.drain.isSome .drainExpiry a ++
  dueIf (g.saveDone && g.state != .saved) .saveComplete a ++ dueIf g.supervisor.isSome .handlerStart a ++
  dueIf (!g.rollback.isEmpty) .rollback a ++ dueIf (g.state == .running) .throttleChange a ++
  dueIf g.throttle.isSome .throttleLimitExpiry a ++ dueIf (g.state == .running && (g.wake.isSome || (s.dueWake g).isSome)) .longWaitSwap { a with core := g.origin } ++
  dueIf (g.state == .saved) .swapWake a ++
  dueIf (g.state == .saved) .resumeIntervalExpiry a ++ dueIf (g.state == .saved && g.eligible) .gangRestore a

/-- What is due of a task. -/
def taskTurns (t : Task) : List Turn :=
  dueIf t.at_.isNone .taskDispatch { gid := t.gid, index := t.block } ++
  dueIf (t.at_.isSome && !t.started) .footprintComplete { index := t.number }

/-- The pins whose release a shootdown has waited for longer than PINTO (R332). -/
def State.pinTurns (s : State) : List Turn :=
  s.tasks.flatMap (fun t => t.pins.flatMap (fun k =>
    dueIf ((s.pinSince k.1 k.2).any (fun c => decide (c + (s.part k.1).pinto.toNat * Config.clkPerUs ≤ s.clk)))
      .pintoExpiry { part := k.1, addr := k.2 }))

/-- The pages of a partition whose accesses from a die have reached MTH, and those whose SETTLED ends (R337). -/
def State.pageTurns (s : State) (e : Partition × Nat) : List Turn :=
  e.1.stats.flatMap (fun k =>
    (List.range 4).flatMap (fun d =>
      dueIf (e.1.mth != 0 && k.2.settledUntil.isNone && decide (e.1.mth.toNat ≤ k.2.counts.getD d 0)) .migrationTrigger
        { part := e.2, addr := k.1, die := d }) ++
    dueIf (k.2.settledUntil.any (fun t => decide (t ≤ s.clk))) .settledExpiry { part := e.2, addr := k.1 })

/-- The lower halves of spans whose entries have been quiet for the interval (R319). -/
def State.mergeTurns (s : State) : List Turn :=
  s.dirs.flatMap (fun d => d.2.flatMap (fun e =>
    dueIf (decide (e.span < 16) && e.base % 2 ^ (e.span + 1) == 0 && decide (e.qt + s.service.quiet ≤ s.clk)) .directoryMerge
      { index := d.1, part := e.part, addr := e.base }))

/-- A formula task of a partition may be due. -/
def formulaTurns (e : Partition × Nat) : List Turn := dueIf (!e.1.waves.isEmpty) .formulaTaskPlacement { part := e.2 }

/-- The shootdowns of a partition. -/
def partTurns (e : Partition × Nat) : List Turn :=
  let a : EventArgs := { part := e.2 }
  dueIf (e.1.go && e.1.kind == 0) .shootdownDrop a ++ dueIf (e.1.go && e.1.kind == 1) .shootdownUnmap a ++
  dueIf (e.1.go && e.1.kind == 2) .shootdownMove a

/-- The packets at the heads of the queues. -/
def State.headTurns (s : State) : List Turn := s.queues.toList.zipIdx.flatMap (fun e => s.packetTurn e.2 e.1)

/-- A change of attributes, which an access of its clock precedes (R323). -/
def Turn.isAttr : Turn → Bool
  | .event .cmoRangeAttr _ => true
  | _ => false

/-- What is due of the queues: EVENT.SET packets that clear go before those that set (R276); CELL.WAVE packets and changes of
attributes stand elsewhere (R304, R323). -/
def State.queueTurns (s : State) : List Turn :=
  let turns := s.headTurns.filter (fun t => !t.isAttr)
  let clears : Turn → Bool
    | .event .eventSet a => match s.cmdRead (s.queue a.index).part.toNat (s.queue a.index).headIa 64 with
      | .ok x => x.testBit 16
      | .error _ => false
    | _ => false
  let waves : Turn → Bool
    | .event .cellWave _ => true
    | _ => false
  let sets : Turn → Bool
    | .event .eventSet _ => true
    | _ => false
  turns.filter clears ++ turns.filter (fun t => sets t && !clears t) ++ turns.filter (fun t => !sets t && !waves t)

/-- CELL.WAVE packets, and the flips and aborts that follow the cell instructions of a clock (R304). -/
def State.waveTurns (s : State) : List Turn :=
  s.headTurns.filter (fun t => match t with
    | .event .cellWave _ => true
    | _ => false) ++
  s.parts.toList.zipIdx.flatMap (fun e =>
    dueIf (!e.1.waves.isEmpty) .waveAbort { part := e.2 } ++ dueIf (!e.1.waves.isEmpty) .waveFlip { part := e.2 })

/-- What is due outside the cores after the contexts have issued; changes of attributes and of translations come after the
accesses of their clock (R323, R338). -/
def State.packageTurns (s : State) : List Turn :=
  s.combiners.flatMap (fun e => (List.range e.2.length).reverse.flatMap (fun i =>
    dueIf (e.1 < 256) .combineEntryTimeout { index := e.1, count := i })) ++
  (List.range s.packets.length).flatMap (fun i => dueIf true .combinePacketArrival { index := i }) ++
  s.tasks.flatMap taskTurns ++ s.queueTurns ++ s.gangs.flatMap s.gangTurns ++ dueIf (!s.completions.isEmpty) .gangEnd {} ++
  s.parts.toList.zipIdx.flatMap formulaTurns ++
  dueIf (s.placement.isSome || s.queues.toList.any (fun q => !q.pending.isEmpty)) .launchPlacement {} ++
  s.headTurns.filter Turn.isAttr ++ s.parts.toList.zipIdx.flatMap partTurns ++ s.pinTurns ++ s.parts.toList.zipIdx.flatMap s.pageTurns ++ s.mergeTurns ++
  dueIf s.service.go .liveUpdate {} ++ dueIf s.service.ereq .signedReading {} ++ dueIf s.service.ereq .attestationReport {}

/-! Issue turns. -/

/-- The contexts of a core in the order in which they act in one clock (R25, R141, R188). -/
def issueOrder : List (Fin 12) := [0, 11, 1, 2, 3, 4, 5, 6, 7, 8, 9, 10]

/-- The instruction that a context issues next. -/
def State.nextInstr (s : State) (core ctx : Nat) : Option Instr :=
  let x := (s.core core).ctx ctx
  match (if ctx = 0 then s.leader core else none) with
  | some l => ((s.core l).stream[(s.core core).spos]?).map (·.instr)
  | none => match s.fetch core ctx x.pc x.entryCheck with
    | .ok i _ _ _ _ => some i
    | _ => none

/-- The place of an instruction before the others of its clock: a write of FPFLAGS, which clears no flag that is raised
in that clock (R25), then the cell instructions in the order of acceptance (R304). -/
def issueRank : Instr → Option Nat
  | .mtc f => if f.imm = 0x041 then some 0 else none
  | .cellDef _ => some 1
  | .cellPut _ => some 2
  | .cellBind _ => some 3
  | .cellDrop _ => some 4
  | .cellCommit _ => some 5
  | _ => none

/-- The live contexts, which may issue, and the place of their next instruction before the others. -/
def State.issuers (s : State) : List (Turn × Option Nat) :=
  s.cores.flatMap (fun e => (issueOrder.filter (fun x => (e.2.ctx x.val).live)).map (fun x =>
    (.issue e.1 x, (s.nextInstr e.1 x.val).bind issueRank)))

/-- A round (log 1): the waits that have become too long, what arrives, writes of FPFLAGS, what completes in the cores, the cell instructions in the order of
their acceptance with the waves that follow them (R304), every other context that may issue, what reaches a core after its
issue (R25, R188), and the rest. -/
def State.round (s : State) : List Turn :=
  let issuers := s.issuers
  let ranked (n : Nat) : List Turn := (issuers.filter (fun t => t.2 == some n)).map (·.1)
  s.cores.flatMap (fun e => s.swapTurns e.1) ++ (s.posts.filter Post.early).map postTurn ++
  s.cores.flatMap (fun e => arrivalTurns e.1 e.2) ++ ranked 0 ++
  s.cores.flatMap (fun e => completionTurns e.1 e.2) ++ [1, 2, 3, 4, 5].flatMap ranked ++ s.waveTurns ++
  (issuers.filter (fun t => t.2.isNone)).map (·.1) ++
  (s.posts.filter (fun p => !p.early)).map postTurn ++ s.cores.flatMap (fun e => s.coreTurns e.1 e.2) ++ s.packageTurns

/-- Takes the next turn: the head of the agenda; when it is empty a clock passes and a round is entered in it. -/
def State.takeTurn (s : State) : Turn × State :=
  match s.agenda with
  | t :: ts => (t, { s with agenda := ts })
  | [] => (.clock, { s with agenda := s.tick.round })

end Sys2Proof.Machine
end

