-- ==== Sys2Proof/Machine/Step.lean ====
section
/-! DEFINITION. One step of the machine: the next turn of log 1 is taken; and how an instruction is placed where the
next step fetches it (log 3). -/

namespace Sys2Proof.Machine

/-- One step. -/
def step (s : State) : Host.Outcome State Fault Refusal :=
  match s.takeTurn.1 with
  | .clock => .next s.takeTurn.2.tick
  | .event i args =>
    if (encode i).isSome || !s.admits i then .next s.takeTurn.2 else exec i (s.takeTurn.2.withArgs args)
  | .issue core ctx =>
    match s.takeTurn.2.prepare core ctx with
    | .idle t => .next t
    | .raised i t u => .next (if u.deferred t then s.takeTurn.2 else u.finish t i)
    | .run i t =>
      match exec i t with
      | .next u => .next (if u.deferred t then s.takeTurn.2 else u.finish t i)
      | .fault f => .fault f
      | .refused r => .refused r

/-! Placing an instruction (log 3). -/

/-- The fetch line whose slot 0 is a word and whose other bits are zero but for the parity bit (Table 3-1, R50). -/
def lineWith (w : IWord) : BitVec 512 :=
  let line : BitVec 32 := (BitVec.ofBool (oddOnes w)).zeroExtend 32 <<< 27
  line ++ 0#384 ++ w

/-- The gang of one core that runs a placed instruction (log 3). -/
def loadedGang : Gang :=
  { gid := 1, part := 0, launch := none, state := .running, w := 1, h := 1, die := 0, cores := [0], clusters := [0],
    order := 0, born := 0, supervisor := none, plan := [], fate := none, rollback := [], drivings := [], holders := [],
    holds := [], pastHolds := [], mhz := 1050, throttle := none, barrierAt := 0, wideAt := 0, drain := none, started := true, stopping := false,
    tag := 0, era := 0, held := [], saves := [], slots := [], saveDone := false,
    wake := none, eligible := false, swappedAt := 0, savedTbase := 0, formula := none }

/-- The core that runs it: its control context live at line 0 of window 0, which grants R, W and X of 64 KiB. -/
def loadedCore : Core :=
  { Core.reset with
    placed := true, gid := 1
    vwl := Core.reset.vwl.setIfInBounds 0 0x110
    vwi := Core.reset.vwi.setIfInBounds 0 7
    ctxs := Core.reset.ctxs.setIfInBounds 0 { Context.reset with live := true } }

/-- The page table of partition 0: tables at 0x1000 to 0x4000 and one leaf of 4 KiB at 0x8000 (COH UC, GRAN line,
P, R, W, X). -/
def loadedTables : List (Nat × Nat) :=
  [(0x1000, 0x2001), (0x2000, 0x3001), (0x3000, 0x4001), (0x4000, 0x5001), (0x5000, 0x809F)]

/-- A state with an instruction stored where the next step fetches its instruction, in a machine with one gang placed
as a launch places it (log 3). -/
def State.withFetchWord (s : State) (nbits w : Nat) : State :=
  let mem := loadedTables.foldl (fun m e => Memory.writeBytes m e.1 (bytesOfNat 8 e.2)) s.mem
  let line := lineWith (BitVec.ofNat 96 (w % 2 ^ nbits))
  let part := { s.part 0 with owner := 1, st := 1, clu := (s.part 0).clu.setIfInBounds 0 1, ptbr := 0x1000 }
  { s with
    mem := Memory.writeBytes mem 0x8000 (bytesOfNat 64 line.toNat)
    parts := s.parts.setIfInBounds 0 part
    gangs := [loadedGang]
    cores := [(0, loadedCore)]
    agenda := [.issue 0 0]
    cur := { core := 0, ctx := 0, forwarded := none, args := {} } }

end Sys2Proof.Machine
end

