-- ==== Sys2Proof/Safety.lean ====
section
/-! DEFINITION. What counts as a safe run: the memory keeps its canonical form, and no step stops; and what the statements
say that an instruction leaves as it was. -/

namespace Sys2Proof.Machine

/-- The state is well kept: its memory is in the canonical form. -/
def State.Kept (s : State) : Prop := s.mem.wf = true

/-- A step does not stop. -/
def Completes (s : State) : Prop := ∃ t, step s = .next t

/-- An instruction completes: it answers a next state, of which a property holds. -/
def Runs (i : Instr) (s : State) (p : State → Prop) : Prop := ∃ t, exec i s = .next t ∧ p t

/-! Frames: what a step from `s` to `t` leaves as it was. -/

/-- Every byte of memory reads as before, nothing outside the cores changes, and no core does but the one whose turn it
is. -/
structure OnlyMe (s t : State) : Prop where
  memory : ∀ a, t.mem.read a = s.mem.read a
  machine : { t with cores := s.cores } = s
  cores : ∀ n, n ≠ s.cur.core → t.core n = s.core n

/-- Of that core, no context changes but the one whose turn it is. -/
def OnlyMyContext (s t : State) : Prop := ∀ x, x ≠ s.cur.ctx.val → t.me.ctx x = s.me.ctx x

/-- Of that core, nothing outside its contexts changes: no k, v or t register, no special register, no exception
register. -/
def SameCore (s t : State) : Prop := { t.me with ctxs := s.me.ctxs } = s.me

/-- The instruction has retired: its context goes on at a PC, waits for nothing, and nothing else of it changes but its
s, a and p registers. -/
structure GoesOn (s t : State) (pc : Word) : Prop where
  pc : t.my.pc = pc
  wait : t.my.wait = none
  rest : { t.my with s := s.my.s, a := s.my.a, p := s.my.p, pc := s.my.pc, wait := s.my.wait, issued := s.my.issued,
                     afterGissue := s.my.afterGissue } = s.my

/-- As `GoesOn`, and the context issues nothing for `n` clocks (Table 4-8). -/
structure Rests (s t : State) (n : Nat) : Prop where
  pc : t.my.pc = nextPc s.my.pc
  wait : t.my.wait = none
  before : t.my.notBefore = s.clk + n
  rest : { t.my with s := s.my.s, a := s.my.a, p := s.my.p, pc := s.my.pc, wait := s.my.wait, issued := s.my.issued,
                     afterGissue := s.my.afterGissue, notBefore := s.my.notBefore } = s.my

/-- No s or a register of the context changes. -/
def SameSA (s t : State) : Prop := ∀ r, t.sa r = s.sa r

/-- No p register of the context changes. -/
def SameP (s t : State) : Prop := ∀ n, n < 8 → t.my.pred n = s.my.pred n

/-- Of the registers of the context, the s or a register `d` alone takes a value; a write to s0 is discarded (R17). -/
structure SetsSA (s t : State) (d : BitVec 8) (v : Word) : Prop where
  value : okSA d = true → d ≠ 0 → t.sa d = v
  others : ∀ r, r ≠ d ∨ d = 0 → t.sa r = s.sa r
  preds : SameP s t

/-- The whole effect of an instruction that writes one s or a register: it, and the PC. -/
structure WritesSA (s t : State) (d : BitVec 8) (v : Word) : Prop where
  outside : OnlyMe s t
  contexts : OnlyMyContext s t
  core : SameCore s t
  goes : GoesOn s t (nextPc s.my.pc)
  sets : SetsSA s t d v

/-- The whole effect of an instruction that writes one p register; a write to p0, number 48, is discarded (R17). -/
structure WritesP (s t : State) (d : BitVec 8) (b : Bool) : Prop where
  outside : OnlyMe s t
  contexts : OnlyMyContext s t
  core : SameCore s t
  goes : GoesOn s t (nextPc s.my.pc)
  value : okP d = true → d ≠ 48 → t.preg d = b
  others : ∀ n, n < 8 → n ≠ d.toNat - 48 ∨ d = 48 → t.my.pred n = s.my.pred n
  sa : SameSA s t

/-- The whole effect of an instruction that only goes on: the PC alone. -/
structure Advances (s t : State) : Prop where
  outside : OnlyMe s t
  contexts : OnlyMyContext s t
  core : SameCore s t
  goes : GoesOn s t (nextPc s.my.pc)
  sa : SameSA s t
  preds : SameP s t

/-- The whole effect of a taken transfer of control that the core itself decides: the PC goes to the target, whose fetch
is to be checked (R55), and one register may take a value. -/
structure Transfers (s t : State) (pc : Word) (d : BitVec 8) (v : Word) : Prop where
  outside : OnlyMe s t
  contexts : OnlyMyContext s t
  core : SameCore s t
  pc : t.my.pc = pc
  wait : t.my.wait = none
  entry : t.my.entryCheck = true
  rest : { t.my with s := s.my.s, a := s.my.a, p := s.my.p, pc := s.my.pc, wait := s.my.wait, issued := s.my.issued,
                     afterGissue := s.my.afterGissue, entryCheck := s.my.entryCheck } = s.my
  sets : SetsSA s t d v

/-- A follower goes where the stream goes, and one register may take a value (R83). -/
structure Follows (s t : State) (pc : Word) (d : BitVec 8) (v : Word) : Prop where
  outside : OnlyMe s t
  contexts : OnlyMyContext s t
  core : SameCore s t
  goes : GoesOn s t pc
  sets : SetsSA s t d v

/-- The fields of a precise fault's record (Table 24-1): the bits that the table leaves zero are zero, FATAL apart. -/
structure PreciseRecord (r : FaultRecord) (part_ : BitVec 4) (ctx_ : Nat) (vx_ : BitVec 6) (vy_ : BitVec 5)
    (cls_ : FaultClass) (code_ : BitVec 16) (operand_ pc_ : Word) : Prop where
  code : r.w0.extractLsb' 0 16 = code_
  cls : r.w0.extractLsb' 16 8 = BitVec.ofNat 8 cls_.number
  vx : r.w0.extractLsb' 32 6 = vx_
  vy : r.w0.extractLsb' 40 5 = vy_
  ctx : r.w0.extractLsb' 48 4 = BitVec.ofNat 4 ctx_
  part : r.w0.extractLsb' 56 4 = part_
  zero : r.w0 &&& 0x70F0E0C0FF000000 = 0
  pc : r.w1 = pc_
  operand : r.w2 = operand_
  dpc : r.w3 = 0#1 ++ 0x7FFF#15 ++ pc_.extractLsb' 0 48

/-- The record of a fault reaches its destination (R357, R90): the mailbox of the supervisor core of a supervised gang
that computes no formula, else firmware, which ends the gang if there is one. Of a gang that is saved no core runs. -/
structure Delivered (s t : State) (r : FaultRecord) : Prop where
  supervised : ∀ g sup, s.gang? s.me.gid = some g → g.supervisor = some sup → g.formula = none →
    g.saveDone = false →
    t.posts = s.posts ++ [.message sup { kind := 1, ctx := s.cur.ctx.val, vx := s.me.vx, vy := s.me.vy, data := r.bytes }] ∧
    t.gangs = s.gangs ∧ t.notices = s.notices ∧ r.w0.getLsbD 63 = false
  ending : ∀ g, s.gang? s.me.gid = some g → g.supervisor = none ∨ g.formula.isSome → t.posts = s.posts ∧
    t.gangs = s.gangs.map (fun g => if g.gid == s.me.gid then { g with fate := g.fate.or (some 1) } else g) ∧
    t.notices = .record r :: s.notices ∧ r.w0.getLsbD 63 = true
  gangless : s.gang? s.me.gid = none →
    t.posts = s.posts ∧ t.gangs = s.gangs ∧ t.notices = .record r :: s.notices ∧ r.w0.getLsbD 63 = false
  kept : t.records = (r :: s.records).take 4096

/-- FLTREC0 to FLTREC3 hold a record: that of the context whose turn it is, or, of faults in one clock, that of the last in
the order control, hod, h1 to h10 (R25). -/
structure Recorded (s t : State) (r : FaultRecord) : Prop where
  newest : s.me.fltAt.1 ≠ s.clk ∨ s.me.fltAt.2 ≤ faultRank s.cur.ctx.val →
    t.me.fltrec = r ∧ t.me.fltAt = (s.clk, faultRank s.cur.ctx.val)
  older : s.me.fltAt.1 = s.clk → faultRank s.cur.ctx.val < s.me.fltAt.2 →
    t.me.fltrec = s.me.fltrec ∧ t.me.fltAt = s.me.fltAt

/-- A precise fault at a PC (R354 to R357): its record is written and delivered, the context stops there, a signature block
that its instruction would have ended has not ended (R368), and nothing else changes. -/
structure Faulted (s t : State) (cls : FaultClass) (code : BitVec 16) (operand pc : Word) : Prop where
  record : ∃ r, PreciseRecord r s.me.part s.cur.ctx.val s.me.vx s.me.vy cls code operand pc ∧ Recorded s t r ∧
    Delivered s t r
  stop : ∃ st, t.my.stop = some st ∧ st.cls = cls ∧ st.pc = pc
  wait : t.my.wait = none
  pc : t.my.pc = pc
  sa : SameSA s t
  preds : SameP s t
  contexts : OnlyMyContext s t
  checker : t.me.checker = if s.cur.ctx.val = 0 then s.me.checker.reopen else s.me.checker
  core : { t.me with ctxs := s.me.ctxs, fltrec := s.me.fltrec, fltAt := s.me.fltAt, parked := s.me.parked,
                     checker := s.me.checker } = s.me
  memory : ∀ a, t.mem.read a = s.mem.read a
  cores : ∀ n, n ≠ s.cur.core → t.core n = s.core n
  machine : { t with cores := s.cores, records := s.records, notices := s.notices, gangs := s.gangs, posts := s.posts } = s

/-- Every byte of memory reads as before, but those at the locations named. -/
def MemoryBut (s t : State) (p : Nat → Prop) : Prop := ∀ a, ¬ p a → t.mem.read a = s.mem.read a

/-- The locations of word 0 of a core's undo log, where NR and WHY stand (Table 24-6); written only under resilience. -/
def UndoWord (s : State) (core a : Nat) : Prop :=
  (s.core core).resil = true ∧ Config.spLoc core 0x1C000 ≤ a ∧ a < Config.spLoc core 0x1C000 + 8

/-! Vector and mask registers. -/

/-- Of the core, nothing but the contexts, the v registers and the flags changes; a flag that an active lane raises stays
set (R34). -/
structure SameButLanes (s t : State) (raised : Nat → FpFlags) : Prop where
  core : { t.me with ctxs := s.me.ctxs, v := s.me.v, fpflags := s.me.fpflags } = s.me
  flags : ∀ n, t.me.fpflags.getLsbD n =
    (s.me.fpflags.getLsbD n || (List.range 64).any (fun i => s.active i && (raised i).getLsbD n))

/-- The whole effect of a vector instruction that writes the lanes that `on` selects of one v register (R97). -/
structure WritesLanes (s t : State) (d : BitVec 8) (on : Nat → Bool) (val : Nat → Lane) (raised : Nat → FpFlags) : Prop where
  outside : OnlyMe s t
  contexts : OnlyMyContext s t
  goes : GoesOn s t (nextPc s.my.pc)
  sa : SameSA s t
  preds : SameP s t
  core : SameButLanes s t raised
  lanes : okV d = true → ∀ i, i < 64 → (t.vreg d).getD i 0 = if on i then val i else (s.vreg d).getD i 0
  others : ∀ r, okV r = true → r ≠ d → t.vreg r = s.vreg r

/-- The whole effect of an instruction that writes one k register, with the flags it raises. -/
structure WritesMask (s t : State) (d : BitVec 8) (bit : Nat → Bool) (raised : Nat → FpFlags) : Prop where
  outside : OnlyMe s t
  contexts : OnlyMyContext s t
  goes : GoesOn s t (nextPc s.my.pc)
  sa : SameSA s t
  preds : SameP s t
  core : { t.me with ctxs := s.me.ctxs, k := s.me.k, fpflags := s.me.fpflags } = s.me
  flags : ∀ n, t.me.fpflags.getLsbD n =
    (s.me.fpflags.getLsbD n || (List.range 64).any (fun i => s.active i && (raised i).getLsbD n))
  value : okK d = true → ∀ n, n < 64 → (t.kreg d).getLsbD n = bit n
  others : ∀ r, okK r = true → r ≠ d → t.kreg r = s.kreg r

/-- The whole effect of an instruction that writes one s or a register and raises flags. -/
structure WritesSAFlags (s t : State) (d : BitVec 8) (v : Word) (raised : FpFlags) : Prop where
  outside : OnlyMe s t
  contexts : OnlyMyContext s t
  goes : GoesOn s t (nextPc s.my.pc)
  sets : SetsSA s t d v
  core : { t.me with ctxs := s.me.ctxs, fpflags := s.me.fpflags } = s.me
  flags : t.me.fpflags = s.me.fpflags ||| raised

/-! Accesses. -/

/-- Of a core, nothing but its data cache changes. -/
def SameButLines (c d : Core) : Prop := { d with dcache := c.dcache } = c

/-- A result in a register, the other cores changing in their data caches alone: in a mode that is not arbitrated it is
written at once; otherwise the reply given is on its way (R208, log 8). -/
structure DeliversBy (reply : Reply) (s t : State) (am : BitVec 3) (reg : BitVec 8) (v : Word) : Prop where
  contexts : OnlyMyContext s t
  cores : ∀ n, n ≠ s.cur.core → SameButLines (s.core n) (t.core n)
  pc : t.my.pc = nextPc s.my.pc
  wait : t.my.wait = none
  preds : SameP s t
  vregs : t.me.v = s.me.v
  now : am = 1 → t.my.replies = s.my.replies ∧
    (okK reg = false → SetsSA s t reg v ∧ t.me.k = s.me.k) ∧
    (okK reg = true → SameSA s t ∧ t.kreg reg = v ∧ ∀ r, okK r = true → r ≠ reg → t.kreg r = s.kreg r)
  later : am ≠ 1 → t.my.replies = s.my.replies ++ [reply] ∧ SameSA s t ∧ t.me.k = s.me.k

/-- The result of a load: an instruction that names the register waits for its reply. -/
def Delivers (s t : State) (am : BitVec 3) (reg : BitVec 8) (v : Word) : Prop := DeliversBy (.word reg v) s t am reg v

/-- The result of an atomic: its context waits for its reply (R133). -/
def DeliversOld (s t : State) (am : BitVec 3) (reg : BitVec 8) (v : Word) : Prop := DeliversBy (.atomic reg v) s t am reg v

/-- The lanes that a vector load delivers, in the same two ways; modes 1 and 4 are not arbitrated. -/
structure DeliversLanes (s t : State) (am : BitVec 3) (reg : BitVec 8) (on : Nat → Bool) (val : Nat → Lane) : Prop where
  contexts : OnlyMyContext s t
  cores : ∀ n, n ≠ s.cur.core → SameButLines (s.core n) (t.core n)
  pc : t.my.pc = nextPc s.my.pc
  wait : t.my.wait = none
  sa : SameSA s t
  preds : SameP s t
  masks : t.me.k = s.me.k
  others : ∀ r, okV r = true → r ≠ reg → t.vreg r = s.vreg r
  now : am = 1 ∨ am = 4 → t.my.replies = s.my.replies ∧
    (okV reg = true → ∀ i, i < 64 → (t.vreg reg).getD i 0 = if on i then val i else (s.vreg reg).getD i 0)
  later : am ≠ 1 → am ≠ 4 → t.me.v = s.me.v ∧ ∃ mask v, t.my.replies = s.my.replies ++ [.lanes reg mask v] ∧
    ∀ i, i < 64 → mask.getLsbD i = on i ∧ (on i = true → v.getD i 0 = val i)

/-- What a store leaves as it was apart from memory and the caches: it has retired, and no register of any core changes. -/
structure StoreFrame (s t : State) : Prop where
  contexts : OnlyMyContext s t
  core : SameButLines s.me { t.me with ctxs := s.me.ctxs }
  cores : ∀ n, n ≠ s.cur.core → SameButLines (s.core n) (t.core n)
  goes : GoesOn s t (nextPc s.my.pc)
  sa : SameSA s t
  preds : SameP s t
  gangs : t.gangs = s.gangs
  posts : t.posts = s.posts

/-- Bytes written at places in order: a later one stands where two lie at one location (R127). -/
def writesAt (m : Memory) (ps : List Place) (data : List Byte) : Memory :=
  (ps.zip data).foldl (fun m e => m.write e.1.loc e.2) m

/-- No byte is in error in the L2 or in DRAM. -/
def Intact (s : State) : Prop := s.errs = [] ∧ s.bad = []

/-- Of what lies outside the cores, nothing changes but memory, the L2, what is known of errors in it, the evictions of the
clock, and the monitors. -/
def OnlyCaches (s t : State) : Prop :=
  { t with cores := s.cores, mem := s.mem, l2 := s.l2, errs := s.errs, bad := s.bad, corrections := s.corrections,
           monitors := s.monitors, evictions := s.evictions } = s

/-- A line of a core data cache can be read, and what it holds dirty the home has already. -/
def CacheLine.quiet (l : CacheLine) : Prop := (l.coh = 0 ∨ l.dirty = 0) ∧ l.bad = 0

/-- No access meets a page of coherence class SI or an undo log, no core data cache holds a dirty SI line, and no byte is
in error in the L2 or in DRAM; the core is one that the table of cores lists. What the caches hold else is free. -/
structure Plain (s : State) (ps : List Place) : Prop where
  si : ∀ p ∈ ps, p.si = false
  logs : ∀ n, (s.core n).resil = false
  clean : ∀ n, ∀ l ∈ (s.core n).dcache, l.quiet
  intact : Intact s
  listed : s.setCore s.cur.core s.me = s

end Sys2Proof.Machine
end

