-- ==== Sys2Proof/WellFormed.lean ====
section
/-! DEFINITION. Well-formed instructions: the field rules of the decoder, so that an instruction is well formed
exactly when some word decodes to it. -/

namespace Sys2Proof

/-- A well-formed encoded instruction: every field holds a value that its description admits (R17, R62, R71). -/
def Instr.wf (i : Instr) : Bool := legal i

end Sys2Proof
end

