-- ==== Sys2Proof/Certificates/Slice0/Obligations.lean ====
section
/-! DEFINITION. The statements about the machine, for the provers: each formalises rules of the spec, as its docstring says. -/

open Sys2Proof Sys2Proof.Machine

namespace Sys2Proof.Machine

/-- The instruction writes one value to one s or a register and goes on; the value has a property. -/
def Gives (i : Instr) (s : State) (d : BitVec 8) (p : Word → Prop) : Prop := ∃ v, p v ∧ Runs i s (WritesSA s · d v)

/-- As `Gives`, with the value's bits. -/
def GivesBits (i : Instr) (s : State) (d : BitVec 8) (bit : Nat → Bool) : Prop :=
  Gives i s d (fun v => ∀ n, n < 64 → v.getLsbD n = bit n)

/-- The exact result of R76 as it is stored: clamped under SAT to int64, or to nat64 under T1 = 7. -/
def stored76 (sat : BitVec 1) (t1 : BitVec 4) (e : Int) : Word :=
  if sat = 0 then BitVec.ofInt 64 e
  else if t1 = 3 then BitVec.ofInt 64 (if e < -2 ^ 63 then -2 ^ 63 else if e > 2 ^ 63 - 1 then 2 ^ 63 - 1 else e)
  else BitVec.ofInt 64 (if e < 0 then 0 else if e > 2 ^ 64 - 1 then 2 ^ 64 - 1 else e)

/-- An operand of R76: nat64 under T1 = 7, int64 otherwise. -/
def operand76 (t1 : BitVec 4) (w : Word) : Int := if t1 = 7 then w.toNat else w.toInt

end Sys2Proof.Machine

/-- R76: ADD, SUB, MUL and ADDI compute exactly, clamp under SAT and store the low 64 bits; nothing else changes. -/
def Obligations.SaturatingArithmeticFollowsR76 : Prop :=
  ∀ (s : State),
    (∀ f : FQ, s.guard f.g f.gn = true → okSat f.sat f.t1 = true →
      Gives (.add f) s f.d (· = stored76 f.sat f.t1 (operand76 f.t1 (s.sa f.a) + operand76 f.t1 (s.sa f.b))) ∧
      Gives (.sub f) s f.d (· = stored76 f.sat f.t1 (operand76 f.t1 (s.sa f.a) - operand76 f.t1 (s.sa f.b))) ∧
      Gives (.mul f) s f.d (· = stored76 f.sat f.t1 (operand76 f.t1 (s.sa f.a) * operand76 f.t1 (s.sa f.b)))) ∧
    (∀ f : FI, s.guard f.g f.gn = true → okSat (f.sh.extractLsb' 5 1) f.t1 = true →
      Gives (.addi f) s f.d (· = stored76 (f.sh.extractLsb' 5 1) f.t1 (operand76 f.t1 (s.sa f.a) + f.imm.toInt)))

/-- R77, R75: a division's quotient and remainder are those of truncation toward zero, or the values at a divisor of
zero; the high product completes the low one. -/
def Obligations.DivisionAndHighProductAreExact : Prop :=
  ∀ (f : FQ) (s : State), s.guard f.g f.gn = true →
    (∃ q r : Word, Runs (.div f) s (WritesSA s · f.d q) ∧ Runs (.rem f) s (WritesSA s · f.d r) ∧
      (s.sa f.b = 0 → q.toNat = 2 ^ 64 - 1 ∧ r = s.sa f.a) ∧
      (s.sa f.b ≠ 0 → ∃ qi ri : Int, (s.sa f.a).toInt = (s.sa f.b).toInt * qi + ri ∧
        ri.natAbs < (s.sa f.b).toInt.natAbs ∧ (ri = 0 ∨ (ri < 0 ↔ (s.sa f.a).toInt < 0)) ∧
        q = BitVec.ofInt 64 qi ∧ r = BitVec.ofInt 64 ri)) ∧
    (∃ q r : Word, Runs (.divu f) s (WritesSA s · f.d q) ∧ Runs (.remu f) s (WritesSA s · f.d r) ∧
      (s.sa f.b = 0 → q.toNat = 2 ^ 64 - 1 ∧ r = s.sa f.a) ∧
      (s.sa f.b ≠ 0 → (s.sa f.a).toNat = (s.sa f.b).toNat * q.toNat + r.toNat ∧ r.toNat < (s.sa f.b).toNat)) ∧
    Gives (.mulh f) s f.d (fun h => (s.sa f.a).toInt * (s.sa f.b).toInt = 2 ^ 64 * h.toInt + (s.sa f.a * s.sa f.b).toNat) ∧
    Gives (.mulhu f) s f.d (fun h => (s.sa f.a).toNat * (s.sa f.b).toNat = 2 ^ 64 * h.toNat + (s.sa f.a * s.sa f.b).toNat)

/-- R75, Table 4-2: logic, shifts and rotates, bit by bit; a count is taken modulo 64. -/
def Sys2Proof.Machine.LogicAndShiftsBitByBit : Prop :=
  ∀ (s : State),
    (∀ f : FQ, s.guard f.g f.gn = true →
      let a := fun n => (s.sa f.a).getLsbD n
      let b := fun n => (s.sa f.b).getLsbD n
      let c := (s.sa f.b).toNat % 64
      GivesBits (.and f) s f.d (fun n => a n && b n) ∧ GivesBits (.or f) s f.d (fun n => a n || b n) ∧
      GivesBits (.xor f) s f.d (fun n => a n != b n) ∧ GivesBits (.andn f) s f.d (fun n => a n && !b n) ∧
      GivesBits (.shl f) s f.d (fun n => decide (c ≤ n) && a (n - c)) ∧
      GivesBits (.shr f) s f.d (fun n => a (n + c)) ∧
      GivesBits (.sra f) s f.d (fun n => if n + c < 64 then a (n + c) else a 63) ∧
      GivesBits (.rol f) s f.d (fun n => a ((n + 64 - c) % 64))) ∧
    (∀ f : FI, s.guard f.g f.gn = true →
      let a := fun n => (s.sa f.a).getLsbD n
      let i := fun n => f.imm.getLsbD (if n < 32 then n else 31)
      let c := f.sh.toNat % 64
      GivesBits (.andi f) s f.d (fun n => a n && i n) ∧ GivesBits (.ori f) s f.d (fun n => a n || i n) ∧
      GivesBits (.xori f) s f.d (fun n => a n != i n) ∧
      GivesBits (.shli f) s f.d (fun n => decide (c ≤ n) && a (n - c)) ∧
      GivesBits (.shri f) s f.d (fun n => a (n + c)) ∧
      GivesBits (.srai f) s f.d (fun n => if n + c < 64 then a (n + c) else a 63) ∧
      GivesBits (.roli f) s f.d (fun n => a ((n + 64 - c) % 64)))

/-- R75, Table 4-2: the counts of bits, and the lesser and the greater, signed and unsigned. -/
def Sys2Proof.Machine.BitCountsAndExtremes : Prop :=
  ∀ (f : FQ) (s : State), s.guard f.g f.gn = true →
    let a := s.sa f.a
    let b := s.sa f.b
    Gives (.clz f) s f.d (fun v => v.toNat ≤ 64 ∧ (∀ n, n < v.toNat → a.getLsbD (63 - n) = false) ∧
      (v.toNat < 64 → a.getLsbD (63 - v.toNat) = true)) ∧
    Gives (.ctz f) s f.d (fun v => v.toNat ≤ 64 ∧ (∀ n, n < v.toNat → a.getLsbD n = false) ∧
      (v.toNat < 64 → a.getLsbD v.toNat = true)) ∧
    Gives (.popc f) s f.d (fun v => v.toNat = ((List.range 64).map (fun n => (a.getLsbD n).toNat)).sum) ∧
    Gives (.min f) s f.d (fun v => v.toInt = min a.toInt b.toInt) ∧
    Gives (.max f) s f.d (fun v => v.toInt = max a.toInt b.toInt) ∧
    Gives (.minu f) s f.d (fun v => v.toNat = min a.toNat b.toNat) ∧
    Gives (.maxu f) s f.d (fun v => v.toNat = max a.toNat b.toNat)

/-- R78, Table 4-4, R79: extensions, fields, select, constants and address forms, bit by bit or as sums modulo 2^64. -/
def Sys2Proof.Machine.FieldsMovesAndAddresses : Prop :=
  ∀ (s : State),
    (∀ f : FI, s.guard f.g f.gn = true →
      let a := fun n => (s.sa f.a).getLsbD n
      let w := f.sh.toNat % 64
      let len := f.imm.toNat % 64 + 1
      GivesBits (.sext f) s f.d (fun n => a (min n w)) ∧
      GivesBits (.zext f) s f.d (fun n => decide (n ≤ w) && a n) ∧
      (w + len ≤ 64 →
        GivesBits (.bfx f) s f.d (fun n => decide (n < len) && a (w + n)) ∧
        GivesBits (.bfxSx f) s f.d (fun n => a (w + min n (len - 1))) ∧
        GivesBits (.bfi f) s f.d (fun n => if w ≤ n ∧ n < w + len then a (n - w) else (s.sa f.d).getLsbD n)) ∧
      GivesBits (.li f) s f.d (fun n => f.imm.getLsbD (min n 31)) ∧
      GivesBits (.lih f) s f.d (fun n => if n < 32 then (s.sa f.d).getLsbD n else f.imm.getLsbD (n - 32)) ∧
      Gives (.aaddi f) s f.d (· = s.sa f.a + BitVec.ofInt 64 (f.imm.toInt * 2 ^ (f.sh.toNat % 8)))) ∧
    (∀ f : FQ, s.guard f.g f.gn = true →
      Gives (.sel f) s f.d (· = if s.preg f.c = true then s.sa f.a else s.sa f.b) ∧
      Gives (.aadd f) s f.d (· = if f.na = 1 then s.sa f.a - s.sa f.b else s.sa f.a + s.sa f.b))

namespace Sys2Proof.Machine

/-- Table 3-10 on integers: the signed values for EQ to GT, the unsigned ones for the codes with U. -/
def relation (cc : BitVec 4) (x y : Int) (u v : Nat) : Bool :=
  if cc = 0 then x = y else if cc = 1 then x ≠ y else if cc = 2 then x < y else if cc = 3 then x ≥ y
  else if cc = 4 then u < v else if cc = 5 then u ≥ v else if cc = 6 then x ≤ y else if cc = 7 then x > y
  else if cc = 8 then u ≤ v else u > v

end Sys2Proof.Machine

/-- R80, R81: the compares and the predicate instructions write one p register, p0 apart, and nothing else. -/
def Sys2Proof.Machine.ComparesAndPredicatesWriteOneP : Prop :=
  ∀ (s : State),
    (∀ f : FQ, s.guard f.g f.gn = true → okCmp f.t1 f.t2 = true →
      Runs (.cmp f) s (WritesP s · f.d
        (if f.t1 = 3 then relation f.t2 (s.sa f.a).toInt (s.sa f.b).toInt (s.sa f.a).toNat (s.sa f.b).toNat
         else relation f.t2 ((s.sa f.a).setWidth 32).toInt ((s.sa f.b).setWidth 32).toInt
           ((s.sa f.a).toNat % 2 ^ 32) ((s.sa f.b).toNat % 2 ^ 32)))) ∧
    (∀ f : FI, s.guard f.g f.gn = true → okCmp f.t1 f.t2 = true →
      Runs (.cmpi f) s (WritesP s · f.d
        (if f.t1 = 3 then
           relation f.t2 (s.sa f.a).toInt f.imm.toInt (s.sa f.a).toNat (BitVec.ofInt 64 f.imm.toInt).toNat
         else relation f.t2 ((s.sa f.a).setWidth 32).toInt f.imm.toInt ((s.sa f.a).toNat % 2 ^ 32) f.imm.toNat))) ∧
    (∀ f : FQ, s.guard f.g f.gn = true →
      let a := if f.na = 1 then !s.preg f.a else s.preg f.a
      Runs (.pand f) s (WritesP s · f.d (a && s.preg f.b)) ∧ Runs (.por f) s (WritesP s · f.d (a || s.preg f.b)) ∧
      Runs (.pxor f) s (WritesP s · f.d (a != s.preg f.b)) ∧ Runs (.pnot f) s (WritesP s · f.d (!s.preg f.a)))

/-- R75, R78 to R81, Tables 4-2 and 4-4: logic, shifts, counts, extremes, fields, moves, addresses, compares and predicates. -/
def Obligations.ScalarLogicFieldsAndCompares : Prop :=
  LogicAndShiftsBitByBit ∧ BitCountsAndExtremes ∧ FieldsMovesAndAddresses ∧ ComparesAndPredicatesWriteOneP

/-- R61: an instruction whose guard is false has no effect but that the PC goes on: in the control context of a core that
fetches for itself, every instruction but GISSUE, TMMA and TMMAL (whose barrier counts it, R153) and those that are ILLEGAL
there; in every context, the scalar instructions and the scalar accesses.
The model's readings in it: logs 30, 39. -/
def Obligations.GuardedOffOnlyAdvances : Prop :=
  (∀ s : State, s.isControl = true → s.cur.forwarded = none →
    (∀ mk ∈ ([.nop, .add, .sub, .mul, .mulh, .mulhu, .div, .divu, .rem, .remu, .and, .or, .xor, .andn, .shl, .shr, .sra,
      .rol, .clz, .ctz, .popc, .min, .max, .minu, .maxu, .sel, .cmp, .mov, .aadd, .pand, .por, .pxor, .pnot,
      .jr] : List (FQ → Instr)),
      ∀ f, s.guard f.g f.gn = false → exec (mk f) s = .next s.advance) ∧
    (∀ mk ∈ ([.addi, .andi, .ori, .xori, .shli, .shri, .srai, .roli, .sext, .zext, .bfx, .bfxSx, .bfi, .cmpi, .li, .lih,
      .aaddi, .mfc, .mtc, .trap, .chk, .sysc, .halt, .fenceI, .yield, .fence, .fenceSs, .fenceLl, .fenceS,
      .tset, .tget, .tstat] : List (FI → Instr)),
      ∀ f, s.guard f.g f.gn = false → exec (mk f) s = .next s.advance) ∧
    (∀ mk ∈ ([.br, .j, .loop] : List (FB → Instr)),
      ∀ f, s.guard f.g f.gn = false → exec (mk f) s = .next s.advance) ∧
    (∀ mk ∈ ([.vadd, .vsub, .vmul, .vfma, .vfms, .vdiv, .vsqrt, .vrcpe, .vrsqe, .vexp2, .vlog2, .vmin, .vmax, .vabs,
      .vneg, .vcmp, .vsel, .vcvt, .viadd, .visub, .vimul, .vimad, .vimin, .vimax, .vand, .vor, .vxor, .vshl,
      .vshr, .vsra, .vclass, .vmovv, .vrsum, .vrmax, .vrmin, .vscan, .vbcast, .vperm, .vslide, .vcomp,
      .vexpd, .viota, .vgetl, .vsetl, .kpopc, .kfirst, .kand, .kor, .kxor, .knot, .kmov, .vnsend, .vnrecv,
      .vlmul, .vlsum, .vlpack, .vlunpk] : List (FV → Instr)),
      ∀ f, s.guard f.g f.gn = false → exec (mk f) s = .next s.advance) ∧
    (∀ mk ∈ ([.ld, .st, .ldv, .stv, .ldvs, .stvs, .ldvx, .stvx, .ldk, .stk, .lda, .strl, .pref, .amoadd, .amomin, .amomax,
      .amominu, .amomaxu, .amoand, .amoor, .amoxor, .amoswp, .amocas, .amofadd, .cmoClean, .cmoInval,
      .cmoFlush, .cmoZero, .waitm, .waitmCmp, .ldsec, .stsec, .tld, .tst] : List (FM → Instr)),
      ∀ f, s.guard f.g f.gn = false → exec (mk f) s = .next s.advance) ∧
    (∀ mk ∈ ([.tzero, .tmov, .tscale, .tadd, .tmul, .tcvt, .ttrans, .trsum, .trmax, .tv2t, .tt2v, .tbcst] : List (FT → Instr)),
      ∀ f, s.guard f.g f.gn = false → exec (mk f) s = .next s.advance) ∧
    (∀ mk ∈ ([.hstart, .hjoin, .hstat, .gdetach, .gdetachJoin, .gattach, .gmerge, .barw, .bara, .barq, .barqTest, .xph,
      .xsend, .xmux, .xend, .cpy, .cpyn, .cpyc, .cpyr, .cpycmb, .wmset, .wmclr, .wmrd, .wmrdAddr, .crwait,
      .crpop, .cbinit, .cbacqRd, .cbacqWr, .cbrelRd, .cbrelWr, .gather, .evset, .evclr, .evwaitAny,
      .evwaitAll, .mpost, .mrecv, .mrecvTest, .waitt, .waittAbs, .tqput, .hodq, .hodr, .hodrTest, .cellDef,
      .cellBind, .cellPut, .cellGet, .cellCommit, .cellState, .cellStateFlip, .cellStateAbort, .cellDrop] : List (FE → Instr)),
      ∀ f, s.guard f.g f.gn = false → exec (mk f) s = .next s.advance)) ∧
  (∀ s : State, s.cur.forwarded = none →
    (∀ mk ∈ ([.nop, .add, .sub, .mul, .mulh, .mulhu, .div, .divu, .rem, .remu, .and, .or, .xor, .andn, .shl, .shr, .sra,
      .rol, .clz, .ctz, .popc, .min, .max, .minu, .maxu, .sel, .cmp, .aadd, .pand, .por, .pxor, .pnot, .jr] : List (FQ → Instr)),
      ∀ f, s.guard f.g f.gn = false → exec (mk f) s = .next s.advance) ∧
    (∀ mk ∈ ([.addi, .andi, .ori, .xori, .shli, .shri, .srai, .roli, .sext, .zext, .bfx, .bfxSx, .bfi, .cmpi, .li, .lih,
      .aaddi, .mfc, .mtc, .trap, .chk, .sysc, .fenceI, .yield, .fence, .fenceSs, .fenceLl] : List (FI → Instr)),
      ∀ f, s.guard f.g f.gn = false → exec (mk f) s = .next s.advance) ∧
    (∀ mk ∈ ([.br, .j, .loop] : List (FB → Instr)),
      ∀ f, s.guard f.g f.gn = false → exec (mk f) s = .next s.advance) ∧
    (∀ mk ∈ ([.ld, .st, .lda, .strl, .pref, .amoadd, .amomin, .amomax, .amominu, .amomaxu, .amoand, .amoor, .amoxor,
      .amoswp, .amocas, .amofadd, .cmoClean, .cmoInval, .cmoFlush, .cmoZero] : List (FM → Instr)),
      ∀ f, s.guard f.g f.gn = false → f.am ≠ 4 → exec (mk f) s = .next s.advance))

/-- R78: MOV copies an s, a or k register, in any pairing; R70, R94, R95: NOP changes nothing but the PC, FENCE.I writes
what the core has written home and drops the lines of the fetch unit, YIELD stops issue for max(1, n) clocks. -/
def Sys2Proof.Machine.MovesAndFetchFencesComplete : Prop :=
  ∀ (s : State),
    (∀ f : FQ, s.guard f.g f.gn = true → Runs (.nop f) s (Advances s)) ∧
    (∀ f : FQ, s.guard f.g f.gn = true → okSAK f.d = true → okSAK f.a = true →
      (okK f.d = false ∧ okK f.a = false ∨ s.isControl = true) →
      let v := if okK f.a then s.kreg f.a else s.sa f.a
      (okK f.d = false → Runs (.mov f) s (WritesSA s · f.d v)) ∧
      (okK f.d = true → Runs (.mov f) s (fun t => OnlyMe s t ∧ OnlyMyContext s t ∧ GoesOn s t (nextPc s.my.pc) ∧
        SameSA s t ∧ SameP s t ∧ { t.me with ctxs := s.me.ctxs, k := s.me.k } = s.me ∧
        t.kreg f.d = v ∧ ∀ r, okK r = true → r ≠ f.d → t.kreg r = s.kreg r))) ∧
    (∀ f : FI, s.guard f.g f.gn = true → s.cur.forwarded = none ∨ s.me.mode ≠ .attached ∨ s.me.vx = 0 →
      Runs (.fenceI f) s (fun t => OnlyMyContext s t ∧ (∀ n, n ≠ s.cur.core → t.core n = s.core n) ∧ Rests s t 12 ∧
        SameSA s t ∧ SameP s t ∧ t.me.lines = [] ∧
        t.me.dcache = s.me.dcache.map (fun l => if l.coh = 1 then { l with dirty := 0 } else l) ∧
        { t.me with ctxs := s.me.ctxs, lines := s.me.lines, dcache := s.me.dcache } = s.me ∧
        ((∀ l ∈ s.me.dcache, l.coh = 1 → l.dirty = 0) → ∀ a, t.mem.read a = s.mem.read a) ∧
        (Intact s → ∀ l i, s.me.dcache.filter (fun l => l.coh == 1) = [l] → i < 64 →
          t.mem.read (l.loc + i) = if l.dirty.getLsbD i then l.data.extractLsb' (8 * i) 8 else s.mem.read (l.loc + i)))) ∧
    (∀ f : FI, s.guard f.g f.gn = true → s.cur.forwarded.isSome = true → s.me.mode = .attached → s.me.vx ≠ 0 →
      Runs (.fenceI f) s (Advances s)) ∧
    (∀ f : FI, s.guard f.g f.gn = true →
      Runs (.yield f) s (fun t => OnlyMe s t ∧ OnlyMyContext s t ∧ SameCore s t ∧
        t.my.pc = nextPc s.my.pc ∧ t.my.wait = none ∧ t.my.notBefore = s.clk + max 1 (f.imm.extractLsb' 0 16).toNat ∧
        { t.my with pc := s.my.pc, wait := s.my.wait, notBefore := s.my.notBefore, issued := s.my.issued,
                    afterGissue := s.my.afterGissue } = s.my))

namespace Sys2Proof.Machine

/-- What R24 and Table 1-7 store when a value is written to a control register: `old` stands in the fields that are not
written. -/
def storedCr (n : Nat) (limit old v : Word) (lock : Bool) : Word :=
  if n = 0x020 then (if v &&& 0xFFFFFFFF < 1024 then (if limit < 1024 then limit else 1024)
                     else if v &&& 0xFFFFFFFF > limit then limit else v &&& 0xFFFFFFFF)
  else if n = 0x021 then (if v &&& 0xFFFFFFFF < 4096 then 4096 else v &&& 0xFFFFFFFF)
  else if 0x030 ≤ n ∧ n ≤ 0x033 then v
  else if n = 0x040 then v &&& 0xF
  else if n = 0x041 then old &&& ~~~(v &&& 0x1F)
  else if n = 0x060 then (if lock then old else (old &&& ~~~1) ||| (v &&& 1))
  else if n = 0x070 then v &&& ~~~0x38
  else if 0x100 ≤ n ∧ n ≤ 0x10F then v &&& ~~~0xFFFF
  else if 0x110 ≤ n ∧ n ≤ 0x11F then
    (if (v &&& 0x3F) < 16 ∨ (v &&& 0x3F) > 40 then v &&& 0x3F else v &&& 0x13F)
  else if 0x120 ≤ n ∧ n ≤ 0x12F then v &&& 0x00FFFFFFFFFF0007
  else old

/-- The control registers that no program writes (Table 1-7, RO). -/
def readOnlyCr (n : Nat) : Prop := n ≤ 0x018 ∨ n = 0x022 ∨ (0x071 ≤ n ∧ n ≤ 0x080)

end Sys2Proof.Machine

/-- R82, R22, R24, R25, Table 1-7: MFC reads a control register into an s or a register, as it was before a write that
another context made in the same clock; MTC stores what the limits give, in that control register alone, and a read-only
one ignores it. -/
def Sys2Proof.Machine.ControlRegistersReadAndWrite : Prop :=
  ∀ (f : FI) (s : State), s.guard f.g f.gn = true →
    let n := f.imm.toNat
    let own := ∃ e ∈ s.me.crWrites.2, e.1 = n ∧ e.2.1 = s.cur.ctx.val
    (okCr n = true → s.me.crWrites.1 ≠ s.clk ∨ own ∨ (∀ e ∈ s.me.crWrites.2, e.1 ≠ n) →
      Runs (.mfc f) s (WritesSA s · f.d (s.readCr n))) ∧
    (∀ (before after : List (Nat × Nat × Word)) (x : Nat) (old : Word), okCr n = true → s.me.crWrites.1 = s.clk →
      s.me.crWrites.2 = before ++ (n, x, old) :: after → (∀ e ∈ before, e.1 ≠ n) → ¬ own →
      Runs (.mfc f) s (WritesSA s · f.d old)) ∧
    (okCr n = true → (s.isControl = true ∨ n ∉ [0x020, 0x021, 0x040, 0x041, 0x060, 0x070]) →
      Runs (.mtc f) s (fun t => OnlyMe s t ∧ OnlyMyContext s t ∧ Rests s t 3 ∧ SameSA s t ∧ SameP s t ∧
        (¬ readOnlyCr n → t.me.crWrites =
          (s.clk, (if s.me.crWrites.1 = s.clk then s.me.crWrites.2 else []) ++ [(n, s.cur.ctx.val, s.readCr n)])) ∧
        (readOnlyCr n → t.me.crWrites = s.me.crWrites) ∧
        t.readCr n = storedCr n ((s.part s.me.part.toNat).wtmax.zeroExtend 64) (s.readCr n) (s.sa f.a) s.me.sigLock ∧
        (∀ m, okCr m = true → m ≠ n → t.readCr m = s.readCr m) ∧
        { t.me with ctxs := s.me.ctxs, waitth := s.me.waitth, bto := s.me.bto, evw := s.me.evw, fpmode := s.me.fpmode,
                    fpflags := s.me.fpflags, sigEn := s.me.sigEn, trappc := s.me.trappc, vwb := s.me.vwb,
                    vwl := s.me.vwl, vwi := s.me.vwi, crWrites := s.me.crWrites } = s.me))

/-- Table 1-7: what the control registers read: their fields, with zero in every other bit. -/
def Sys2Proof.Machine.ControlRegistersHoldTheirFields : Prop :=
  ∀ (s : State),
    (s.readCr 0x000).toNat = s.clk % 2 ^ 64 ∧ s.readCr 0x001 = s.tbase ∧
    (let v := s.readCr 0x002
     v.extractLsb' 0 6 = s.me.vx ∧ v.extractLsb' 8 5 = s.me.vy ∧ v.extractLsb' 16 6 = s.me.gwm1 ∧
     v.extractLsb' 24 5 = s.me.ghm1 ∧ v &&& ~~~0x1F3F1F3F = 0) ∧
    (let v := s.readCr 0x003
     let site := s.cur.core / 32 % 64
     v.extractLsb' 20 12 = s.service.pkg ∧ (v.extractLsb' 16 2).toNat = s.cur.core / 2048 % 4 ∧
     (v.extractLsb' 8 5).toNat = 4 * (site / 8) + s.cur.core % 32 / 8 ∧
     (v.extractLsb' 0 6).toNat = 8 * (site % 8) + s.cur.core % 8 ∧ v &&& ~~~0xFFF31F3F = 0) ∧
    (s.readCr 0x004).toNat = s.me.gid.toNat ∧ (s.readCr 0x005).toNat = s.me.part.toNat ∧
    (let v := s.readCr 0x006
     v.extractLsb' 0 12 = s.me.tag ∧ v.extractLsb' 12 1 = s.me.era ∧ v &&& ~~~0x1FFF = 0) ∧
    (s.readCr 0x008).toNat = s.me.vx.toNat + s.me.vy.toNat ∧
    (∀ n, n < 8 → s.readCr (0x010 + n) = (s.me.tshp.getD n 0).zeroExtend 64) ∧
    (s.readCr 0x020).toNat = s.me.waitth.toNat ∧ (s.readCr 0x021).toNat = s.me.bto.toNat ∧
    (∀ n, n < 64 → (s.readCr 0x022).getLsbD n = (decide (1 ≤ n ∧ n ≤ 10) && (s.me.ctx n).live)) ∧
    (∀ n, n < 4 → s.readCr (0x030 + n) = s.me.evw.getD n 0) ∧
    (s.readCr 0x040).toNat = s.me.fpmode.toNat ∧ (s.readCr 0x041).toNat = s.me.fpflags.toNat ∧
    (let v := s.readCr 0x060
     v.extractLsb' 32 32 = s.me.sigCnt ∧ v.extractLsb' 16 16 = s.me.sigLast ∧ v.getLsbD 1 = s.me.sigLock ∧
     v.getLsbD 0 = s.me.sigEn ∧ v &&& 0xFFFC = 0) ∧
    s.readCr 0x070 = s.me.trappc ∧ s.readCr 0x071 = s.me.fltrec.w0 ∧ s.readCr 0x072 = s.me.fltrec.w1 ∧
    s.readCr 0x073 = s.me.fltrec.w2 ∧ s.readCr 0x074 = s.me.fltrec.w3 ∧ s.readCr 0x080 = s.my.monaddr ∧
    (∀ n, n < 16 → s.readCr (0x100 + n) = s.me.vwb.getD n 0 ∧ s.readCr (0x110 + n) = s.me.vwl.getD n 0 ∧
      s.readCr (0x120 + n) = s.me.vwi.getD n 0)

/-- R22 to R25, R78, R82, R94: moves, fetch fences, and control registers, each with the fields that it holds.
The model's readings in it: log 30. -/
def Obligations.ControlRegistersAndMoves : Prop :=
  MovesAndFetchFencesComplete ∧ ControlRegistersReadAndWrite ∧ ControlRegistersHoldTheirFields

namespace Sys2Proof.Machine

/-- Table 4-5 and R84: the condition of BR. -/
def taken84 (s : State) (f : FB) : Bool :=
  if okP f.c then (if f.cc = 1 then s.preg f.c else !s.preg f.c)
  else relation f.cc (s.sa f.c).toInt 0 (s.sa f.c).toNat 0

/-- R84: the target of a branch of format B in the deciding core, `la` the address of the branch's line. -/
def target84 (pc : Word) (f : FB) : Word :=
  ((((pc >>> 6) <<< 6) + f.dline.signExtend 64 * 64).extractLsb' 6 58) ++ 0#3 ++ f.tslot

/-- R84: the link value. -/
def next84 (pc : Word) : Word :=
  if pc.extractLsb' 0 3 = 4 then ((((pc >>> 6) <<< 6) + 64).extractLsb' 6 58) ++ 0#6
  else (pc.extractLsb' 6 58) ++ 0#3 ++ (pc.extractLsb' 0 3 + 1)

end Sys2Proof.Machine

/-- R83, R84: branches in the core that decides: the condition, the target and the link, with the old registers; LOOP
decrements. A target that is not a PC is BADTARGET with code 1 at the transfer (R53). -/
def Sys2Proof.Machine.BranchesInTheDecidingCore : Prop :=
  ∀ (s : State), s.cur.forwarded = none → okPc s.my.pc = true →
    (∀ f : FB, s.guard f.g f.gn = true → f.tslot.toNat ≤ 4 → okS f.l = true →
      (legalBr f = true →
        (taken84 s f = true → Runs (.br f) s (Transfers s · (target84 s.my.pc f) f.l (next84 s.my.pc))) ∧
        (taken84 s f = false → Runs (.br f) s (Advances s))) ∧
      Runs (.j f) s (Transfers s · (target84 s.my.pc f) f.l (next84 s.my.pc)) ∧
      (s.sa f.c - 1 ≠ 0 → Runs (.loop f) s (Transfers s · (target84 s.my.pc f) f.c (s.sa f.c - 1))) ∧
      (s.sa f.c - 1 = 0 → Runs (.loop f) s (WritesSA s · f.c 0))) ∧
    (∀ f : FQ, s.guard f.g f.gn = true → okS f.d = true →
      let ok := (s.sa f.a).extractLsb' 3 3 = 0 ∧ ((s.sa f.a).extractLsb' 0 3).toNat ≤ 4
      (ok → Runs (.jr f) s (Transfers s · (s.sa f.a) f.d (next84 s.my.pc))) ∧
      (¬ ok → ∃ t u, Follows s u (s.sa f.a) f.d (next84 s.my.pc) ∧ exec (.jr f) s = .next t ∧
        Faulted u t .badTarget 1 (s.sa f.a) (s.sa f.a)))

/-- R83: a core that follows a stream takes the outcome and the target of its header, whatever its own registers hold; its
own guard rules only its own register effects. -/
def Sys2Proof.Machine.BranchesInAFollower : Prop :=
  ∀ (s : State) (w : Forward), s.cur.forwarded = some w →
    (∀ (f : FB) (i : Instr), i ∈ [Instr.br f, Instr.j f] →
      (w.taken = true → s.guard f.g f.gn = true → Runs i s (Follows s · w.next f.l (nextPc s.my.pc))) ∧
      (w.taken = true → s.guard f.g f.gn = false → Runs i s (Follows s · w.next 0 0)) ∧
      (w.taken = false → Runs i s (Advances s))) ∧
    (∀ f : FQ,
      (w.taken = true → s.guard f.g f.gn = true → Runs (.jr f) s (Follows s · w.next f.d (nextPc s.my.pc))) ∧
      (w.taken = true → s.guard f.g f.gn = false → Runs (.jr f) s (Follows s · w.next 0 0)) ∧
      (w.taken = false → Runs (.jr f) s (Advances s))) ∧
    (∀ f : FB,
      (w.taken = true → s.guard f.g f.gn = true → Runs (.loop f) s (Follows s · w.next f.c (s.sa f.c - 1))) ∧
      (w.taken = true → s.guard f.g f.gn = false → Runs (.loop f) s (Follows s · w.next 0 0)) ∧
      (w.taken = false → s.guard f.g f.gn = true → Runs (.loop f) s (WritesSA s · f.c (s.sa f.c - 1))) ∧
      (w.taken = false → s.guard f.g f.gn = false → Runs (.loop f) s (Advances s)))

/-- R52, R53, R55, R83, R84: branches where a core decides them, and in a follower. -/
def Obligations.BranchesTransfersAndFollowers : Prop :=
  BranchesInTheDecidingCore ∧ BranchesInAFollower

/-- R354 to R357, R90: taking a precise fault: the record of Table 24-1 in FLTREC, the context stopped at its PC, the record
delivered, nothing else changed. -/
def Sys2Proof.Machine.TakingAFault : Prop :=
  (∀ (s : State) (cls : FaultClass) (code : Nat) (operand : Word), cls ≠ .uce →
    Faulted s (s.raise cls code operand) cls (BitVec.ofNat 16 code) operand s.my.pc) ∧
  [FaultClass.illegal, .badTarget, .fetchPar, .resFmt, .winMiss, .page, .prot, .hodOnly, .xPhase, .xCollide, .wmPoison,
    .cellStore, .cellCyc, .cellState, .barTimeout, .sigMismatch, .uce, .pinRevoked, .trap].map FaultClass.number =
    (List.range 19).map (· + 1)

/-- R87: TRAP, and by R88 a CHK whose comparison fails, raise TRAP with FLTREC2 as the rules lay it out, and change nothing
else; a CHK whose comparison holds has no effect; the fields that a TRAP does not use are zero in every word that decodes to one. -/
def Obligations.TrapsAndChecks : Prop :=
  (∀ (w : IWord) (f : FI), decode w = .ok (.trap f) → w.extractLsb' 86 10 = 0x046 ∧ f.imm = w.extractLsb' 0 32 ∧ f.d = 0 ∧ f.a = 0 ∧
    f.b = 0 ∧ f.t1 = 0 ∧ f.t2 = 0 ∧ f.sh = 0) ∧
  ∀ (f : FI) (s : State), s.guard f.g f.gn = true →
    Runs (.trap f) s (Faulted s · .trap 0 (0#32 ++ f.imm) s.my.pc) ∧
    (legalChk f = true →
      let holds := if f.t1 = 3 then
          relation f.t2 (s.sa f.a).toInt f.imm.toInt (s.sa f.a).toNat (BitVec.ofInt 64 f.imm.toInt).toNat
        else relation f.t2 ((s.sa f.a).setWidth 32).toInt f.imm.toInt ((s.sa f.a).toNat % 2 ^ 32) f.imm.toNat
      (holds = true → Runs (.chk f) s (Advances s)) ∧
      (holds = false →
        Runs (.chk f) s (Faulted s · .trap 0 (0x01#8 ++ f.sh ++ f.t2 ++ 0#12 ++ (s.sa f.a).setWidth 32) s.my.pc)))

/-- R15, R71: an instruction of a class that only the control context executes is ILLEGAL in a helper and in the hod, whatever
its guard: FLTREC2 holds word bits [95:32], and nothing else changes. -/
def Sys2Proof.Machine.ControlClassesAreIllegalElsewhere : Prop :=
  ∀ (s : State) (w : IWord) (i : Instr), s.isControl = false → encode i = some w →
    ((∃ f, i ∈ ([.vadd, .vsub, .vmul, .vfma, .vfms, .vdiv, .vsqrt, .vrcpe, .vrsqe, .vexp2, .vlog2, .vmin, .vmax, .vabs,
      .vneg, .vcmp, .vsel, .vcvt, .viadd, .visub, .vimul, .vimad, .vimin, .vimax, .vand, .vor, .vxor, .vshl,
      .vshr, .vsra, .vclass, .vmovv, .vrsum, .vrmax, .vrmin, .vscan, .vbcast, .vperm, .vslide, .vcomp,
      .vexpd, .viota, .vgetl, .vsetl, .kpopc, .kfirst, .kand, .kor, .kxor, .knot, .kmov, .vnsend, .vnrecv,
      .vlmul, .vlsum, .vlpack, .vlunpk] : List (FV → Instr)).map (· f)) ∨
     (∃ f, i ∈ ([.tzero, .tmov, .tmma, .tmmal, .tscale, .tadd, .tmul, .tcvt, .ttrans, .trsum, .trmax, .tv2t, .tt2v, .tbcst] : List (FT → Instr)).map (· f)) ∨
     (∃ f, i ∈ ([.tset, .tget, .tstat] : List (FI → Instr)).map (· f)) ∨
     (∃ f, i ∈ ([.ldv, .stv, .ldvs, .stvs, .ldvx, .stvx, .ldk, .stk, .ldsec, .stsec, .tld,
      .tst] : List (FM → Instr)).map (· f)) ∨
     (∃ f, i ∈ ([.gdetach, .gdetachJoin, .gattach, .gmerge, .barw, .bara, .barq, .barqTest, .gissue] : List (FE → Instr)).map (· f))) →
    Runs i s (Faulted s · .illegal 0 (w.extractLsb' 32 64) s.my.pc)

/-- R15, R93, R166, R162: HALT in a helper and HEND in the control context are ILLEGAL; WMSET and WMCLR are ILLEGAL in a
helper; a hod-only instruction elsewhere raises HODONLY when its guard is true. -/
def Sys2Proof.Machine.HelperAndHodClassesFaultElsewhere : Prop :=
  ∀ (s : State) (w : IWord),
    (∀ f : FI, 1 ≤ s.cur.ctx.val → s.cur.ctx.val ≤ 10 → encode (.halt f) = some w →
      Runs (.halt f) s (Faulted s · .illegal 0 (w.extractLsb' 32 64) s.my.pc)) ∧
    (∀ f : FE, s.isControl = true → encode (.hend f) = some w →
      Runs (.hend f) s (Faulted s · .illegal 0 (w.extractLsb' 32 64) s.my.pc)) ∧
    (∀ mk ∈ ([.wmset, .wmclr] : List (FE → Instr)), ∀ f : FE, 1 ≤ s.cur.ctx.val → s.cur.ctx.val ≤ 10 →
      encode (mk f) = some w → Runs (mk f) s (Faulted s · .illegal 0 (w.extractLsb' 32 64) s.my.pc)) ∧
    (∀ mk ∈ ([.cpy, .cpyn, .cpyc, .cpyr, .cpycmb, .hodr, .hodrTest] : List (FE → Instr)), ∀ f : FE, s.isHod = false →
      s.guard f.g f.gn = true → encode (mk f) = some w →
      Runs (mk f) s (Faulted s · .hodOnly 0 (w.extractLsb' 32 64) s.my.pc)) ∧
    (∀ mk ∈ ([.wmset, .wmclr] : List (FE → Instr)), ∀ f : FE, s.isControl = true → s.guard f.g f.gn = true →
      encode (mk f) = some w → Runs (mk f) s (Faulted s · .hodOnly 0 (w.extractLsb' 32 64) s.my.pc))

/-- R15, R71, R162: a class of one context is ILLEGAL or HODONLY in another.
The model's readings in it: log 39. -/
def Obligations.ClassesFaultInOtherContexts : Prop :=
  ControlClassesAreIllegalElsewhere ∧ HelperAndHodClassesFaultElsewhere

/-- R92, Table 4-10: a SYSC sends one request with the service number and s2 and s3, and its context waits for the reply
under WAITTH; the reply of a service that needs nothing else writes the status to s1, keeps s2, and the context goes on. -/
def Sys2Proof.Machine.SystemCalls : Prop :=
  (∀ (f : FI) (s : State), s.guard f.g f.gn = true → s.my.wait = none →
    s.sysc.any (fun r => r.gid == s.me.gid && r.core == s.cur.core && r.ctx == s.cur.ctx.val) = false →
    Runs (.sysc f) s (fun t =>
      t.sysc = s.sysc ++ [{ core := s.cur.core, ctx := s.cur.ctx.val, gid := s.me.gid, service := f.imm.extractLsb' 0 16,
                            since := s.clk, begun := false, s2 := s.sa 2, s3 := s.sa 3, answer := none }] ∧
      t.my.wait = some { kind := .sysc, since := s.clk, limit := s.me.waitth.toNat } ∧ t.my.pc = s.my.pc ∧
      SameSA s t ∧ SameP s t ∧ OnlyMyContext s t ∧ MemoryBut s t (UndoWord s s.cur.core) ∧
      { t with cores := s.cores, sysc := s.sysc, mem := s.mem } = s)) ∧
  (∀ (s : State) (g : Gang) (r : SyscRequest), s.serving = true → s.gang? s.cur.args.gid = some g → g.state ≠ .saved →
    g.saveDone = false → s.sysc = [r] → r.gid = s.cur.args.gid → r.core = s.cur.args.core → r.ctx = s.cur.args.ctx.val →
    r.answer = none → r.service.toNat = 0 ∨ 3 ≤ r.service.toNat →
    Runs .syscReply s (fun t => t.sysc = [] ∧
      (∀ c, c ≠ r.core → t.core c = s.core c) ∧ (∀ a, t.mem.read a = s.mem.read a) ∧
      (∀ x, x ≠ r.ctx → (t.core r.core).ctx x = (s.core r.core).ctx x) ∧
      (let x := (s.core r.core).ctx r.ctx
       let y := (t.core r.core).ctx r.ctx
       y.sa 1 = (if r.service.toNat = 0 then 0 else 1) ∧ y.sa 2 = r.s2 ∧ y.pc = nextPc x.pc ∧ y.wait = none ∧
       (∀ q, q ≠ 1 → q ≠ 2 → y.sa q = x.sa q) ∧ y.p = x.p)))

namespace Sys2Proof.Machine

/-- TRET retires with a value in its register; its context issues nothing for 6 clk (Table 4-8). -/
structure Answers91 (s t : State) (d : BitVec 8) (v : Word) : Prop where
  outside : OnlyMe s t
  contexts : OnlyMyContext s t
  core : SameCore s t
  goes : Rests s t 6
  sets : SetsSA s t d v

end Sys2Proof.Machine

/-- R91, Table 4-12: what TRET answers: the status of the context that reg(A) names; with status 0 the action goes on its
way, or the gang ends with action 2 and for a context stopped by XPHASE or XCOLLIDE (R358). Elsewhere TRET is ILLEGAL. -/
def Sys2Proof.Machine.ReturnFromFaultAnswersItsStatus : Prop :=
  ∀ (f : FI) (s : State),
    (s.isHandler = false → ∀ w, encode (.tret f) = some w →
      Runs (.tret f) s (Faulted s · .illegal 0 (w.extractLsb' 32 64) s.my.pc)) ∧
    (s.isHandler = true → s.guard f.g f.gn = true →
      let n := ((s.sa f.a).extractLsb' 16 4).toNat
      (s.namedCore (s.sa f.a) = none ∨ 12 ≤ n → Runs (.tret f) s (Answers91 s · f.d 2)) ∧
      (∀ c, s.namedCore (s.sa f.a) = some c → n < 12 → ((s.core c).ctx n).stop = none →
        Runs (.tret f) s (Answers91 s · f.d 1)) ∧
      (∀ c st, s.namedCore (s.sa f.a) = some c → n < 12 → ((s.core c).ctx n).stop = some st →
        (f.imm ≠ 2 → st.cls ≠ .xPhase → st.cls ≠ .xCollide → Runs (.tret f) s (fun t => ∃ u, Answers91 s u f.d 0 ∧
          t = { u with posts := s.posts ++ [.tret c n (f.imm.extractLsb' 0 2)] })) ∧
        (f.imm = 2 ∨ st.cls = .xPhase ∨ st.cls = .xCollide → Runs (.tret f) s (fun t => ∃ u, Answers91 s u f.d 0 ∧
          t = { u with gangs := s.gangs.map (fun g =>
                  if g.gid == s.me.gid then { g with fate := g.fate.or (some 2) } else g) }))))

namespace Sys2Proof.Machine

/-- A context that a fault stopped at a PC goes on at another (R91): nothing of its registers changes. -/
def GoesOnAt (x y : Context) (pc : Word) : Prop :=
  y.stop = none ∧ y.wait = none ∧ y.pc = pc ∧ (∀ r, y.sa r = x.sa r) ∧ y.p = x.p ∧ y.live = x.live ∧ y.halted = x.halted

end Sys2Proof.Machine

/-- R91, R358: the arrival of TRET's action: a stopped helper, hod, or control context that fetches for itself issues again
at the PC of the fault (action 0) or at the PC that follows it (action 1), from the next clock; no register changes, and a core
that RESFMT parked is unparked. -/
def Sys2Proof.Machine.ReturnFromFaultResumes : Prop :=
  ∀ (s : State) (a : BitVec 2) (rest : List Post) (st : Stop),
    let c := s.cur.args.core
    let n := s.cur.args.ctx.val
    s.posts = .tret c n a :: rest → ((s.core c).ctx n).stop = some st → st.cls ≠ .barTimeout →
    (n ≠ 0 ∨ s.leader c = none) →
    Runs .tretActionArrival s (fun t => t.posts = rest ∧
      GoesOnAt ((s.core c).ctx n) ((t.core c).ctx n) (if a = 1 then nextPc st.pc else st.pc) ∧
      ((t.core c).ctx n).notBefore ≥ s.clk + 1 ∧ (st.cls = .resFmt → (t.core c).parked = false) ∧
      (∀ x, x ≠ n → (t.core c).ctx x = (s.core c).ctx x) ∧ (∀ d, d ≠ c → t.core d = s.core d) ∧
      (∀ a, t.mem.read a = s.mem.read a) ∧ (t.core c).k = (s.core c).k ∧ (t.core c).v = (s.core c).v ∧
      (t.core c).t = (s.core c).t ∧ (t.core c).fltrec = (s.core c).fltrec)

/-- R91, R358: TRET's status and its arrival.
The model's readings in it: log 27. -/
def Obligations.ReturnsFromFaults : Prop :=
  ReturnFromFaultAnswersItsStatus ∧ ReturnFromFaultResumes

/-- R93: HALT ends its context's program; the control context's takes its exit code, and in a course it takes effect with the
header's guard alone. -/
def Obligations.HaltEndsTheProgram : Prop :=
  ∀ (f : FI) (s : State), (s.isControl = true ∨ s.isHod = true) →
    let takes := match s.cur.forwarded with
      | some w => w.guard
      | none => s.guard f.g f.gn
    (takes = false → Runs (.halt f) s (Advances s)) ∧
    (takes = true → Runs (.halt f) s (fun t =>
      t.my.halted = true ∧ t.my.live = false ∧ t.my.wait = none ∧ t.my.pc = s.my.pc ∧ (∀ r, t.sa r = s.sa r) ∧
      (s.isControl = true → t.me.exit = f.imm.extractLsb' 0 16) ∧ (s.isHod = true → t.me.exit = s.me.exit) ∧
      OnlyMyContext s t ∧ (∀ n, n ≠ s.cur.core → t.core n = s.core n) ∧
      (s.me.dcache = [] → ∀ a, t.mem.read a = s.mem.read a) ∧ t.gangs = s.gangs ∧ t.posts = s.posts))

/-- R90: a record in the supervisor's mailbox starts h10 at TRAPPC, checked as a transfer of control, when h10 is not live. -/
def Sys2Proof.Machine.HandlerStartsAtTrapPc : Prop :=
  ∀ (s : State) (g : Gang) (c : Nat), s.gang? s.cur.args.gid = some g → g.supervisor = some c → g.state = .running →
    g.stopping = false → g.fate = none → ((s.core c).ctx 10).live = false → (∃ m ∈ (s.core c).mbox, m.kind = 1) →
    Runs .handlerStart s (fun t =>
      ((t.core c).ctx 10).live = true ∧ ((t.core c).ctx 10).pc = (s.core c).trappc ∧
      ((t.core c).ctx 10).entryCheck = true ∧ (∀ x, x ≠ 10 → (t.core c).ctx x = (s.core c).ctx x) ∧
      (t.core c).mbox = (s.core c).mbox ∧ (∀ d, d ≠ c → t.core d = s.core d) ∧ MemoryBut s t (UndoWord s c))

/-- R183, R182, R164: what arrives at a core: the oldest event change sets or clears one bit of the vector; the oldest entry
for which the mailbox has room (16 messages, 64 records) joins it at its end. -/
def Sys2Proof.Machine.EventsAndMessagesArrive : Prop :=
  ∀ (s : State),
    let c := s.cur.args.core
    (∀ (before after : List Post) (bit : BitVec 8) (set : Bool),
      s.posts = before ++ .event c bit set :: after → (∀ p ∈ before, ∀ b v, p ≠ .event c b v) →
      Runs .eventDelivery s (fun t => t.posts = before ++ after ∧
        (∀ n, n < 256 → ((t.core c).evw.getD (n / 64) 0).getLsbD (n % 64) =
          if n = bit.toNat then set else ((s.core c).evw.getD (n / 64) 0).getLsbD (n % 64)) ∧
        { t.core c with evw := (s.core c).evw } = s.core c ∧ (∀ d, d ≠ c → t.core d = s.core d) ∧
        { t with cores := s.cores, posts := s.posts } = s)) ∧
    (∀ (before after : List Post) (m : Message),
      s.posts = before ++ .message c m :: after → (∀ p ∈ before, ∀ k, p ≠ .message c k) →
      ((s.core c).mbox.filter (fun k => k.kind == m.kind)).length < (if m.kind = 0 then 16 else 64) →
      Runs .messageDelivery s (fun t => t.posts = before ++ after ∧ (t.core c).mbox = (s.core c).mbox ++ [m] ∧
        { t.core c with mbox := (s.core c).mbox } = s.core c ∧ (∀ d, d ≠ c → t.core d = s.core d) ∧
        { t with cores := s.cores, posts := s.posts } = s))

/-- R90, R92, R182, R183: system calls, the handler's start, and the arrival of events and messages. -/
def Obligations.CallsHandlersAndArrivals : Prop :=
  SystemCalls ∧ HandlerStartsAtTrapPc ∧ EventsAndMessagesArrive

namespace Sys2Proof.Machine

/-- Lane `i` of a v register. -/
def lane (s : State) (r : BitVec 8) (i : Nat) : Lane := (s.vreg r).getD i 0

/-- bval(i) of R96. -/
def bval96 (s : State) (f : FV) (i : Nat) : Lane :=
  if f.var = 0 then lane s f.b i else if f.var = 1 then (s.sa f.b).setWidth 32 else f.imm

/-- cval(i) of R101: C, and in form 10 the old D. -/
def cval101 (s : State) (f : FV) (i : Nat) : Lane := if f.var = 2 then lane s f.d i else lane s f.c i

/-- No flag. -/
def noFlags (_ : Nat) : FpFlags := 0

/-- An operand of a float lane instruction: its exact value under FIZ, negated where its bit says so, and the IV of a
signalling NaN (R31, R32, R35, R101). -/
def operand101 (s : State) (neg : BitVec 1) (x : Lane) : Exact × FpFlags :=
  let v := f32.value (s.me.fpmode.getLsbD 2) x.toNat
  (if neg = 1 then v.1.neg else v.1, v.2)

/-- The lane and the flags of a float instruction: the exact result rounded once by RM, SAT and FOZ (R33, R35). -/
def rounded33 (s : State) (f : FV) (operands : FpFlags) (r : Exact × FpFlags) : Lane × FpFlags :=
  let c := f32.round f.rm (f.sat == 1) (s.me.fpmode.getLsbD 3) r.1
  (BitVec.ofNat 32 c.1, operands ||| r.2 ||| c.2)

/-- A float instruction writes its active lanes. -/
def FloatLanes (i : Instr) (s : State) (f : FV) (r : Nat → Lane × FpFlags) : Prop :=
  Runs i s (WritesLanes s · f.d s.active (fun n => (r n).1) (fun n => (r n).2))

end Sys2Proof.Machine

/-- R101, R104, R105, R34: the float lane instructions form the exact result of a, b and c in every active lane, round it
once, and raise the flags of the operands, of the operation and of the rounding. -/
def Obligations.FloatLanesRoundOnce : Prop :=
  ∀ (f : FV) (s : State), s.isControl = true → s.guard f.g f.gn = true →
    let a := fun n => operand101 s f.na (lane s f.a n)
    let b := fun n => operand101 s 0 (bval96 s f n)
    let c := fun n => operand101 s f.nc (cval101 s f n)
    let one := fun n (op : Exact → Exact × FpFlags) => rounded33 s f (a n).2 (op (a n).1)
    let two := fun n (op : Exact → Exact → Exact × FpFlags) => rounded33 s f ((a n).2 ||| (b n).2) (op (a n).1 (b n).1)
    let three := fun n (op : Exact → Exact → Exact → Exact × FpFlags) =>
      rounded33 s f ((a n).2 ||| (b n).2 ||| (c n).2) (op (a n).1 (b n).1 (c n).1)
    FloatLanes (.vadd f) s f (fun n => two n (Exact.add f.rm)) ∧
    FloatLanes (.vsub f) s f (fun n => two n (fun x y => x.add f.rm y.neg)) ∧
    FloatLanes (.vmul f) s f (fun n => two n Exact.mul) ∧ FloatLanes (.vdiv f) s f (fun n => two n Exact.div) ∧
    FloatLanes (.vfma f) s f (fun n => three n (fun x y z =>
      ((Exact.add f.rm (x.mul y).1 z).1, (x.mul y).2 ||| (Exact.add f.rm (x.mul y).1 z).2))) ∧
    FloatLanes (.vfms f) s f (fun n => three n (fun x y z =>
      ((Exact.add f.rm (x.mul y).1 z.neg).1, (x.mul y).2 ||| (Exact.add f.rm (x.mul y).1 z.neg).2))) ∧
    FloatLanes (.vsqrt f) s f (fun n => one n Exact.sqrt) ∧ FloatLanes (.vrcpe f) s f (fun n => one n Exact.rcpe) ∧
    FloatLanes (.vrsqe f) s f (fun n => one n Exact.rsqe) ∧ FloatLanes (.vexp2 f) s f (fun n => one n Exact.exp2) ∧
    FloatLanes (.vlog2 f) s f (fun n => one n Exact.log2)

/-- Table 5-3, R104, R31 to R33: the seed table's check entries; VRCPE of 3.0 is 0x3EAAAA97 and raises nothing; every code of
F8, and of F32 at the ends of its ranges, rounds to itself in every mode; infinities, invalid operations and divisions by zero
raise what R32 says. -/
def Obligations.NumberFormatsMeetTheirTables : Prop :=
  [rcpSeed 0, rcpSeed 128, rcpSeed 255] = [0xFF80, 0xAA72, 0x8020] ∧
  [rsqSeed 0, rsqSeed 128, rsqSeed 255] = [0xFF80, 0xB4AB, 0x8020] ∧
  [expSeed 0, expSeed 128, expSeed 255] = [0x80000000, 0xB504F334, 0xFF4ECB59] ∧
  f32.round 0 false false (Exact.rcpe (f32.value false 0x40400000).1).1 = (0x3EAAAA97, 0) ∧
  (∀ rm : BitVec 2, ∀ c < 256, (f8.value false c).1 ≠ .nan → f8.round rm false false (f8.value false c).1 = (c, 0)) ∧
  (∀ c ∈ [0, 1, 0x007FFFFF, 0x00800000, 0x3F800000, 0x7F7FFFFF, 0x7F800000, 0x80000000, 0xFF7FFFFF, 0xFF800000],
    ∀ rm : BitVec 2, f32.round rm false false (f32.value false c).1 = (c, 0)) ∧
  (f32.value false 0x7FC00000).2 = 0 ∧ (f32.value false 0x7F800001) = (.nan, 16) ∧
  (∀ rm : BitVec 2, Exact.add rm (.inf false) (.inf true) = (.nan, 16)) ∧
  Exact.mul (.inf false) (.fin true 0 1) = (.nan, 16) ∧ Exact.div (.fin false 3 1) (.fin true 0 1) = (.inf true, 8) ∧
  Exact.div (.fin false 0 1) (.fin false 0 1) = (.nan, 16) ∧ f32.round 0 false false .nan = (0x7FC00000, 0) ∧
  f32.round 0 true false (.inf true) = (0xFF7FFFFF, 0) ∧
  f32.round 0 false false (.fin false (2 ^ 128) 1) = (0x7F800000, 5) ∧
  f32.round 1 false false (.fin false (2 ^ 128) 1) = (0x7F7FFFFF, 5)

/-- R101, R102, R106, R110: what moves, selects, classifies or compares lanes without rounding: VMIN and VMAX give one of their
operands, VABS and VNEG touch the sign bit alone, and nothing but VMIN, VMAX and VCMP raises a flag. -/
def Sys2Proof.Machine.LanesChosenMovedAndCompared : Prop :=
  ∀ (f : FV) (s : State), s.isControl = true → s.guard f.g f.gn = true →
    let a := lane s f.a
    let b := bval96 s f
    let x := fun n => operand101 s f.na (a n)
    let y := fun n => operand101 s 0 (b n)
    let chosen := fun (g : Bool) n => BitVec.ofNat 32 (f32.round 0 false false (Exact.extreme g (x n).1 (y n).1)).1
    let moves := fun (i : Instr) (v : Nat → Lane) => Runs i s (WritesLanes s · f.d s.active v noFlags)
    Runs (.vmin f) s (WritesLanes s · f.d s.active (chosen false) (fun n => (x n).2 ||| (y n).2)) ∧
    Runs (.vmax f) s (WritesLanes s · f.d s.active (chosen true) (fun n => (x n).2 ||| (y n).2)) ∧
    moves (.vabs f) (fun n => b n &&& 0x7FFFFFFF) ∧ moves (.vneg f) (fun n => b n ^^^ 0x80000000) ∧
    moves (.vmovv f) b ∧ moves (.vbcast f) (fun n => a ((b n).extractLsb' 0 6).toNat) ∧
    moves (.vperm f) (fun n => a ((b n).extractLsb' 0 6).toNat) ∧
    moves (.vslide f) (fun n => if 0 ≤ (n : Int) + (b n).toInt ∧ (n : Int) + (b n).toInt ≤ 63
      then a ((n : Int) + (b n).toInt).toNat else 0) ∧
    moves (.vsel f) (fun n => if (s.kreg f.c).getLsbD n then a n else b n) ∧
    (okFloat f.t1 = true → Runs (.vclass f) s (fun t => ∃ v : Nat → Nat, WritesLanes s t f.d s.active (fun n => 1#32 <<< v n) noFlags ∧
      ∀ n, n < 64 → match ((fmtOf f.t1.toNat).value false (a n).toNat) with
        | (.nan, q) => v n = if q = 0 then 9 else 8
        | (.inf neg, _) => v n = if neg then 0 else 7
        | (.fin neg num den, _) =>
          v n = if num = 0 then (if neg then 3 else 4) else if num * 2 ^ ((fmtOf f.t1.toNat).bias - 1) < den
            then (if neg then 2 else 5) else (if neg then 1 else 6))) ∧
    (legalVcmp f = true →
      let w := if f.t1.toNat % 4 = 0 then 8 else if f.t1.toNat % 4 = 1 then 16 else 32
      let ints := fun n => relation f.t2 (BitVec.ofNat w (a n).toNat).toInt (BitVec.ofNat w (b n).toNat).toInt
        ((a n).toNat % 2 ^ w) ((b n).toNat % 2 ^ w)
      let fiz := s.me.fpmode.getLsbD 2
      let floats := fun n => condFloat f.t2.toNat ((fmtOf f.t1.toNat).value fiz (a n).toNat).1
        ((fmtOf f.t1.toNat).value fiz (b n).toNat).1
        (((fmtOf f.t1.toNat).value fiz (a n).toNat).2 ||| ((fmtOf f.t1.toNat).value fiz (b n).toNat).2)
      (f.t1.toNat < 8 → Runs (.vcmp f) s (WritesMask s · f.d
        (fun n => if s.active n then ints n else (s.kreg f.d).getLsbD n) noFlags)) ∧
      (8 ≤ f.t1.toNat → Runs (.vcmp f) s (WritesMask s · f.d
        (fun n => if s.active n then (floats n).1 else (s.kreg f.d).getLsbD n) (fun n => (floats n).2))))

namespace Sys2Proof.Machine

/-- The width of an element of an integer lane type (R98). -/
def width98 (t : BitVec 4) : Nat := if t = 0 ∨ t = 4 then 8 else if t = 1 ∨ t = 5 then 16 else 32

/-- An element of an integer lane type: the low bits of its lane, signed for an int type (R98, R108). -/
def element108 (t : BitVec 4) (x : Lane) : Int :=
  let w := width98 t
  let u := x.toNat % 2 ^ w
  if t.toNat < 4 ∧ 2 ^ (w - 1) ≤ u then (u : Int) - 2 ^ w else u

/-- An exact result as its lane holds it: clamped under SAT, its low bits, zero above them (R98, R108). -/
def stored108 (t : BitVec 4) (sat : BitVec 1) (e : Int) : Lane :=
  let w := width98 t
  let lo : Int := if t.toNat < 4 then -2 ^ (w - 1) else 0
  let hi : Int := if t.toNat < 4 then 2 ^ (w - 1) - 1 else 2 ^ w - 1
  let r := if sat = 0 then e else if e < lo then lo else if e > hi then hi else e
  BitVec.ofInt 32 (r % 2 ^ w)

end Sys2Proof.Machine

/-- R108, Table 5-4: the integer, bitwise and shift lanes: exact results, clamped or wrapped to the width of the type; counts
are taken modulo the width; no flag is raised. -/
def Obligations.IntegerLanesFollowR108 : Prop :=
  ∀ (f : FV) (s : State), s.isControl = true → s.guard f.g f.gn = true → okInt f.t1 = true →
    let a := fun n => element108 f.t1 (lane s f.a n)
    let b := fun n => element108 f.t1 (bval96 s f n)
    let c := fun n => element108 f.t1 (cval101 s f n)
    let w := width98 f.t1
    let shift := fun n => (bval96 s f n).toNat % 2 ^ w % w
    let bits := fun n => (lane s f.a n).toNat % 2 ^ w
    let writes := fun (i : Instr) (v : Nat → Lane) => Runs i s (WritesLanes s · f.d s.active v noFlags)
    writes (.viadd f) (fun n => stored108 f.t1 f.sat (a n + b n)) ∧
    writes (.visub f) (fun n => stored108 f.t1 f.sat (a n - b n)) ∧
    writes (.vimul f) (fun n => stored108 f.t1 f.sat (a n * b n)) ∧
    writes (.vimad f) (fun n => stored108 f.t1 f.sat (a n * b n + c n)) ∧
    (f.sat = 0 → writes (.vimin f) (fun n => stored108 f.t1 0 (min (a n) (b n))) ∧
      writes (.vimax f) (fun n => stored108 f.t1 0 (max (a n) (b n)))) ∧
    writes (.vand f) (fun n => lane s f.a n &&& bval96 s f n) ∧ writes (.vor f) (fun n => lane s f.a n ||| bval96 s f n) ∧
    writes (.vxor f) (fun n => lane s f.a n ^^^ bval96 s f n) ∧
    writes (.vshl f) (fun n => BitVec.ofNat 32 (bits n * 2 ^ shift n % 2 ^ w)) ∧
    writes (.vshr f) (fun n => BitVec.ofNat 32 (bits n / 2 ^ shift n)) ∧
    (f.t1.toNat < 4 → writes (.vsra f) (fun n => stored108 f.t1 0 (a n / 2 ^ shift n)))

namespace Sys2Proof.Machine

/-- The pairwise tree of R46: the value at height `h`, position `i`, over entries `x`. -/
def tree46 {α : Type} (op : α → α → α) (x : Nat → α) : Nat → Nat → α
  | 0, i => x i
  | h + 1, i => op (tree46 op x h (2 * i)) (tree46 op x h (2 * i + 1))

/-- A lane of A as an F32 code, with FIZ applied (R35, R109). -/
def code109 (s : State) (f : FV) (i : Nat) : Nat :=
  let x := lane s f.a i
  if s.me.fpmode.getLsbD 2 ∧ x.extractLsb' 23 8 = 0 then (x &&& 0x80000000).toNat else x.toNat

/-- The accumulator of VSCAN before lane `i` (R47). -/
def scan47 (s : State) (f : FV) : Nat → Nat × FpFlags
  | 0 => (0x80000000, 0)
  | i + 1 => if s.active i then addCodes f.rm (s.me.fpmode.getLsbD 3) (scan47 s f i) (code109 s f i, 0) else scan47 s f i

/-- The number of lanes below `j` that C selects and k0 leaves active (R111). -/
def rank111 (s : State) (f : FV) (j : Nat) : Nat :=
  ((List.range j).filter (fun i => (s.kreg f.c).getLsbD i && s.active i)).length

end Sys2Proof.Machine

/-- R109, R46, R47: the reductions are the six-level tree over the 64 lanes, inactive lanes entering as −0, −∞ and +∞; the
scan runs from lane 0 up. -/
def Sys2Proof.Machine.ReductionsAndScans : Prop :=
  ∀ (f : FV) (s : State), s.isControl = true → s.guard f.g f.gn = true →
    let fiz := s.me.fpmode.getLsbD 2
    let sum := tree46 (addCodes 0 (s.me.fpmode.getLsbD 3))
      (fun i => if s.active i then (code109 s f i, (0 : FpFlags)) else (0x80000000, 0)) 6 0
    let extreme := fun (g : Bool) => tree46 (fun x y : Exact × FpFlags => (Exact.extreme g x.1 y.1, x.2 ||| y.2))
      (fun i => if s.active i then f32.value fiz (lane s f.a i).toNat else (.inf g, 0)) 6 0
    Runs (.vrsum f) s (WritesSAFlags s · f.d (BitVec.ofNat 64 sum.1) sum.2) ∧
    Runs (.vrmax f) s (WritesSAFlags s · f.d (BitVec.ofNat 64 (f32.round 0 false false (extreme true).1).1) (extreme true).2) ∧
    Runs (.vrmin f) s (WritesSAFlags s · f.d (BitVec.ofNat 64 (f32.round 0 false false (extreme false).1).1) (extreme false).2) ∧
    Runs (.vscan f) s (fun t => t.me.fpflags = s.me.fpflags ||| (scan47 s f 64).2 ∧
      ∃ u, WritesLanes s u f.d s.active (fun n => BitVec.ofNat 32 (scan47 s f (n + 1)).1) noFlags ∧
        u = t.modMe (fun c => { c with fpflags := s.me.fpflags }))

/-- R111, R112: compress, expand, count, and the moves of one lane, which ignore k0. -/
def Sys2Proof.Machine.LanesPackedSpreadAndCounted : Prop :=
  ∀ (f : FV) (s : State), s.isControl = true → s.guard f.g f.gn = true →
    let selected := fun n => (s.kreg f.c).getLsbD n && s.active n
    Runs (.vcomp f) s (fun t => ∃ v, WritesLanes s t f.d (fun n => decide (n < rank111 s f 64)) v noFlags ∧
      ∀ j, j < 64 → selected j = true → v (rank111 s f j) = lane s f.a j) ∧
    Runs (.vexpd f) s (WritesLanes s · f.d selected (fun n => lane s f.a (rank111 s f n)) noFlags) ∧
    Runs (.viota f) s (WritesLanes s · f.d s.active (fun n => BitVec.ofNat 32 (rank111 s f n)) noFlags) ∧
    (1 ≤ f.var.toNat → Gives (.vgetl f) s f.d (fun v => v.toNat = (lane s f.a ((bval96 s f 0).toNat % 64)).toNat) ∧
      Runs (.vsetl f) s (WritesLanes s · f.d (fun n => n == (bval96 s f 0).toNat % 64)
        (fun _ => (s.sa f.a).setWidth 32) noFlags))

/-- R96 to R112: lanes chosen, moved, compared, packed, spread and counted. -/
def Obligations.LanesMoveComparePackAndSpread : Prop :=
  LanesChosenMovedAndCompared ∧ LanesPackedSpreadAndCounted

/-- R113: the mask instructions act on all 64 bits, whatever k0 holds; NA inverts the operand k[A] of KAND, KOR and KXOR. -/
def Sys2Proof.Machine.MaskInstructionsOnAllBits : Prop :=
  ∀ (f : FV) (s : State), s.isControl = true → s.guard f.g f.gn = true →
    let a := fun n => (s.kreg f.a).getLsbD n
    let na := fun n => a n != decide (f.na = 1)
    let b := fun n => if f.var = 0 then (s.kreg f.b).getLsbD n else if f.var = 1 then (s.sa f.b).getLsbD n
      else f.imm.getLsbD (min n 31)
    let writes := fun (i : Instr) (bit : Nat → Bool) => Runs i s (WritesMask s · f.d bit noFlags)
    Gives (.kpopc f) s f.d (fun v => v.toNat = ((List.range 64).map (fun n => (a n).toNat)).sum) ∧
    Gives (.kfirst f) s f.d (fun v => v.toNat ≤ 64 ∧ (∀ n, n < v.toNat → a n = false) ∧
      (v.toNat < 64 → a v.toNat = true)) ∧
    writes (.kand f) (fun n => na n && b n) ∧ writes (.kor f) (fun n => na n || b n) ∧
    writes (.kxor f) (fun n => na n != b n) ∧ writes (.knot f) (fun n => !a n) ∧ writes (.kmov f) b

/-- R109 to R113: reductions, scans and the mask instructions. -/
def Obligations.ReductionsScansAndMasks : Prop :=
  ReductionsAndScans ∧ MaskInstructionsOnAllBits

/-- R114: a send reaches the channel of the opposite side of the neighbour at the second clock after; off the edge it is
discarded; a receive takes the entry, and zero from an empty channel; an arrival takes the place of what stands there. -/
def Obligations.NeighbourChannels : Prop :=
  (∀ (f : FV) (s : State), s.isControl = true → s.guard f.g f.gn = true → f.imm.toNat < 4 →
    (s.neighbour s.cur.core f.imm.toNat = none → Runs (.vnsend f) s (Advances s)) ∧
    (∀ n, s.neighbour s.cur.core f.imm.toNat = some n → Runs (.vnsend f) s (fun t => ∃ u, Advances s u ∧
      t = { u with posts := s.posts ++ [.channel n ((f.imm.toNat + 2) % 4) (s.clk + 2) (s.vreg f.a)] }))) ∧
  (∀ (f : FV) (s : State), s.isControl = true → s.guard f.g f.gn = true → f.imm.toNat < 4 →
    (∀ p ∈ s.posts, Post.due s.clk s.cur.core f.imm.toNat p = false) →
    Runs (.vnrecv f) s (fun t =>
      let got := (s.me.chan.getD f.imm.toNat none).getD VReg.zero
      t.me.chan.getD f.imm.toNat none = none ∧
      (∀ d, d < 4 → d ≠ f.imm.toNat → t.me.chan.getD d none = s.me.chan.getD d none) ∧
      WritesLanes s (t.modMe (fun c => { c with chan := s.me.chan })) f.d s.active (fun n => got.getD n 0) noFlags)) ∧
  (∀ (s : State) (before after : List Post) (at_ : Nat) (v : VReg), s.cur.args.index < 4 →
    s.posts = before ++ .channel s.cur.args.core s.cur.args.index at_ v :: after → at_ ≤ s.clk →
    (∀ p ∈ before ++ after, Post.due s.clk s.cur.args.core s.cur.args.index p = false) →
    Runs .channelArrival s (fun t => t.posts = before ++ after ∧
      (t.core s.cur.args.core).chan.getD s.cur.args.index none = some v ∧
      (∀ d, d < 4 → d ≠ s.cur.args.index →
        (t.core s.cur.args.core).chan.getD d none = (s.core s.cur.args.core).chan.getD d none) ∧
      { t.core s.cur.args.core with chan := (s.core s.cur.args.core).chan } = s.core s.cur.args.core ∧
      (∀ c, c ≠ s.cur.args.core → t.core c = s.core c) ∧ { t with posts := s.posts, cores := s.cores } = s))

/-- R116 to R118, R37, R107: products and sums of logarithmic codes, conversions, and the packing of their bits; a reserved
code in an active lane is RESFMT with the register, the lane and the code, and nothing is written. -/
def Obligations.LogarithmicLanesAndConversions : Prop :=
  ∀ (f : FV) (s : State), s.isControl = true → s.guard f.g f.gn = true →
    let a := fun n => (lane s f.a n).toNat
    let b := fun n => (bval96 s f n).toNat
    let w := if f.t1 = 12 then 8 else 6
    let reserved := fun (x : Nat → Nat) n => s.active n && decide (x n % 2 ^ w = 2 ^ (w - 1) + 2 ^ (w - 2))
    let clear := fun (x : Nat → Nat) => ∀ n, n < 64 → reserved x n = false
    let string := fun n => (lane s f.a (n / 32)).getLsbD (n % 32)
    (okL f.t1 = true →
      (clear a → clear b → Runs (.vlmul f) s (WritesLanes s · f.d s.active
        (fun n => BitVec.ofNat 32 (lMul f.t1.toNat (a n) (b n)).1) (fun n => (lMul f.t1.toNat (a n) (b n)).2))) ∧
      (clear a → Runs (.vlsum f) s (fun t => ∃ v, WritesSAFlags s t f.d v (if v.toInt =
          ((List.range 64).map (fun n => if s.active n then lTerm f.t1.toNat (a n) else 0)).sum then 0 else 4) ∧
        v.toInt = max (-2 ^ 47) (min (2 ^ 47 - 1)
          ((List.range 64).map (fun n => if s.active n then lTerm f.t1.toNat (a n) else 0)).sum))) ∧
      (∀ i, i < 64 → reserved a i = true → (∀ n, n < i → reserved a n = false) →
        ∀ j ∈ [Instr.vlmul f, .vlsum f, .vcvt f], Runs j s (Faulted s · .resFmt 0
          (0#32 ++ BitVec.ofNat 8 (2 ^ (w - 1) + 2 ^ (w - 2)) ++ BitVec.ofNat 16 i ++ f.a) s.my.pc)) ∧
      Runs (.vlpack f) s (fun t => ∃ v : Nat → Lane, WritesLanes s t f.d (fun _ => true) v noFlags ∧
        ∀ n, n < 2048 → (v (n / 32)).getLsbD (n % 32) =
          (decide (n < 64 * w) && (lane s f.a (n / w)).getLsbD (n % w))) ∧
      Runs (.vlunpk f) s (fun t => ∃ v : Nat → Lane, WritesLanes s t f.d (fun _ => true) v noFlags ∧
        ∀ i n, i < 64 → n < 32 → (v i).getLsbD n = (decide (n < w) && string (w * i + n)))) ∧
    (okLaneType f.t1 = true → okLaneType f.t2 = true → (okL f.t1 = true → clear a) →
      let r := fun n => convert f.rm (f.sat == 1) (s.me.fpmode.getLsbD 2) (s.me.fpmode.getLsbD 3) f.t1.toNat f.t2.toNat
        (a n % 2 ^ typeBits f.t1.toNat)
      Runs (.vcvt f) s (WritesLanes s · f.d s.active (fun n => BitVec.ofNat 32 (r n).1) (fun n => (r n).2)))

namespace Sys2Proof.Machine

/-- The offset of R120 for a form whose IDX is an index; AM 6 does not add reg(BASE), which is the cell id. -/
def offset120 (s : State) (f : FM) : Word :=
  (if f.am = 6 then 0 else s.sa f.base) + (s.sa f.idx <<< f.shx.toNat) + f.disp.signExtend 64

/-- The offset of R120 for a form whose IDX is not an index. -/
def plain120 (s : State) (f : FM) : Word := (if f.am = 6 then 0 else s.sa f.base) + f.disp.signExtend 64

/-- An access of an instruction as R119 and R122 give it. -/
def access119 (s : State) (f : FM) (need : Need) : Access :=
  { am := f.am.toNat, need := need, cell := s.sa f.base, vw := f.vw, ch := f.ch }

/-- Every byte of an access passes the checks of Table 6-3, and no watermark or engine holds it: its places. -/
def reaches (s : State) (f : FM) (need : Need) (os : List (Nat × Word)) (ps : List Place) : Prop :=
  s.places s.cur.core s.cur.ctx.val (access119 s f need) os = .ok ps ∧ Plain s ps

/-- A value read at places, little-endian, sign-extended from its width where `sx` says so (R6, R125). -/
def value125 (m : Memory) (ps : List Place) (sx : Bool) (v : Word) : Prop :=
  ∀ b, b < 64 → v.getLsbD b =
    if b < 8 * ps.length then (m.read (((ps.map (·.loc)).getD (b / 8) 0))).getLsbD (b % 8)
    else sx && (m.read ((ps.map (·.loc)).getD (ps.length - 1) 0)).getLsbD 7

/-- The bytes of a store: the low ones of a value. -/
def bytes125 (x : Word) (n : Nat) : List Byte := (List.range n).map (fun i => x.extractLsb' (8 * i) 8)

end Sys2Proof.Machine

/-- R120, R121, Table 6-2, Table 6-3: where a byte lies in the local modes, and which fault reports an offset outside them, in
the order of the checks; the offset is the operand. -/
def Sys2Proof.Machine.LocalModesPlaceTheirBytes : Prop :=
  ∀ (s : State) (core ctx lane : Nat) (acc : Access) (o : Word),
    let place := s.placeByte core ctx acc lane o
    let log := fun n off => (s.core n).resil && decide (0x1C000 ≤ off)
    let sp := fun n off => if log n off then Except.error (Trap.fault .prot 6 o) else .ok { loc := Config.spLoc n off }
    let block := fun c => s.peer core (8 * ((s.core core).vx.toNat / 8) + c % 8) (4 * ((s.core core).vy.toNat / 4) + c / 8)
    (acc.am = 1 → place = if o.toNat ≥ 131072 then .error (.fault .prot 4 o) else sp core o.toNat) ∧
    (acc.am = 2 → place = if o.toNat ≥ 2 ^ 22 then .error (.fault .prot 4 o)
      else match block (o.toNat / 131072) with
        | none => .error (.fault .prot 5 o)
        | some n => sp n (o.toNat % 131072)) ∧
    (acc.am = 3 → place = if o.toNat ≥ 2 ^ 22 then .error (.fault .prot 4 o)
      else match block (o.toNat / 4 % 32) with
        | none => .error (.fault .prot 5 o)
        | some n => sp n (o.toNat / 128 * 4 + o.toNat % 4)) ∧
    (acc.am = 4 → place = if o.toNat ≥ 256 then .error (.fault .prot 4 o)
      else .ok { loc := Config.laneLoc core lane o.toNat }) ∧
    (acc.am = 5 → place = match (s.segments (s.core core).part.toNat (dieOf core))[o.toNat / 2 ^ 20]? with
      | none => .error (.fault .prot 5 o)
      | some site => .ok { loc := Config.chipLoc (dieOf core) site (o.toNat % 2 ^ 20) })

namespace Sys2Proof.Machine

/-- The windows in force for an access (R27): those of the core, when no context has written a control register in this
clock; for an instruction that has waited, those in force when it issued. -/
def InForce27 (s : State) (core ctx : Nat) (ws : List (Word × Word × Word)) : Prop :=
  let c := s.core core
  ((c.ctx ctx).wait = none ∧ (c.crWrites.1 = s.clk → c.crWrites.2 = []) ∧
    ws = (List.range 16).map (fun i => (c.vwb.getD i 0, c.vwl.getD i 0, c.vwi.getD i 0))) ∨
  ((c.ctx ctx).wait ≠ none ∧ ws = (c.ctx ctx).held ∧ ws.length = 16)

end Sys2Proof.Machine

/-- R27, R122, R324: in AM 0 the lowest-numbered valid window that holds the address gives the intermediate address; none is
WINMISS 0, an intermediate address of 2^56 or more WINMISS 1, and a missing window permission PROT 1. -/
def Sys2Proof.Machine.WindowsGiveIntermediateAddresses : Prop :=
  ∀ (s : State) (core ctx : Nat) (acc : Access) (o : Word) (ws : List (Word × Word × Word)), acc.am = 0 →
    InForce27 s core ctx ws →
    let win := fun i => ws.getD i (0, 0, 0)
    let log := fun i => ((win i).2.1.extractLsb' 0 6).toNat
    let holds := fun i => (win i).2.1.getLsbD 8 && decide (o.toNat / 2 ^ log i = (win i).1.toNat / 2 ^ log i)
    ((∀ i, i < 16 → holds i = false) → s.placeByte core ctx acc 0 o = .error (.fault .winMiss 0 o)) ∧
    (∀ i, i < 16 → holds i = true → (∀ j, j < i → holds j = false) →
      let w := (win i).2.2
      let ia := (w.extractLsb' 16 40).toNat * 65536 + o.toNat % 2 ^ log i
      (2 ^ 56 ≤ ia → s.placeByte core ctx acc 0 o = .error (.fault .winMiss 1 o)) ∧
      (ia < 2 ^ 56 → (acc.need.r = true ∧ w.getLsbD 0 = false ∨ acc.need.w = true ∧ w.getLsbD 1 = false ∨
          acc.need.x = true ∧ w.getLsbD 2 = false) → s.placeByte core ctx acc 0 o = .error (.fault .prot 1 o)) ∧
      (ia < 2 ^ 56 → (acc.need.r = true → w.getLsbD 0 = true) → (acc.need.w = true → w.getLsbD 1 = true) →
          (acc.need.x = true → w.getLsbD 2 = true) →
        s.placeByte core ctx acc 0 o =
          s.translate core ctx (s.core core).part.toNat ia acc.need o (acc.need.w && !acc.upkeep) (!acc.need.x)))

/-- R326, R122, R124: a leaf's checks come in order: owner, GRAN and COH, permission; then a CELL page refuses a store or an
atomic; a page of device memory that passes is reached at its frame. -/
def Sys2Proof.Machine.LeavesAreCheckedInOrder : Prop :=
  ∀ (s : State) (core ctx part ia : Nat) (need : Need) (o : Word) (store ships : Bool) (l : CachedLeaf),
    s.leafOf (clusterOf core) part ia = .ok l →
    let e := l.leaf
    let owned := (e.extractLsb' 60 4).toNat = part
    let coded := e.extractLsb' 4 2 ≠ 3 ∧ e.extractLsb' 6 2 ≠ 3
    let granted := (need.r = true → e.getLsbD 1 = true) ∧ (need.w = true → e.getLsbD 2 = true) ∧
      (need.x = true → e.getLsbD 3 = true)
    let answer := s.translate core ctx part ia need o store ships
    (¬ owned → answer = .error (.fault .prot 2 o)) ∧ (owned → ¬ coded → answer = .error (.fault .prot 8 o)) ∧
    (owned → coded → ¬ granted → answer = .error (.fault .prot 2 o)) ∧
    (owned → coded → granted → store = true → e.getLsbD 8 = true → answer = .error (.fault .cellStore 0 o)) ∧
    (owned → coded → granted → (store && e.getLsbD 8) = false → e.getLsbD 57 = false → e.getLsbD 9 = false →
      ctx = 0 ∨ 11 ≤ ctx ∨ ships = false → s.memXlat = [] →
      let pa := (e.extractLsb' 12 44).toNat * 4096 + (ia - l.base)
      s.okPa pa = true → answer = .ok { loc := pa, ia := some ia, leaf := some l, si := decide (e.extractLsb' 6 2 = 1),
                                        tracked := decide (e.extractLsb' 6 2 = 0) })

/-- R27, R119 to R126, R325 to R328: local modes, windows, and the checks of a leaf. -/
def Obligations.AddressesFormAndTranslate : Prop :=
  LocalModesPlaceTheirBytes ∧ WindowsGiveIntermediateAddresses ∧ LeavesAreCheckedInOrder

/-- R125, R126, R120: scalar loads give the bytes at their places, little-endian, extended by VAR; LDA needs alignment. -/
def Sys2Proof.Machine.ScalarLoadsGiveTheirBytes : Prop :=
  ∀ (f : FM) (s : State) (ps : List Place), s.guard f.g f.gn = true → f.am ≠ 4 → f.var.toNat < 2 → f.w.toNat ≤ 3 →
    let o := offset120 s f
    let n := 2 ^ f.w.toNat
    (reaches s f { r := true } (offsets 0 o n) ps → okSA f.v = true →
      Runs (.ld f) s (fun t => ∃ v, value125 s.mem ps (f.var == 1) v ∧ Delivers s t f.am f.v v ∧
        ∀ a, t.mem.read a = s.mem.read a)) ∧
    (reaches s f { r := true } (offsets 0 o n) ps → okSA f.v = true → o.toNat % n = 0 →
      Runs (.lda f) s (fun t => ∃ v, value125 s.mem ps (f.var == 1) v ∧ Delivers s t f.am f.v v ∧
        ∀ a, t.mem.read a = s.mem.read a)) ∧
    (o.toNat % n ≠ 0 → Runs (.lda f) s (Faulted s · .prot 3 o s.my.pc)) ∧
    (s.isControl = true → reaches s f { r := true } (offsets 0 o 8) ps → okK f.v = true →
      Runs (.ldk f) s (fun t => ∃ v, value125 s.mem ps false v ∧ Delivers s t f.am f.v v ∧
        ∀ a, t.mem.read a = s.mem.read a))

/-- R125, R126, R263: scalar stores write the low bytes of their register at their places and no other byte; STRL needs
alignment, and at .pkg or wider it writes every replica of a REPL page. -/
def Sys2Proof.Machine.ScalarStoresWriteTheirBytes : Prop :=
  ∀ (f : FM) (s : State) (ps : List Place), s.guard f.g f.gn = true → f.am ≠ 4 → f.w.toNat ≤ 3 →
    let o := offset120 s f
    let n := 2 ^ f.w.toNat
    let data := bytes125 (s.sa f.v) n
    (reaches s f { w := true } (offsets 0 o n) ps →
      Runs (.st f) s (fun t => StoreFrame s t ∧ ∀ a, t.mem.read a = (writesAt s.mem ps data).read a)) ∧
    (reaches s f { w := true } (offsets 0 o n) ps → o.toNat % n = 0 →
      let all := ps.flatMap (fun p => (List.range 4).map (fun d => { p with loc := p.loc % 2 ^ 46 + d * 2 ^ 46 }))
      let every := data.flatMap (fun b => List.replicate 4 b)
      (f.scp.toNat < 5 ∨ f.am ≠ 0 ∨ (∀ p ∈ ps, ∀ l, p.leaf = some l → l.leaf.getLsbD 9 = false) →
        Runs (.strl f) s (fun t => StoreFrame s t ∧ ∀ a, t.mem.read a = (writesAt s.mem ps data).read a)) ∧
      (5 ≤ f.scp.toNat → f.am = 0 → (∀ p ∈ ps, ∃ l, p.leaf = some l ∧ l.leaf.getLsbD 9 = true) →
        Runs (.strl f) s (fun t => StoreFrame s t ∧
          ∀ a, t.mem.read a = (writesAt (writesAt s.mem ps data) all every).read a))) ∧
    (o.toNat % n ≠ 0 → Runs (.strl f) s (Faulted s · .prot 3 o s.my.pc)) ∧
    (s.isControl = true → reaches s f { w := true } (offsets 0 o 8) ps →
      Runs (.stk f) s (fun t => StoreFrame s t ∧
        ∀ a, t.mem.read a = (writesAt s.mem ps (bytes125 (s.kreg f.v) 8)).read a))

/-- R131: STSEC, whose W is 6, goes on to the next PC, having written of the 32 bytes at its offset those that the mask in
reg(IDX) selects, byte j from byte j mod 4 of lane j div 4, and no other byte; an offset that is no multiple of 32 is PROT 3. -/
def Sys2Proof.Machine.SectorStoreWritesItsMaskedBytes : Prop :=
  ∀ (f : FM) (s : State) (ps : List Place), s.guard f.g f.gn = true → s.isControl = true → f.w = 6 → f.am ≠ 4 →
    let o := plain120 s f
    let on := (List.range 32).filter (fun j => (s.sa f.idx).getLsbD j)
    let at_ := on.map (fun j => ps.getD j { loc := 0 })
    let data := on.map (fun j => ((s.vreg f.v).getD (j / 4) 0).extractLsb' (8 * (j % 4)) 8)
    (o.toNat % 32 = 0 → reaches s f { w := true } (offsets 0 o 32) ps →
      Runs (.stsec f) s (fun t => StoreFrame s t ∧ t.my.pc = nextPc s.my.pc ∧
        (∀ a, t.mem.read a = (writesAt s.mem at_ data).read a) ∧
        MemoryBut s t (fun a => ∃ p ∈ at_, p.loc = a))) ∧
    (o.toNat % 32 ≠ 0 → Runs (.stsec f) s (Faulted s · .prot 3 o s.my.pc))

/-- R119 to R126, R131, R263: the scalar loads and stores, and the sector store. -/
def Obligations.ScalarLoadsAndStores : Prop :=
  ScalarLoadsGiveTheirBytes ∧ ScalarStoresWriteTheirBytes ∧ SectorStoreWritesItsMaskedBytes

namespace Sys2Proof.Machine

/-- The active lanes, lowest first. -/
def lanes97 (s : State) : List Nat := (List.range 64).filter (fun i => !(s.me.k.getD 0 0).getLsbD i)

/-- The bytes that the active lanes touch, in the order of R124: elements of `n` bytes at the lanes' offsets. -/
def touched127 (s : State) (n : Nat) (off : Nat → Word) : List (Nat × Word) :=
  (lanes97 s).flatMap (fun i => (List.range n).map (fun j => (i, off i + BitVec.ofNat 64 j)))

/-- A vector load: every active lane takes its element, zero-extended. -/
def LoadsLanes (i : Instr) (s : State) (f : FM) (n : Nat) (off : Nat → Word) : Prop :=
  ∀ ps, reaches s f { r := true } (touched127 s n off) ps →
    Runs i s (fun t => (∀ a, t.mem.read a = s.mem.read a) ∧ ∃ val : Nat → Lane,
      (∀ i b, b < 32 → (val i).getLsbD b = (decide (b < 8 * n) &&
        (s.mem.read ((ps.map (·.loc)).getD (((lanes97 s).filter (· < i)).length * n + b / 8) 0)).getLsbD (b % 8))) ∧
      DeliversLanes s t f.am f.v s.active val)

/-- A vector store: the elements of the active lanes, a higher lane's byte standing. -/
def StoresLanes (i : Instr) (s : State) (f : FM) (n : Nat) (off : Nat → Word) : Prop :=
  ∀ ps, reaches s f { w := true } (touched127 s n off) ps →
    Runs i s (fun t => StoreFrame s t ∧ ∀ a, t.mem.read a = (writesAt s.mem ps ((lanes97 s).flatMap (fun i =>
      (List.range n).map (fun j => ((s.vreg f.v).getD i 0).extractLsb' (8 * j) 8)))).read a)

end Sys2Proof.Machine

/-- R127 to R131: the vector loads and stores move one element per active lane at the offsets of their forms; LDSEC moves 32
bytes into lanes 0 to 7, whatever k0 holds. -/
def Obligations.VectorAccessesMoveTheirElements : Prop :=
  ∀ (f : FM) (s : State), s.guard f.g f.gn = true → s.isControl = true →
    let line := if f.w = 4 then 4 else if f.w = 5 then 2 else 2 ^ f.w.toNat
    let lineOff := fun i => if f.am = 4 then offset120 s f else offset120 s f + BitVec.ofNat 64 (i * line)
    let strideOff := fun i => plain120 s f + BitVec.ofNat 64 i * (s.sa f.idx <<< f.shx.toNat)
    let indexOff := fun i => plain120 s f + (((s.vreg f.idx).getD i 0).signExtend 64 <<< f.shx.toNat)
    LoadsLanes (.ldv f) s f line lineOff ∧ StoresLanes (.stv f) s f line lineOff ∧
    (f.w.toNat ≤ 2 → LoadsLanes (.ldvs f) s f (2 ^ f.w.toNat) strideOff ∧ StoresLanes (.stvs f) s f (2 ^ f.w.toNat) strideOff ∧
      LoadsLanes (.ldvx f) s f (2 ^ f.w.toNat) indexOff ∧ StoresLanes (.stvx f) s f (2 ^ f.w.toNat) indexOff) ∧
    (∀ ps, (plain120 s f).toNat % 32 = 0 → reaches s f { r := true } (offsets 0 (plain120 s f) 32) ps →
      Runs (.ldsec f) s (fun t => (∀ a, t.mem.read a = s.mem.read a) ∧ ∃ val : Nat → Lane,
        (∀ i b, i < 8 → b < 32 → (val i).getLsbD b =
          (s.mem.read ((ps.map (·.loc)).getD (4 * i + b / 8) 0)).getLsbD (b % 8)) ∧
        DeliversLanes s t f.am f.v (fun i => decide (i < 8)) val)) ∧
    ((plain120 s f).toNat % 32 ≠ 0 → Runs (.ldsec f) s (Faulted s · .prot 3 (plain120 s f) s.my.pc))

namespace Sys2Proof.Machine

/-- An atomic: the old value goes to reg(V), the context waiting for its reply where the mode is arbitrated; the new one goes to
the places, nothing else to memory (R133). -/
def Swaps (i : Instr) (s : State) (f : FM) (op : Nat → Nat → Option Nat) : Prop :=
  ∀ ps, reaches s f { r := true, w := true } (offsets 0 (plain120 s f) (2 ^ f.w.toNat)) ps →
    (plain120 s f).toNat % 2 ^ f.w.toNat = 0 →
    let old := natOfBytes (ps.map (fun p => s.mem.read p.loc))
    let y := (s.sa f.idx).toNat % 2 ^ (8 * 2 ^ f.w.toNat)
    Runs i s (fun t => DeliversOld s t f.am f.v (BitVec.ofNat 64 old) ∧ ∀ a, t.mem.read a =
      match op old y with
      | none => s.mem.read a
      | some x => (writesAt s.mem ps (bytes125 (BitVec.ofNat 64 x) (2 ^ f.w.toNat))).read a)

/-- A value of `n` bytes read as signed. -/
def signed134 (n x : Nat) : Int := if x % 2 ^ (8 * n) < 2 ^ (8 * n - 1) then x % 2 ^ (8 * n) else (x % 2 ^ (8 * n) : Nat) - 2 ^ (8 * n)

end Sys2Proof.Machine

/-- R133 to R135, Table 6-4: the atomics: the old value in reg(V), the new one in memory; AMOCAS writes only where the old value
is the expected one; a misaligned one is PROT 3; the context issues nothing until the reply.
The model's readings in it: log 38. -/
def Obligations.AtomicsUpdateMemory : Prop :=
  ∀ (f : FM) (s : State), s.guard f.g f.gn = true → f.am ≠ 4 → f.w = 2 ∨ f.w = 3 → okSA f.v = true →
    let n := 2 ^ f.w.toNat
    Swaps (.amoadd f) s f (fun old y => some ((old + y) % 2 ^ (8 * n))) ∧
    Swaps (.amomin f) s f (fun old y => some (if signed134 n y < signed134 n old then y else old)) ∧
    Swaps (.amomax f) s f (fun old y => some (if signed134 n old < signed134 n y then y else old)) ∧
    Swaps (.amominu f) s f (fun old y => some (min old y)) ∧ Swaps (.amomaxu f) s f (fun old y => some (max old y)) ∧
    Swaps (.amoand f) s f (fun old y => some (old &&& y)) ∧ Swaps (.amoor f) s f (fun old y => some (old ||| y)) ∧
    Swaps (.amoxor f) s f (fun old y => some (old ^^^ y)) ∧ Swaps (.amoswp f) s f (fun _ y => some y) ∧
    Swaps (.amocas f) s f (fun old y => if old = (s.sa f.v).toNat % 2 ^ (8 * n) then some y else none) ∧
    (f.w = 2 → Swaps (.amofadd f) s f (fun old y =>
      some (f32.round 0 false false ((f32.value false old).1.add 0 (f32.value false y).1).1).1)) ∧
    ((plain120 s f).toNat % n ≠ 0 →
      ∀ i ∈ [Instr.amoadd f, .amomin f, .amomax f, .amominu f, .amomaxu f, .amoand f, .amoor f, .amoxor f, .amoswp f,
        .amocas f, .amofadd f], Runs i s (Faulted s · .prot 3 (plain120 s f) s.my.pc)) ∧
    (∀ (x : Context) reg v, .atomic reg v ∈ x.replies → ∀ i, x.awaits i = true)

/-- R136, R137, R261, R316: a fence retires; its release part writes the dirty bytes of the core's SI lines home, and at a scope
wider than .core its acquire part drops those lines; FENCE.S empties the operand cache. -/
def Sys2Proof.Machine.FencesRetire : Prop :=
  ∀ (f : FI) (s : State), s.guard f.g f.gn = true →
    let scope := f.imm.extractLsb' 8 3
    let kept := fun (t : State) (rel acq : Bool) => OnlyMyContext s t ∧ (∀ n, n ≠ s.cur.core → t.core n = s.core n) ∧
      GoesOn s t (nextPc s.my.pc) ∧ SameSA s t ∧ SameP s t ∧ t.gangs = s.gangs ∧ t.posts = s.posts ∧
      { t.me with ctxs := s.me.ctxs, dcache := s.me.dcache } = s.me ∧
      let drops := scope ≠ 0 ∧ acq = true
      (rel = false → ¬ drops → t.me.dcache = s.me.dcache ∧ ∀ a, t.mem.read a = s.mem.read a) ∧
      (drops → t.me.dcache = s.me.dcache.filter (fun l => l.coh != 1)) ∧
      (rel = true → ¬ drops → t.me.dcache = s.me.dcache.map (fun l => if l.coh = 1 then { l with dirty := 0 } else l)) ∧
      (Intact s → rel = true ∨ drops → ∀ l i, s.me.dcache.filter (fun l => l.coh == 1) = [l] → i < 64 →
        t.mem.read (l.loc + i) = if l.dirty.getLsbD i then l.data.extractLsb' (8 * i) 8 else s.mem.read (l.loc + i)) ∧
      (Intact s → ∀ a, (∀ l ∈ s.me.dcache, a < l.loc ∨ l.loc + 64 ≤ a) → t.mem.read a = s.mem.read a)
    Runs (.fence f) s (kept · true true) ∧ Runs (.fenceSs f) s (kept · true false) ∧ Runs (.fenceLl f) s (kept · false true) ∧
    Runs (.fenceS f) s (fun t => OnlyMe s t ∧ OnlyMyContext s t ∧ GoesOn s t (nextPc s.my.pc) ∧ SameSA s t ∧ SameP s t ∧
      t.me.operands = [] ∧ { t.me with ctxs := s.me.ctxs, operands := s.me.operands } = s.me)

namespace Sys2Proof.Machine

/-- A CMO of one line: its place, and the line of the core data cache that it names. -/
structure OneLine (s : State) (f : FM) (need : Need) (upkeep : Bool) (p : Place) : Prop where
  length : (s.sa f.idx).toNat ≤ 1048576
  one : (plain120 s f).toNat / 64 = (plain120 s f + BitVec.ofNat 64 (max (s.sa f.idx).toNat 1 - 1)).toNat / 64
  place : s.places s.cur.core s.cur.ctx.val { access119 s f need with upkeep := upkeep, unread := true }
    [(0, (plain120 s f) &&& ~~~63)] = .ok [p]
  logs : ∀ n, (s.core n).resil = false
  intact : Intact s

end Sys2Proof.Machine

/-- R138: CMO on one line of the core data cache, on a page of class SI or DT: CLEAN writes its dirty bytes home and keeps it,
INVAL drops it, FLUSH does both; on a UC page the three have no effect; ZERO writes 64 zero bytes; a length above 1 MiB is PROT 7, and ZERO needs alignment to 64 bytes. -/
def Sys2Proof.Machine.CacheMaintenanceOfALine : Prop :=
  ∀ (f : FM) (s : State) (p : Place), s.guard f.g f.gn = true → f.am = 0 →
    let mine := fun (l : CacheLine) => (p.si || p.tracked) && (match p.ia with
      | some ia => s.me.hits ia l
      | none => false)
    let home := fun (t : State) => ∀ l i, s.me.dcache.filter mine = [l] → i < 64 → t.mem.read (l.loc + i) =
      if l.coh ≠ 0 ∧ l.dirty.getLsbD i = true then l.data.extractLsb' (8 * i) 8 else s.mem.read (l.loc + i)
    let goes := fun (t : State) => OnlyMyContext s t ∧ GoesOn s t (nextPc s.my.pc) ∧ SameSA s t ∧ SameP s t ∧
      { t.me with ctxs := s.me.ctxs, dcache := s.me.dcache } = s.me
    let rest := fun (t : State) => goes t ∧ ∀ n, n ≠ s.cur.core → t.core n = s.core n
    (OneLine s f { r := true } true p → Runs (.cmoClean f) s (fun t => rest t ∧ home t ∧
      t.me.dcache = s.me.dcache.map (fun l => if mine l then { l with dirty := 0 } else l))) ∧
    (OneLine s f { r := true, w := true } true p → Runs (.cmoInval f) s (fun t => rest t ∧
      (p.tracked = false ∨ (∀ l ∈ s.me.dcache, l.coh = 0 ∨ l.dirty = 0) → ∀ a, t.mem.read a = s.mem.read a) ∧ t.me.dcache = s.me.dcache.filter (fun l => !mine l))) ∧
    (OneLine s f { r := true } true p → Runs (.cmoFlush f) s (fun t => rest t ∧ home t ∧
      ∀ l ∈ t.me.dcache, mine l = false)) ∧
    (OneLine s f { r := true, w := true } false p → (plain120 s f).toNat % 64 = 0 → (s.sa f.idx).toNat % 64 = 0 →
      p.loc < 2 ^ 70 → Plain s [p] →
      Runs (.cmoZero f) s (fun t => goes t ∧ (∀ n, n ≠ s.cur.core → SameButLines (s.core n) (t.core n)) ∧ ∀ a, t.mem.read a =
        if p.loc ≤ a ∧ a < p.loc + 64 then 0 else s.mem.read a)) ∧
    (1048576 < (s.sa f.idx).toNat → ∀ i ∈ [Instr.cmoClean f, .cmoInval f, .cmoFlush f],
      Runs i s (Faulted s · .prot 7 (plain120 s f) s.my.pc)) ∧
    ((plain120 s f).toNat % 64 ≠ 0 ∨ (s.sa f.idx).toNat % 64 ≠ 0 →
      Runs (.cmoZero f) s (Faulted s · .prot 3 (plain120 s f) s.my.pc))

/-- R136 to R138: fences and the maintenance of a line.
The model's readings in it: log 46. -/
def Obligations.FencesAndCacheMaintenance : Prop :=
  FencesRetire ∧ CacheMaintenanceOfALine

namespace Sys2Proof.Machine

/-- The same monitors, but that the line of some may have left its core's data cache. -/
def SameMonitors (l m : List Monitor) : Prop :=
  m.map (fun k => { k with evicted := false }) = l.map (fun k => { k with evicted := false })

end Sys2Proof.Machine

/-- R139, Table 6-7: WAITM arms the monitor of its context on a sector and waits; the compare form ends at once, with reason 4,
where the value differs; a write to the sector wakes with reason 1, its line's eviction from the core data cache with reason 2, and
ARMED is 0 from then on; PREF retires whatever it finds. -/
def Sys2Proof.Machine.MonitoredWaitsAndPrefetch : Prop :=
  (∀ (f : FM) (s : State), s.guard f.g f.gn = true → f.am ≠ 4 → s.monitorOf s.cur.core s.cur.ctx.val = none →
    s.my.wait = none → let o := plain120 s f
    let n := 2 ^ f.w.toNat
    let armed := fun (p : Place) (t : State) => t.my.monaddr = ((o &&& ~~~31) ||| 1) ∧ t.my.pc = s.my.pc ∧ SameSA s t ∧ SameP s t ∧
      t.my.wait = some { kind := .monitor, since := s.clk, limit := s.me.waitth.toNat } ∧ (∀ a, t.mem.read a = s.mem.read a) ∧
      SameMonitors (s.monitors ++ [{ core := s.cur.core, ctx := s.cur.ctx.val, reg := f.v, sector := p.loc / 32, am := f.am,
                                     gid := s.me.gid, hit := false }]) t.monitors
    (∀ p, o.toNat % n = 0 → s.placeByte s.cur.core s.cur.ctx.val (access119 s f { r := true }) 0 o = .ok p →
      Runs (.waitm f) s (armed p)) ∧
    (∀ p ps, o.toNat % n = 0 → reaches s f { r := true } (offsets 0 o n) (p :: ps) →
      let v := natOfBytes ((p :: ps).map (fun q => s.mem.read q.loc))
      (v = (s.sa f.idx).toNat % 2 ^ (8 * n) → Runs (.waitmCmp f) s (armed p)) ∧
      (v ≠ (s.sa f.idx).toNat % 2 ^ (8 * n) → Runs (.waitmCmp f) s (fun t => t.my.pc = nextPc s.my.pc ∧ t.my.wait = none ∧
        SetsSA s t f.v 4 ∧ t.my.monaddr &&& 31 = 0 ∧ SameMonitors s.monitors t.monitors ∧
        (∀ a, t.mem.read a = s.mem.read a)))) ∧
    (o.toNat % n ≠ 0 → ∀ i ∈ [Instr.waitm f, .waitmCmp f], Runs i s (Faulted s · .prot 3 o s.my.pc))) ∧
  (∀ (f : FM) (s : State) (m : Monitor), s.guard f.g f.gn = true → f.am ≠ 4 → s.monitors = [m] →
    s.monitorOf s.cur.core s.cur.ctx.val = some m → (∃ w, s.my.wait = some w ∧ w.kind = .monitor) →
    m.hit = true ∨ m.evicted = true → ∀ i ∈ [Instr.waitm f, .waitmCmp f],
    Runs i s (fun t => t.my.pc = nextPc s.my.pc ∧ t.my.wait = none ∧ SetsSA s t m.reg (if m.hit then 1 else 2) ∧
      t.my.monaddr &&& 31 = 0 ∧ t.monitors = [])) ∧
  (∀ (s : State) (m : Monitor), s.monitors = [m] → s.monitorOf s.cur.args.core s.cur.args.ctx.val = some m →
    s.cur.args.index = 0 ∨ s.cur.args.index = 1 ∧ m.hit = true ∨ s.cur.args.index = 2 ∧ m.evicted = true →
    Runs .monitorWake s (fun t => t.monitors = [] ∧ (∀ a, t.mem.read a = s.mem.read a) ∧
      (∀ n, n ≠ m.core → t.core n = s.core n) ∧
      let x := (s.core m.core).ctx m.ctx
      let y := (t.core m.core).ctx m.ctx
      y.pc = nextPc x.pc ∧ y.wait = none ∧ y.monaddr &&& 31 = 0 ∧ y.p = x.p ∧
      (okSA m.reg = true → m.reg ≠ 0 → y.sa m.reg = BitVec.ofNat 64 s.cur.args.index) ∧
      (∀ r, r ≠ m.reg ∨ m.reg = 0 → y.sa r = x.sa r))) ∧
  (∀ (f : FM) (s : State), s.guard f.g f.gn = true → f.am = 0 → Runs (.pref f) s (fun t => GoesOn s t (nextPc s.my.pc) ∧
    SameSA s t ∧ SameP s t ∧ OnlyMyContext s t ∧ (∀ n, n ≠ s.cur.core → SameButLines (s.core n) (t.core n)) ∧
    { t.me with ctxs := s.me.ctxs, dcache := s.me.dcache } = s.me))

/-- R208: the oldest reply of a context arrives: its register takes the value, no other changes, and the context waits for it
no more; a condition of variable timing is known to the fetching core D clk after it was met, D 4 within a bond and the
distance across the gang otherwise. -/
def Sys2Proof.Machine.RepliesArrive : Prop :=
  ∀ (s : State), let c := s.cur.args.core
    let n := s.cur.args.ctx.val
    let x := (s.core c).ctx n
    let calm := fun (rest : List Reply) (t : State) => (∀ d, d ≠ c → t.core d = s.core d) ∧ { t with cores := s.cores } = s ∧
      (∀ m, m ≠ n → (t.core c).ctx m = (s.core c).ctx m) ∧ ((t.core c).ctx n).replies = rest ∧
      ((t.core c).ctx n).pc = x.pc ∧ ((t.core c).ctx n).p = x.p
    (∀ reg v rest, x.replies = .word reg v :: rest ∧ okK reg = false ∨ x.replies = .atomic reg v :: rest → Runs .memoryReply s (fun t => calm rest t ∧
      (okSA reg = true → reg ≠ 0 → ((t.core c).ctx n).sa reg = v) ∧
      (∀ r, r ≠ reg ∨ reg = 0 → ((t.core c).ctx n).sa r = x.sa r) ∧
      { t.core c with ctxs := (s.core c).ctxs } = s.core c)) ∧
    (∀ reg v rest, x.replies = .word reg v :: rest → okK reg = true → Runs .memoryReply s (fun t => calm rest t ∧
      (t.core c).k.getD (reg.toNat - 56) 0 = v ∧ (∀ r, ((t.core c).ctx n).sa r = x.sa r) ∧
      (∀ m, m < 8 → m ≠ reg.toNat - 56 → (t.core c).k.getD m 0 = (s.core c).k.getD m 0) ∧
      { t.core c with ctxs := (s.core c).ctxs, k := (s.core c).k } = s.core c)) ∧
    (∀ reg mask v rest, x.replies = .lanes reg mask v :: rest → okV reg = true → Runs .memoryReply s (fun t => calm rest t ∧
      (∀ i, i < 64 → ((t.core c).v.getD (reg.toNat - 64) VReg.zero).getD i 0 =
        if mask.getLsbD i then v.getD i 0 else ((s.core c).v.getD (reg.toNat - 64) VReg.zero).getD i 0) ∧
      (∀ m, m < 32 → m ≠ reg.toNat - 64 → (t.core c).v.getD m VReg.zero = (s.core c).v.getD m VReg.zero) ∧
      { t.core c with ctxs := (s.core c).ctxs, v := (s.core c).v } = s.core c)) ∧
    (∀ reg bits v rest, x.replies = .tile reg bits v :: rest → okT reg = true → bits ≤ 32768 →
      Runs .memoryReply s (fun t => calm rest t ∧
        (∀ i, i < 32768 → ((t.core c).t.getD (reg.toNat - 96) 0).getLsbD i =
          if i < bits then v.getLsbD i else ((s.core c).t.getD (reg.toNat - 96) 0).getLsbD i) ∧
        (∀ m, m < 8 → m ≠ reg.toNat - 96 → (t.core c).t.getD m 0 = (s.core c).t.getD m 0) ∧
        { t.core c with ctxs := (s.core c).ctxs, t := (s.core c).t, tgen := (s.core c).tgen } = s.core c)) ∧
    (∀ D, ((s.core c).mode ≠ .attached → D = 4) →
      ((s.core c).mode = .attached → ∀ g, s.gangOf c = some g → D = 4 + 2 * ((g.w + 7) / 8 - 1) + 2 * ((g.h + 3) / 4 - 1)) →
      (s.core c).mode ≠ .attached ∨ (∃ g, s.gangOf c = some g) →
      Runs .streamConditionReport s (fun t => { t.core c with conds := (s.core c).conds } = s.core c ∧
        (t.core c).conds = (s.core c).conds.filter (fun k => match k.met with
          | some m => decide (s.clk < m + D)
          | none => true) ∧
        (∀ d, d ≠ c → t.core d = s.core d) ∧ { t with cores := s.cores } = s))

/-- R139, R140, R208: monitored waits, prefetches, and the arrival of replies.
The model's readings in it: log 8. -/
def Obligations.MonitorsPrefetchAndReplies : Prop :=
  MonitoredWaitsAndPrefetch ∧ RepliesArrive

namespace Sys2Proof.Machine

/-- An instruction retires and changes, of all that is not its own PC, only its core's state outside the contexts, which
becomes that of `c`. -/
structure LeavesCore (s t : State) (c : Core) : Prop where
  outside : OnlyMe s t
  contexts : OnlyMyContext s t
  goes : GoesOn s t (nextPc s.my.pc)
  sa : SameSA s t
  preds : SameP s t
  core : { t.me with ctxs := c.ctxs } = c

/-- The offsets of R150: the extent in one run, or a row at every stride. -/
def offsets150 (s : State) (f : FM) (x : Shape) : List (Nat × Word) :=
  if f.idx = 0 then offsets 0 (plain120 s f) x.bytes
  else (List.range x.rows).flatMap (fun i =>
    offsets 0 (plain120 s f + BitVec.ofNat 64 i * (s.sa f.idx <<< f.shx.toNat)) (x.cols * typeBits x.ty / 8))

end Sys2Proof.Machine

/-- R148 to R150, R159: TSET writes a shape and no tile byte, TGET and TSTAT read; TLD and TST move the extent of a tile, TV2T
and TT2V one row (the upper half of a 64-bit element stays open: log 14). -/
def Obligations.TileShapesLoadsAndRows : Prop :=
  ∀ (s : State), s.isControl = true →
    (∀ f : FI, s.guard f.g f.gn = true →
      Runs (.tset f) s (LeavesCore s · { s.me with tshp := s.me.tshp.setIfInBounds (f.d.toNat - 96) f.imm }) ∧
      Gives (.tget f) s f.d (fun v => v.toNat =
        (s.me.shape f.a).bytes % 65536 * 2 ^ 32 + (s.me.tshp.getD (f.a.toNat - 96) 0).toNat % 2 ^ 20) ∧
      Gives (.tstat f) s f.d (fun v => v.getLsbD 63 = s.me.seq.busy ∧ v &&& 0x7C00F8FFFFFF8080 = 0 ∧
        v.extractLsb' 8 7 = BitVec.ofNat 7 s.me.seq.step ∧ v.extractLsb' 0 7 = BitVec.ofNat 7 s.me.seq.total ∧
        (s.me.seq.instr = none → v.extractLsb' 40 18 = 0) ∧
        (∀ i w, s.me.seq.instr = some i → encode i = some w →
          v.extractLsb' 48 10 = wOpc w ∧ v.extractLsb' 40 3 = w.extractLsb' 72 3))) ∧
    (∀ f : FM, s.guard f.g f.gn = true → f.am ≠ 4 →
      let x := s.me.shape f.v
      let whole := f.idx = 0 ∨ x.cols * typeBits x.ty % 8 = 0
      (¬ whole → Runs (.tld f) s (Faulted s · .illegal 0 ((f.word 0x162).extractLsb' 32 64) s.my.pc) ∧
        Runs (.tst f) s (Faulted s · .illegal 0 ((f.word 0x163).extractLsb' 32 64) s.my.pc)) ∧
      (∀ ps, whole → reaches s f { r := true } (offsets150 s f x) ps → Runs (.tld f) s (fun t =>
        (∀ a, t.mem.read a = s.mem.read a) ∧ OnlyMyContext s t ∧ (∀ n, n ≠ s.cur.core → SameButLines (s.core n) (t.core n)) ∧
        t.my.pc = nextPc s.my.pc ∧ t.my.wait = none ∧ SameSA s t ∧ SameP s t ∧ ∃ v : Tile,
          (∀ n, n < 32768 → n < x.bits → v.getLsbD n = (s.mem.read ((ps.map (·.loc)).getD (n / 8) 0)).getLsbD (n % 8)) ∧
          (f.am = 1 → t.my.replies = s.my.replies ∧ (∀ r, okT r = true → r ≠ f.v → t.treg r = s.treg r) ∧
            (okT f.v = true → ∀ n, n < 32768 → (t.treg f.v).getLsbD n =
              if n < x.bits then v.getLsbD n else (s.treg f.v).getLsbD n)) ∧
          (f.am ≠ 1 → t.me.t = s.me.t ∧ t.my.replies = s.my.replies ++ [.tile f.v x.bits v]))) ∧
      (∀ ps, whole → reaches s f { w := true } (offsets150 s f x) ps → Runs (.tst f) s (fun t => StoreFrame s t ∧
        ∃ data : List Byte, data.length = x.bytes ∧
          (∀ n, n < 8 * x.bytes → (data.getD (n / 8) 0).getLsbD (n % 8) = (decide (n < x.bits) && (s.treg f.v).getLsbD n)) ∧
          ∀ a, t.mem.read a = (writesAt s.mem ps data).read a))) ∧
    (∀ f : FT, s.guard f.g f.gn = true →
      let d := s.me.shape f.d
      let a := s.me.shape f.a
      let r := (s.sa f.b).toNat % 64
      (d.ty = f.tc.toNat → d.rows ≤ r → Runs (.tv2t f) s (Advances s)) ∧
      (a.ty = f.ta.toNat → a.rows ≤ r → Runs (.tt2v f) s (Advances s)) ∧
      (d.ty ≠ f.tc.toNat → Runs (.tv2t f) s (Faulted s · .illegal 0 ((f.word 0x170).extractLsb' 32 64) s.my.pc)) ∧
      (a.ty ≠ f.ta.toNat → Runs (.tt2v f) s (Faulted s · .illegal 0 ((f.word 0x171).extractLsb' 32 64) s.my.pc)) ∧
      (d.ty = f.tc.toNat → r < d.rows → Runs (.tv2t f) s (fun t =>
        let w := typeBits d.ty
        let first := w * (r * d.cols)
        ∃ v : Tile, LeavesCore { s with freeCtr := t.freeCtr } t { s.me with
            t := s.me.t.setIfInBounds (f.d.toNat - 96) v,
            tgen := s.me.tgen.setIfInBounds (f.d.toNat - 96) (s.me.tgen.getD (f.d.toNat - 96) 0 + 1) } ∧
          (w ≤ 32 → t.freeCtr = s.freeCtr) ∧
          ∀ n, n < 32768 → ((n < first ∨ first + w * d.cols ≤ n) → v.getLsbD n = (s.treg f.d).getLsbD n) ∧
            (first ≤ n → n < first + w * d.cols → (n - first) % w < 32 →
              v.getLsbD n = ((s.vreg f.a).getD ((n - first) / w) 0).getLsbD ((n - first) % w)))) ∧
      (a.ty = f.ta.toNat → r < a.rows → Runs (.tt2v f) s (fun t =>
        let w := typeBits a.ty
        ∃ v : VReg, LeavesCore s t { s.me with v := s.me.v.setIfInBounds (f.d.toNat - 64) v } ∧
          ∀ j, j < 64 → (a.cols ≤ j → v.getD j 0 = (s.vreg f.d).getD j 0) ∧
            (j < a.cols → ∀ b, b < 32 → (v.getD j 0).getLsbD b =
              (decide (b < w) && (s.treg f.a).getLsbD (w * (r * a.cols + j) + b))))))

namespace Sys2Proof.Machine

/-- A macro-operation enters the sequencer, with its number of steps (R145). -/
def Enters (i : Instr) (s : State) (total : Nat) : Prop :=
  Runs i s (LeavesCore s · { s.me with seq :=
    { instr := some i, pc := s.my.pc, busy := true, joining := false, guard := true, step := 0, total := total,
      since := s.clk, limit := 0, shared := none, arrived := s.me.seq.arrived } })

/-- A macro-operation whose shape check fails is ILLEGAL (R144). -/
def Misshapen (i : Instr) (s : State) : Prop :=
  ∀ w, encode i = some w → Runs i s (Faulted s · .illegal 0 (w.extractLsb' 32 64) s.my.pc)

/-- The two answers of a macro-operation: it enters, or its shapes are refused. -/
def Checked144 (i : Instr) (s : State) (ok : Prop) (total : Nat) : Prop :=
  (ok → Enters i s total) ∧ (¬ ok → Misshapen i s)

end Sys2Proof.Machine

/-- R144 to R147, R152 to R154, R156 to R158: the shape rules and the number of steps of every macro-operation; a failed
shape is ILLEGAL, a reserved code of TCVT's source RESFMT; GISSUE arrives at the join whatever its guard, and a product that
follows it waits there. -/
def Sys2Proof.Machine.MacroOperationsEnterTheSequencer : Prop :=
  ∀ (s : State), s.isControl = true →
    (∀ f : FT, s.guard f.g f.gn = true →
      let a := s.me.shape f.a
      let b := s.me.shape f.b
      let d := s.me.shape f.d
      let alike := a.ty = f.ta.toNat ∧ b.ty = f.tb.toNat ∧ d.ty = f.tc.toNat ∧ (a.rows, a.cols) = (d.rows, d.cols) ∧
        (b.rows, b.cols) = (d.rows, d.cols)
      let fits := a.ty = f.ta.toNat ∧ d.ty = f.tc.toNat ∧ (a.rows, a.cols) = (d.rows, d.cols) ∧
        (f.d = f.a → typeBits a.ty = typeBits d.ty)
      let reserved := fun n => (a.ty = 12 ∧ elem (s.treg f.a) 8 n = 0xC0) ∨ (a.ty = 13 ∧ elem (s.treg f.a) 6 n = 0x30)
      Enters (.tzero f) s d.rows ∧
      Checked144 (.tmov f) s (s.me.tshpOf f.d = s.me.tshpOf f.a) d.rows ∧
      Checked144 (.tadd f) s alike d.rows ∧ Checked144 (.tmul f) s alike d.rows ∧
      Checked144 (.tscale f) s (a.ty = 8 ∧ d.ty = 8 ∧ (a.rows, a.cols) = (d.rows, d.cols)) d.rows ∧
      Checked144 (.ttrans f) s (a.ty = f.ta.toNat ∧ d.ty = f.tc.toNat ∧ f.d ≠ f.a ∧
        (d.rows, d.cols) = (a.cols, a.rows)) d.rows ∧
      Checked144 (.trsum f) s (a.ty = 8) a.rows ∧ Checked144 (.trmax f) s (a.ty = 8) a.rows ∧
      Checked144 (.tbcst f) s (d.ty = f.tc.toNat) d.rows ∧
      (¬ fits → Misshapen (.tcvt f) s) ∧
      (fits → (∀ n, n < a.rows * a.cols → ¬ reserved n) → Enters (.tcvt f) s d.rows) ∧
      (∀ n, fits → n < a.rows * a.cols → reserved n → (∀ m, m < n → ¬ reserved m) →
        Runs (.tcvt f) s (Faulted s · .resFmt 0
          (0#32 ++ (if a.ty = 12 then 0xC0#8 else 0x30#8) ++ BitVec.ofNat 16 n ++ f.a) s.my.pc))) ∧
    (∀ f : FE, Runs (.gissue f) s (fun t => OnlyMe s t ∧ OnlyMyContext s t ∧ GoesOn s t (nextPc s.my.pc) ∧ SameSA s t ∧
      SameP s t ∧ t.my.afterGissue = true ∧ { t.me with ctxs := s.me.ctxs } =
        { s.me with seq := { s.me.seq with since := s.clk, limit := s.me.bto.toNat } })) ∧
    (∀ f : FT, let a := s.me.shape f.a
      let b := s.me.shape f.b
      let d := s.me.shape f.d
      let fits := a.ty = f.ta.toNat ∧ d.ty = f.tc.toNat ∧ d.rows = a.rows ∧ f.d ≠ f.a ∧
        (f.var ≠ 1 → b.ty = f.tb.toNat ∧ b.rows = a.cols ∧ b.cols = d.cols ∧ f.d ≠ f.b)
      let group := if f.ta = 13 then 32 else if f.ta = 9 ∨ f.ta = 10 then 8 else 16
      let kb := if f.kb = 0 then 8 else f.kb.toNat
      ∀ i ∈ [Instr.tmma f, .tmmal f],
        (s.my.afterGissue = false → Misshapen i s) ∧
        (s.my.afterGissue = true → s.guard f.g f.gn = true → ¬ fits → Misshapen i s) ∧
        (s.my.afterGissue = true → (s.guard f.g f.gn = true → fits) →
          Runs i s (LeavesCore s · { s.me with seq :=
            { instr := some i, pc := s.my.pc, busy := true, joining := true, guard := s.guard f.g f.gn, step := 0,
              total := ((a.cols + group - 1) / group + kb - 1) / kb, since := s.me.seq.since,
              limit := s.me.seq.limit, shared := none, arrived := s.me.seq.arrived } })))

namespace Sys2Proof.Machine

/-- What the operand cache holds after a step: what it held, and operands under the generations of their tiles (R151). -/
def Fetched151 (c : Core) (ops : List (Nat × Nat)) : Prop :=
  ops.length ≤ max 16 c.operands.length ∧ ∀ e ∈ ops, e ∈ c.operands ∨ e.2 = c.tgen.getD e.1 0

/-- A core after one more step: a tile, the flags raised, and the operand cache (R145). -/
def Core.tileStepped (c : Core) (d : BitVec 8) (v : Tile) (raised : FpFlags) (ops : List (Nat × Nat)) : Core :=
  { c with t := c.t.setIfInBounds (d.toNat - 96) v, fpflags := c.fpflags ||| raised, operands := ops,
           tgen := c.tgen.setIfInBounds (d.toNat - 96) (c.tgen.getD (d.toNat - 96) 0 + 1),
           seq := { c.seq with step := c.seq.step + 1, busy := decide (c.seq.step + 1 < c.seq.total) } }

/-- The codes of a step of the macro-operation `i` in a core's sequencer: row STEP of the tile `d` takes `val` in its
columns (its bits below `known`), the flags of the row are raised, and nothing else changes. -/
def StepsRow (s : State) (i : Instr) (d : BitVec 8) (val : Nat → Nat × FpFlags) (known : Nat := 64) : Prop :=
  let c := s.core s.cur.args.core
  let x := c.shape d
  let w := typeBits x.ty
  let first := w * (c.seq.step * x.cols)
  c.seq.instr = some i → c.seq.since ≤ s.clk → Runs .sequencerStep s (fun t => ∃ v raised ops, Fetched151 c ops ∧
    t = { s.setCore s.cur.args.core (c.tileStepped d v raised ops) with freeCtr := t.freeCtr } ∧
    (t.freeCtr = s.freeCtr ∨ known < w) ∧
    (∀ n, raised.getLsbD n = (List.range x.cols).any (fun j => (val j).2.getLsbD n)) ∧
    ∀ n, n < 32768 → (n < first ∨ first + w * x.cols ≤ n ∨ (n - first) % w < known) →
      v.getLsbD n = if first ≤ n ∧ n < first + w * x.cols
        then (val ((n - first) / w)).1.testBit ((n - first) % w) else (c.tile d).getLsbD n)

/-- A step of TRSUM or TRMAX: lane STEP of the v register takes a value (R158). -/
def StepsLane (s : State) (i : Instr) (d : BitVec 8) (val : Nat × FpFlags) : Prop :=
  let c := s.core s.cur.args.core
  c.seq.instr = some i → c.seq.since ≤ s.clk → Runs .sequencerStep s (fun t => ∃ ops, Fetched151 c ops ∧ t = s.setCore s.cur.args.core
    { c with operands := ops, v := c.v.setIfInBounds (d.toNat - 64) ((c.vec d).setIfInBounds c.seq.step (BitVec.ofNat 32 val.1)),
             fpflags := c.fpflags ||| val.2,
             seq := { c.seq with step := c.seq.step + 1, busy := decide (c.seq.step + 1 < c.seq.total) } })

/-- Two codes of a type, an exact operation, and one rounding (R33, R157). -/
def rounded157 (ty : Nat) (rm : BitVec 2) (op : Exact → Exact → Exact × FpFlags) (a b : Nat) : Nat × FpFlags :=
  let x := (fmtOf ty).value false a
  let y := (fmtOf ty).value false b
  let r := op x.1 y.1
  let c := (fmtOf ty).round rm false false r.1
  (c.1, x.2 ||| y.2 ||| r.2 ||| c.2)

end Sys2Proof.Machine

/-- R145, R156 to R158: a step computes one row: its elements, its flags and STEP, and BUSY clears with the last one; the
sequencer of a restored core goes on at its skew (R346). -/
def Sys2Proof.Machine.StepsComputeOneRow : Prop :=
  ∀ (f : FT) (s : State), let c := s.core s.cur.args.core
    c.seq.busy = true → c.seq.joining = false →
    let row := c.seq.step
    let a := fun i j => elemAt (c.tile f.a) (c.shape f.a) i j
    let b := fun i j => elemAt (c.tile f.b) (c.shape f.b) i j
    let d := fun i j => elemAt (c.tile f.d) (c.shape f.d) i j
    let entries := fun (beyond : Nat) j => if j < (c.shape f.a).cols then a row j else beyond
    let sum := tree46 (addCodes 0 false) (fun j => (entries 0x80000000 j, 0)) 6 0
    let greatest := tree46 (fun x y : Exact × FpFlags => (Exact.extreme true x.1 y.1, x.2 ||| y.2))
      (fun j => f32.value false (entries 0xFF800000 j)) 6 0
    StepsRow s (.tzero f) f.d (fun _ => (0, 0)) ∧ StepsRow s (.tmov f) f.d (fun j => (a row j, 0)) ∧
    StepsRow s (.ttrans f) f.d (fun j => (a j row, 0)) ∧
    StepsRow s (.tadd f) f.d (fun j => rounded157 f.ta.toNat f.var (Exact.add f.var) (a row j) (b row j)) ∧
    StepsRow s (.tmul f) f.d (fun j => rounded157 f.ta.toNat f.var Exact.mul (a row j) (b row j)) ∧
    StepsRow s (.tscale f) f.d (fun j =>
      let x := ((c.vec f.b).getD (if f.var = 0 then row else j) 0).toNat
      let old := f32.value false (d row j)
      let y := f32.value false (a row j)
      let z := f32.value false x
      let r := Exact.add 0 (y.1.mul z.1).1 old.1
      let e := f32.round 0 false false r.1
      (e.1, old.2 ||| y.2 ||| z.2 ||| ((y.1.mul z.1).2 ||| r.2) ||| e.2)) ∧
    StepsRow s (.tcvt f) f.d (fun j => convert f.var false false false f.ta.toNat f.tc.toNat (a row j)) ∧
    ((c.shape f.d).ty = f.tc.toNat → StepsRow s (.tbcst f) f.d (fun j =>
      (((c.vec f.a).getD (if f.var = 0 then j else row) 0).toNat, 0)) (known := 32)) ∧
    StepsLane s (.trsum f) f.d sum ∧
    StepsLane s (.trmax f) f.d ((f32.round 0 false false greatest.1).1, greatest.2) ∧
    (s.clk < c.seq.since → Runs .sequencerStep s (· = s))

/-- R144 to R150, R155 to R160: macro-operations enter the sequencer and run step by step. -/
def Obligations.MacroOperationsRunByRows : Prop :=
  MacroOperationsEnterTheSequencer ∧ StepsComputeOneRow

/-- R147, R153, R154: the join of a segment completes once every core has arrived or is excluded: each core that waited and passes
its pre-scan goes on, with the B of segment core 0 under .SHB, and one that fails it takes its fault; a core whose arrival a TRET
has left counted takes no part (R358); a step of a product adds its groups to every element of D by R48, a slice that is excluded
supplying zeros, and writes nothing where the guard was false; in a gang that is being stopped it waits for the cores of the segment
that stand at an earlier step.
The model's readings in it: log 39. -/
def Obligations.ProductsJoinAndStep : Prop :=
  (∀ (s : State), let seg := s.segment s.cur.args.core
    (∃ n ∈ seg, (s.core n).seq.joining = true ∧ (s.core n).seq.arrived = false) →
    (∀ n ∈ seg, (s.core n).seq.joining = true ∨ (s.core n).seq.arrived = true ∨ (s.core n).parked = true ∨
      ((s.core n).ctx 0).stop ≠ none ∨ ((s.core n).ctx 0).halted = true) →
    let supply := seg.head?.bind (fun z => if (s.core z).excluded ∨ (s.core z).seq.arrived = true then none
      else (s.core z).seq.product?.map (fun g => (g.b, s.core z)))
    let waits := fun n => decide (n ∈ seg) && (s.core n).seq.joining && !(s.core n).excluded && !(s.core n).seq.arrived
    let after := fun (c : Core) (q : Sequencer) => { c with seq := { q with arrived := false } }
    ((∀ n f, waits n = true → (s.core n).seq.product? = some f → (s.core n).prescan f supply (seg.head? == some n) = none) →
      Runs .joinCompletion s (fun t => { t with cores := s.cores } = s ∧ ∀ n, t.core n =
        if n ∉ seg then s.core n else match waits n, (s.core n).seq.product? with
        | true, some f => after (s.core n) { (s.core n).seq with
            joining := false
            shared := if f.var = 1 then supply.map (fun r => (r.2.tshpOf r.1, r.2.tile r.1)) else none }
        | _, _ => after (s.core n) (s.core n).seq)) ∧
    (∀ f m, seg = [s.cur.core] → s.cur.ctx = 0 → waits s.cur.core = true → s.me.seq.instr = some (.tmmal f) →
      s.me.seq.guard = true → f.var = 0 → (s.me.shape f.a).ty = 12 →
      m < (s.me.shape f.a).rows * (s.me.shape f.a).cols → elem (s.me.tile f.a) 8 m = 0xC0 →
      (∀ j, j < m → elem (s.me.tile f.a) 8 j ≠ 0xC0) →
      let at_ := fun (u : State) => u.modMy (fun x => { x with pc := s.me.seq.pc })
      Runs .joinCompletion s (fun t => t.me.parked = true ∧ t.my.pc = s.my.pc ∧ Faulted (at_ (s.modMe (fun c =>
        { c with seq := { c.seq with busy := false, joining := false } }))) (at_ t) .resFmt 0 (0#32 ++ 0xC0#8 ++ BitVec.ofNat 16 m ++ f.a) s.me.seq.pc))) ∧
  (∀ (f : FT) (s : State), let c := s.core s.cur.args.core
    c.seq.busy = true → c.seq.joining = false → c.seq.since ≤ s.clk → c.seq.instr = some (.tmma f) ∨ c.seq.instr = some (.tmmal f) →
    ((∃ g, s.gangOf s.cur.args.core = some g ∧ g.stopping = true) →
      (∃ n ∈ s.segment s.cur.args.core, let q := (s.core n).seq
        q.busy = true ∧ q.joining = false ∧ q.product?.isSome ∧ q.step < c.seq.step) → Runs .sequencerStep s (· = s)) ∧
    ((∀ g, s.gangOf s.cur.args.core = some g → g.stopping = false) →
    (c.seq.guard = false → Runs .sequencerStep s (fun t => ∃ ops, Fetched151 c ops ∧ t = s.setCore s.cur.args.core { c with
      operands := ops
      seq := { c.seq with step := c.seq.step + 1, busy := decide (c.seq.step + 1 < c.seq.total) } })) ∧
    (c.seq.guard = true → Runs .sequencerStep s (fun t =>
      let x := c.shape f.a
      let y := c.shape f.d
      let b := if f.var = 1 then c.seq.shared.map (fun e => (shapeOf e.1, e.2)) else some (c.shape f.b, c.tile f.b)
      let gone := match (s.segment s.cur.args.core).head? with
        | some z => z ≠ s.cur.args.core ∧ (s.core z).parked = true
        | none => False
      let zero := b = none ∨ f.var = 1 ∧ gone
      let group := if f.ta = 13 then 32 else if f.ta = 9 ∨ f.ta = 10 then 8 else 16
      let kb := if f.kb = 0 then 8 else f.kb.toNat
      let blocks := (List.range ((x.cols + group - 1) / group)).filter
        (fun m => decide (c.seq.step * kb ≤ m ∧ m < (c.seq.step + 1) * kb))
      let terms := fun i j m => ((List.range x.cols).filter (fun k => k / group == m)).map (fun k =>
        (elemAt (c.tile f.a) x i k, match b with | some e => elemAt e.2 e.1 k j | none => 0))
      ∃ v raised ops, Fetched151 c ops ∧ t = s.setCore s.cur.args.core (c.tileStepped f.d v raised ops) ∧
        (∀ n, n < 32768 → 32 * (y.rows * y.cols) ≤ n → v.getLsbD n = (c.tile f.d).getLsbD n) ∧
        ∃ val : Nat → Nat → Nat × FpFlags,
          (∀ i j, (zero → ∃ l : List (List (Nat × Nat)), val i j = l.foldl (fun acc e =>
              let r := addGroup f.ta.toNat acc.1 e true
              (r.1, acc.2 ||| r.2)) (elem (c.tile f.d) 32 (i * y.cols + j), 0) ∧ l.length = blocks.length) ∧
            (¬ zero → val i j = blocks.foldl (fun acc m =>
              let r := addGroup f.ta.toNat acc.1 (terms i j m) false
              (r.1, acc.2 ||| r.2)) (elem (c.tile f.d) 32 (i * y.cols + j), 0))) ∧
          (∀ i j, i < y.rows → j < y.cols → i * y.cols + j < 1024 →
            elem v 32 (i * y.cols + j) = (val i j).1 % 2 ^ 32) ∧
          (∀ n, raised.getLsbD n = (List.range (y.rows * y.cols)).any
            (fun m => (val (m / y.cols) (m % y.cols)).2.getLsbD n))))))

namespace Sys2Proof.Machine

/-- A helper that HSTART can start: not live, given no task, and not h10 of the supervisor core (R166). -/
def Free166 (s : State) (h : Nat) : Prop :=
  (s.me.ctx h).live = false ∧ (s.me.ctx h).ticket = none ∧
  (h = 10 → ∀ g, s.gangOf s.cur.core = some g → g.supervisor ≠ some s.cur.core)

/-- A context begins to wait: nothing of its registers changes, and the instruction is issued anew at the wait's end. -/
structure BeginsWait (s t : State) (k : WaitKind) (limit : Nat) : Prop where
  outside : OnlyMe s t
  contexts : OnlyMyContext s t
  core : { t.me with ctxs := s.me.ctxs } = s.me
  wait : t.my.wait = some { kind := k, since := s.clk, limit := limit }
  rest : { t.my with wait := s.my.wait, issued := s.my.issued } = s.my

/-- The context that starts: start values, the argument in s2, the first issue 4 clk later, its entry to be checked. -/
def started166 (s : State) (f : FE) : Context :=
  { Context.reset with
    s := (Vector.replicate 32 0).setIfInBounds 2 (s.sa f.b)
    pc := linePc s.my.pc f.imm (f.sub.extractLsb' 0 3)
    live := true
    entryCheck := true
    notBefore := s.clk + 4 }

end Sys2Proof.Machine

/-- R166 to R168: HSTART starts the named or the lowest free helper, or the idle hod, and answers its number, 0 or 3; HEND ends
its context and its task, releases the pins of a shipped helper's task, and leaves the tasks that it has put without an issuer
(R229, R332); HJOIN waits for the helpers of its mask and answers HLIVE; HSTAT answers the status of a context. -/
def Obligations.HelpersStartJoinAndEnd : Prop :=
  (∀ (f : FE) (s : State), s.guard f.g f.gn = true →
    let n := (f.flg.extractLsb' 0 4).toNat
    let starts := fun h => Runs (.hstart f) s (fun t => SetsSA s t f.d (BitVec.ofNat 64 h) ∧ GoesOn s t (nextPc s.my.pc) ∧
      t.me.ctx h = started166 s f ∧ (∀ x, x ≠ h → x ≠ s.cur.ctx.val → t.me.ctx x = s.me.ctx x) ∧ SameCore s t ∧
      (∀ c, c ≠ s.cur.core → t.core c = s.core c) ∧ MemoryBut s t (UndoWord s s.cur.core) ∧
      { t with cores := s.cores, mem := s.mem } = s)
    (s.isControl = false → Runs (.hstart f) s (WritesSA s · f.d 3)) ∧
    (s.isControl = true →
      (1 ≤ n → n ≤ 10 → Free166 s n → starts n) ∧
      (∀ h, n = 0 → 1 ≤ h → h ≤ 10 → Free166 s h → (∀ j, 1 ≤ j → j < h → ¬ Free166 s j) → starts h) ∧
      (n = 11 → (s.me.ctx 11).live = false → (s.me.ctx 11).halted = false → starts 11) ∧
      ((1 ≤ n ∧ n ≤ 10 ∧ ¬ Free166 s n) ∨ (n = 0 ∧ ∀ h, 1 ≤ h → h ≤ 10 → ¬ Free166 s h) ∨
          (n = 11 ∧ ((s.me.ctx 11).live = true ∨ (s.me.ctx 11).halted = true)) →
        Runs (.hstart f) s (WritesSA s · f.d 0)))) ∧
  (∀ (f : FE) (s : State),
    let away := fun (t : State) =>
      (Intact s → ∀ a, (∀ l ∈ s.me.dcache, a < l.loc ∨ l.loc + 64 ≤ a) → t.mem.read a = s.mem.read a) ∧
      (∀ c, c ≠ s.cur.core → t.core c = s.core c) ∧ OnlyMyContext s t ∧ t.gangs = s.gangs ∧
      { t.me with ctxs := s.me.ctxs, dcache := s.me.dcache, copies := s.me.copies } = s.me ∧
      ((∀ k ∈ s.me.copies, k.state ≠ .frozen) → t.me.copies = s.me.copies)
    let orphaned := s.tasks.map (fun k => if k.issuer = (s.cur.core, s.cur.ctx.val) then { k with gone := true } else k)
    (s.isControl = true → Runs (.hend f) s (Faulted s · .illegal 0 ((f.word 0x1C1).extractLsb' 32 64) s.my.pc)) ∧
    (s.guard f.g f.gn = true → 1 ≤ s.cur.ctx.val → s.cur.ctx.val ≤ 10 → s.my.shippedTo = none → Runs (.hend f) s (fun t =>
      t.my = Context.reset ∧ away t ∧ t.posts = s.posts ∧
      t.tasks = orphaned.filter (fun k => s.my.ticket != some k.number))) ∧
    (s.guard f.g f.gn = true → 1 ≤ s.cur.ctx.val → s.cur.ctx.val ≤ 10 → s.my.shippedTo ≠ none → Runs (.hend f) s (fun t =>
      t.my = { s.my with halted := true } ∧ away t ∧
      t.tasks = orphaned.map (fun k => if s.my.ticket = some k.number then { k with pins := [] } else k) ∧
      t.posts = s.posts ++ [.helperReturn s.cur.core s.cur.ctx.val])) ∧
    (s.guard f.g f.gn = true → s.isHod = true → Runs (.hend f) s (fun t =>
      t.my = Context.reset ∧ away t ∧ t.posts = s.posts ∧ t.tasks = orphaned))) ∧
  (∀ (s : State), let c := s.cur.args.core
    let n := s.cur.args.ctx.val
    Post.helperReturn c n ∈ s.posts → Runs .helperReturnMessage s (fun t => t.posts = s.posts.erase (.helperReturn c n) ∧
      (t.core c).ctx n = Context.reset ∧ (∀ x, x ≠ n → (t.core c).ctx x = (s.core c).ctx x) ∧
      (∀ d, d ≠ c → t.core d = s.core d) ∧ t.tasks = s.tasks.filter (fun k => ((s.core c).ctx n).ticket != some k.number) ∧
      (∀ a, t.mem.read a = s.mem.read a) ∧ { t with posts := s.posts, cores := s.cores, tasks := s.tasks } = s)) ∧
  (∀ (f : FE) (s : State), s.guard f.g f.gn = true →
    let x := s.me.ctx (f.imm.extractLsb' 0 4).toNat
    let held := fun h => f.imm.getLsbD h = true ∧ h ≠ s.cur.ctx.val ∧ (s.me.ctx h).live = true
    ((∀ h, 1 ≤ h → h ≤ 10 → ¬ held h) → GivesBits (.hjoin f) s f.d
      (fun h => decide (1 ≤ h ∧ h ≤ 10) && (s.me.ctx h).live)) ∧
    ((∃ h, 1 ≤ h ∧ h ≤ 10 ∧ held h) → s.my.wait = none → Runs (.hjoin f) s (BeginsWait s · .hjoin s.me.waitth.toNat)) ∧
    GivesBits (.hstat f) s f.d (fun n => if n = 63 then x.live && !(decide (f.imm.extractLsb' 0 4 = 11) && x.halted)
      else if n = 62 then x.shippedTo.isSome else if n = 61 then x.wait.isSome else decide (n = 60) && x.stop.isSome))

/-- R169, R170, R214, R215: GDETACH makes a stretcher the header of a bond of its own at its target; with .JOIN it follows the
bond of its west neighbour, or answers 2; GATTACH returns at the first GMERGE of its label to reach the core, or answers 1.
The model's readings in it: log 31. -/
def Obligations.BondsLeaveAndRejoin : Prop :=
  ∀ (f : FE) (s : State), s.isControl = true → s.guard f.g f.gn = true →
    let lone := ∀ n, (s.core n).mode ≠ .follower s.cur.core
    let pc := linePc s.my.pc f.imm (f.sub.extractLsb' 0 3)
    let moved := fun (t : State) (v : Word) => OnlyMe s t ∧ OnlyMyContext s t ∧ SetsSA s t f.d v
    (s.me.vx = 0 ∨ s.me.mode ≠ .attached → ∀ i ∈ [Instr.gdetach f, .gdetachJoin f],
      Runs i s (Faulted s · .illegal 0 ((f.word 0x1C4).extractLsb' 32 64) s.my.pc)) ∧
    (s.me.vx ≠ 0 → s.me.mode = .attached →
      (lone → okPc pc = true → Runs (.gdetach f) s (fun t => moved t 0 ∧ t.my.pc = pc ∧ t.my.wait = none ∧
        t.my.entryCheck = true ∧ t.my.notBefore = s.clk + 5 ∧
        { t.me with ctxs := s.me.ctxs } =
          { s.me with mode := .bondHeader, stream := [], conds := [], again := false, redo := false })) ∧
      (lone → okPc pc = false → Runs (.gdetach f) s (fun t => t.me.mode = .bondHeader ∧
        ∃ st, t.my.stop = some st ∧ st.cls = .badTarget ∧ st.pc = pc)) ∧
      (∀ west, s.peer s.cur.core (s.me.vx.toNat - 1) s.me.vy.toNat = some west → (s.core west).mode = .attached →
        Runs (.gdetachJoin f) s (WritesSA s · f.d 2)) ∧
      (∀ west lead, s.peer s.cur.core (s.me.vx.toNat - 1) s.me.vy.toNat = some west →
        ((s.core west).mode = .bondHeader ∧ lead = west) ∨ (s.core west).mode = .follower lead →
        let lag := (s.core west).vx.toNat + (s.core west).vy.toNat - ((s.core lead).vx.toNat + (s.core lead).vy.toNat)
        Runs (.gdetachJoin f) s (fun t => moved t 1 ∧ GoesOn s t (nextPc s.my.pc) ∧ t.me.mode = .follower lead ∧
          { t.me with ctxs := s.me.ctxs, mode := s.me.mode, spos := s.me.spos, checker := s.me.checker, redo := s.me.redo } = s.me ∧
          t.me.redo = false ∧ t.me.checker = { s.me.checker.reopen with active := false } ∧
          (∀ n i, n < t.me.spos → (s.core lead).stream[n]? = some i → i.clk + lag ≤ s.clk) ∧
          (∀ i, (s.core lead).stream[t.me.spos]? = some i → s.clk < i.clk + lag)))) ∧
    (s.me.mode = .attached → Runs (.gattach f) s (WritesSA s · f.d 1)) ∧
    (∀ g, s.me.mode ≠ .attached → s.gangOf s.cur.core = some g →
      let since := match s.my.wait with
        | some w => if w.kind = .gattach (f.imm.extractLsb' 0 16) then w.since else s.clk
        | none => s.clk
      let here := fun (i : StreamItem) => i.clk + (s.me.vx.toNat + s.me.vy.toNat)
      let meets := fun (i : StreamItem) => i.guard = true ∧ since ≤ here i ∧ here i ≤ s.clk ∧
        ∃ m, i.instr = .gmerge m ∧ m.imm.extractLsb' 0 16 = f.imm.extractLsb' 0 16
      (∀ n i, (s.core g.origin).stream[n]? = some i → meets i →
        (∀ k j, k < n → (s.core g.origin).stream[k]? = some j → ¬ meets j) →
        Runs (.gattach f) s (fun t => moved t 0 ∧ GoesOn s t (nextPc s.my.pc) ∧ t.me.mode = .attached ∧ t.me.spos = n + 1 ∧
          t.me.conds = [] ∧ t.me.again = false ∧ t.me.redo = false ∧ t.me.rejoinedAt = s.clk ∧
          { t.me with ctxs := s.me.ctxs, mode := s.me.mode, spos := s.me.spos, checker := s.me.checker, conds := s.me.conds,
                      again := s.me.again, redo := s.me.redo, rejoinedAt := s.me.rejoinedAt } = s.me)) ∧
      ((∀ i ∈ (s.core g.origin).stream, ¬ meets i) → s.my.wait = none → Runs (.gattach f) s
        (BeginsWait s · (.gattach (f.imm.extractLsb' 0 16)) s.me.bto.toNat))) ∧
    Runs (.gmerge f) s (Advances s)

namespace Sys2Proof.Machine

/-- The control context's instruction arrives at the barrier of a scope: a release, and one arrival pending (R171, R316). -/
structure Arrives (s t : State) (scope : Nat) (number : BitVec 8) : Prop where
  memory : Intact s → ∀ a, (∀ l ∈ s.me.dcache, a < l.loc ∨ l.loc + 64 ≤ a) → t.mem.read a = s.mem.read a
  cores : ∀ n, n ≠ s.cur.core → t.core n = s.core n
  contexts : OnlyMyContext s t
  core : { t.me with ctxs := s.me.ctxs, bars := s.me.bars, dcache := s.me.dcache } = s.me
  sa : SameSA s t
  preds : SameP s t
  here : scope < 7 → t.me.bars.getD (scope - 1) {} = { s.me.bars.getD (scope - 1) {} with
    count := (s.me.bars.getD (scope - 1) {}).count + 1, pending := true, number := number, at_ := s.clk }
  others : ∀ m, m ≠ scope - 1 → t.me.bars.getD m {} = s.me.bars.getD m {}
  gangs : t.gangs = s.gangs
  posts : t.posts = s.posts

/-- A barrier instruction completes in a core: D of a BARQ takes 1, and the core goes on at C + 1 + x + y (R172). -/
def afterWait172 (s : State) (n : Nat) (reg : Option (BitVec 8)) (c : Core) : Core :=
  { c with spos := if (s.leader n).isSome then c.spos + 1 else c.spos }.modCtx 0 (fun x =>
    { x.setSA (reg.getD 0) 1 with
        pc := nextPc x.pc, wait := none, issued := false, afterGissue := false,
        notBefore := s.clk + 1 + (c.vx.toNat + c.vy.toNat) })

/-- Clocks from the last arrival to C (Table 8-2), by scope. -/
def clocks172 (g : Gang) (scope : Nat) : Nat :=
  if scope = 1 then 2 else if scope = 2 then 3
  else if scope = 3 then 4 + 2 * ((g.w + 7) / 8 - 1) + 2 * ((g.h + 3) / 4 - 1)
  else if scope = 4 then 16 else if scope = 5 then 60 else 1200

/-- What completion of a barrier of .gang or wider leaves of a gang: no wire but those on their way to another gang, and no
HOLD, unless a phase that a core opened after its arrival is open (R236, R237, R242): log 21. -/
def ended172 (s : State) (wide : Bool) (g : Gang) : Gang :=
  let group := (g.launch.map (·.group)).getD 0
  let h := { g with barrierAt := s.clk, wideAt := if wide then s.clk else g.wideAt }
  if g.cores.any (fun n => (s.core n).phase == .openPhase && !((s.core n).ctx 0).halted) then h
  else { h with
    drivings := g.drivings.filter (fun d => group != 0 && (d.wire.toNat ≥ 960 && s.gangs.any (fun k =>
      k.part == g.part && k.launch.any (·.group == group) && decide (s.phaseClock k.origin ≤ d.ref + 512))))
    holders := [], holds := []
    pastHolds := g.pastHolds ++ g.holds.map (fun h => (h.1, h.2.getD s.clk)) }

/-- A channel entry that has arrived at a participant by C. -/
def emptied172 (clk : Nat) (ps : List Nat) : Post → Bool
  | .channel c _ arrive _ => ps.contains c && decide (arrive ≤ clk)
  | _ => false

/-- What completion of a barrier leaves of a participant without lines of the core data cache (R172). -/
def completed172 (s : State) (n scope : Nat) : Core :=
  let c := s.core n
  let c := { c with bars := c.bars.setIfInBounds (scope - 1) { c.bars.getD (scope - 1) {} with pending := false, raised := false } }
  let c := match ((s.core n).ctx 0).wait with
    | some { kind := .barDone sc reg, .. } => if sc.toNat = scope then afterWait172 s n reg c else c
    | _ => c
  if scope < 3 then c
  else { c with chan := Vector.replicate 4 none, barSince := true
                wideBarSince := c.wideBarSince || decide (scope = 4 ∨ scope = 5)
                phase := if c.phase = .closed then .compute else c.phase }

end Sys2Proof.Machine

/-- R171, R172: BARA and BARW arrive, or wait while their last arrival at the scope is pending; BARW and BARQ wait for
completion, BARQ.TEST answers at once; completion, the clocks of Table 8-2 after the last participant has arrived under one
number, clears the arrivals, lets the waiting cores go on at C + 1 + x + y, and at .gang or wider empties the neighbour channels and permits XPH; a wait
longer than BTO is a BARTIMEOUT of the first waiting participant, with R172's operand, also when all have arrived and the clock of
completion has not come.
The model's readings in it: log 21, log 35 (the operand when none is absent), log 40. -/
def Obligations.BarriersArriveAndComplete : Prop :=
  (∀ (f : FE) (s : State), s.isControl = true → s.guard f.g f.gn = true →
    let scope := f.sub.extractLsb' 0 3
    let pending := (s.me.bars.getD (scope.toNat - 1) {}).pending
    let wait := fun k => some { kind := k, since := s.clk, limit := s.me.bto.toNat : Wait }
    let xphase := 0#48 ++ s.me.phaseEntry
    (s.me.phase = .openPhase → ∀ i ∈ [Instr.barw f, .bara f, .barq f, .barqTest f],
      Runs i s (Faulted s · .xPhase 0 xphase s.my.pc)) ∧
    (s.me.phase ≠ .openPhase →
      (pending = false → Runs (.bara f) s (fun t => Arrives s t scope.toNat (f.imm.extractLsb' 0 8) ∧
        GoesOn s t (nextPc s.my.pc))) ∧
      (pending = false → s.my.wait = none → Runs (.barw f) s (fun t => Arrives s t scope.toNat (f.imm.extractLsb' 0 8) ∧
        t.my.wait = wait (.barDone scope none) ∧ { t.my with wait := none, issued := s.my.issued } = s.my)) ∧
      (pending = true → s.my.wait = none → ∀ i ∈ [Instr.bara f, .barw f],
        Runs i s (BeginsWait s · (.barArrive scope) s.me.bto.toNat)) ∧
      (∀ w, pending = false → s.my.wait = some w → w.kind = .barDone scope none → Runs (.barw f) s (Advances s)) ∧
      (pending = true → s.my.wait = none → Runs (.barq f) s (BeginsWait s · (.barDone scope (some f.d)) s.me.bto.toNat)) ∧
      (pending = false → Runs (.barq f) s (WritesSA s · f.d 1)) ∧
      Runs (.barqTest f) s (WritesSA s · f.d (if pending then 0 else 1)))) ∧
  (∀ (s : State) (number : BitVec 8), let scope := s.cur.args.index
    let ps := s.participants s.cur.args.core (BitVec.ofNat 3 scope)
    let gangs := s.barrierGangs s.cur.args.core (BitVec.ofNat 3 scope)
    let bar := fun n => (s.core n).bars.getD (scope - 1) {}
    ∀ g, s.gangOf s.cur.args.core = some g → (s.gangs.map (·.gid)).Nodup →
    (∀ n ∈ ps, (bar n).pending = true → (bar n).at_ + clocks172 g scope ≤ s.clk) →
    (∀ n ∈ ps, (bar n).pending = false → (s.core n).haltedAt + clocks172 g scope ≤ s.clk) →
    1 ≤ scope → scope ≤ 6 → (∀ g ∈ gangs, g.state = .running) → ps.Nodup →
    (∀ n ∈ ps, (bar n).pending = true ∨ ((s.core n).ctx 0).halted = true) →
    (∀ n ∈ ps, (bar n).pending = true → (bar n).number = number) → (∃ n ∈ ps, (bar n).pending = true) →
    (∀ n ∈ ps, (s.core n).dcache = [] ∧ (s.core n).resil = false) →
    Runs .barrierCompletion s (fun t => (∀ n ∈ ps, t.core n = completed172 s n scope) ∧
      (∀ n, n ∉ ps → t.core n = s.core n) ∧ (∀ a, t.mem.read a = s.mem.read a) ∧
      t.gangs = (if scope < 3 then s.gangs else s.gangs.map (fun g =>
        if gangs.contains g then ended172 s (decide (scope = 4 ∨ scope = 5)) g else g)) ∧
      t.posts = (if scope < 3 then s.posts else s.posts.filter (fun p => !emptied172 s.clk ps p)) ∧
      { t with cores := s.cores, gangs := s.gangs, posts := s.posts } = s)) ∧
  (∀ (s : State) (w : Wait) (scope : BitVec 3) (reg : BitVec 8) (r : Nat), let core := s.cur.args.core
    let x := (s.core core).ctx 0
    let ps := s.participants core scope
    let absent := ps.filter (fun n => !((s.core n).bars.getD (scope.toNat - 1) {}).pending && !((s.core n).ctx 0).halted)
    let waits := fun n => ∃ v, ((s.core n).ctx 0).wait = some v ∧ (v.kind = .barArrive scope ∨ ∃ d, v.kind = .barDone scope d)
    x.stop = none → x.halted = false → (s.core core).parked = false → (s.core core).seq.joining = false →
    x.afterGissue = false → s.isHeld core = false →
    (∀ g, g ∈ s.barrierGangs core scope ∨ g ∈ s.barrierGangs r scope → g.state ≠ .saved) →
    x.wait = some w → w.kind = .barArrive scope ∨ w.kind = .barDone scope reg → w.limit < s.clk - w.since →
    ((s.core core).bars.getD (scope.toNat - 1) {}).raised = false →
    (∀ before after : List Nat, ps = before ++ r :: after → s.participants r scope = ps → (∀ n ∈ before, ¬ waits n) → waits r →
      s.cur.core = r → s.cur.ctx = 0 →
      let number := (s.me.bars.getD (scope.toNat - 1) {}).number
      let operand := match absent with
        | [] => 0xFFFF#16 ++ 0#3 ++ 0x1F#5 ++ 0#2 ++ 0x3F#6 ++ 0#16 ++ number ++ 1#1 ++ 0#4 ++ scope
        | a :: _ => (if 4 ≤ scope.toNat then (s.core a).gid else 0) ++ 0#3 ++ (s.core a).vy ++ 0#2 ++ (s.core a).vx ++
            BitVec.ofNat 16 absent.length ++ number ++ 0#5 ++ scope
      Runs .btoExpiry s (fun t => ∃ u, Faulted s u .barTimeout 0 operand s.my.pc ∧
        t = ps.foldl (fun u n => u.modCore n (·.setRaised scope true)) u)))

namespace Sys2Proof.Machine

/-- A wire that an entry lets a core use (R235). -/
def wired235 (e : PlanEntry) (w : BitVec 10) : Prop := w.toNat < 960 ∨ e.getLsbD 48 = true

/-- The entry of the slot table in force in the core. -/
def inForce (s : State) (n : BitVec 16) : PlanEntry :=
  match s.gangOf s.cur.core with
  | some g => g.plan.getD n.toNat 0
  | none => 0

/-- An entry that XPH accepts: reserved bits zero, LEN not zero, WLO not above WHI (R235). -/
def sound235 (e : PlanEntry) : Prop :=
  e.extractLsb' 26 6 = 0 ∧ e.extractLsb' 42 6 = 0 ∧ e.extractLsb' 49 79 = 0 ∧ e.extractLsb' 0 16 ≠ 0 ∧
  (e.extractLsb' 16 10).toNat ≤ (e.extractLsb' 32 10).toNat

end Sys2Proof.Machine

/-- R173, R233 to R242, R249: XPH opens a phase under a sound entry after a barrier, XSEND drives a wire and XMUX selects one in
an open phase, XEND closes the phase at its length once the captures are done and no driving of the core may still meet another,
and each is XPHASE elsewhere; captures read the one driving of the phase that is present at the tap, two are XCOLLIDE; HOLD and
the throttle.
The model's readings in it: log 21. -/
def Obligations.ExchangePhasesDriveAndCapture : Prop :=
  (∀ (f : FE) (s : State), s.guard f.g f.gn = true →
    let wire := f.imm.extractLsb' 0 10
    let plan := f.imm.extractLsb' 0 16
    let e := inForce s s.me.phaseEntry
    let len := s.me.phaseStart + (e.extractLsb' 0 16).toNat
    let clk := s.phaseClock s.cur.core
    let xphase := fun i (w : BitVec 10) (n : BitVec 16) => Runs i s (Faulted s · .xPhase 0 (0#38 ++ w ++ n) s.my.pc)
    let drives := fun (u t : State) (d : Driving) => Advances s u ∧ t = { u with gangs := s.gangs.map (fun g =>
      if g.gid == s.me.gid then { g with drivings := g.drivings ++ [d] } else g) }
    (s.isControl = false → xphase (.xph f) 0 plan ∧ xphase (.xsend f) wire s.me.phaseEntry ∧
      xphase (.xmux f) wire s.me.phaseEntry ∧ xphase (.xend f) 0 s.me.phaseEntry) ∧
    (s.isControl = true →
      (∀ g, s.gangOf s.cur.core = some g → plan.toNat < g.plan.length → s.me.phase = .compute → s.me.barSince = true →
        sound235 (inForce s plan) → ((inForce s plan).getLsbD 48 = true → s.me.wideBarSince = true) →
        Runs (.xph f) s (LeavesCore s · { s.me with
          phase := .openPhase, phaseEntry := plan, phaseStart := clk, phaseEpoch := (g.barrierAt, g.wideAt) })) ∧
      ((∀ g, s.gangOf s.cur.core = some g → g.plan.length ≤ plan.toNat) ∨ s.me.phase ≠ .compute ∨ s.me.barSince = false ∨
        ¬ sound235 (inForce s plan) ∨ ((inForce s plan).getLsbD 48 = true ∧ s.me.wideBarSince = false) →
        xphase (.xph f) 0 plan) ∧
      (s.me.phase = .openPhase → wired235 e wire → (e.extractLsb' 16 10).toNat ≤ wire.toNat →
        wire.toNat ≤ (e.extractLsb' 32 10).toNat → Runs (.xsend f) s (fun t => ∃ u, drives u t
          { core := s.cur.core, wire := wire, val := s.sa f.a, clk := clk, pc := s.my.pc
            ref := clk - (s.me.vx.toNat + s.me.vy.toNat), die := s.cur.core / 2048, epoch := s.me.phaseEpoch })) ∧
      (s.me.phase ≠ .openPhase ∨ ¬ wired235 e wire ∨ wire.toNat < (e.extractLsb' 16 10).toNat ∨
        (e.extractLsb' 32 10).toNat < wire.toNat → xphase (.xsend f) wire s.me.phaseEntry) ∧
      (s.me.phase = .openPhase → wired235 e wire → Runs (.xmux f) s (LeavesCore s · { s.me with
        captures := s.me.captures ++ [{ reg := f.d, wire := wire, phaseClk := clk + f.flg.toNat, pc := s.my.pc }] })) ∧
      (s.me.phase ≠ .openPhase ∨ ¬ wired235 e wire → xphase (.xmux f) wire s.me.phaseEntry) ∧
      (s.me.phase = .openPhase → clk = len → s.collided s.cur.core = none → s.mayCollide s.cur.core = false →
        (∀ k ∈ s.me.captures, k.phaseClk ≤ clk) → Runs (.xend f) s
        (LeavesCore s · { s.me with phase := .closed, barSince := false, wideBarSince := false })) ∧
      (s.me.phase = .openPhase → clk = len → s.collided s.cur.core = none →
        (∃ k ∈ s.me.captures, clk < k.phaseClk) ∨ s.mayCollide s.cur.core = true → s.my.wait = none →
        Runs (.xend f) s (BeginsWait s · .engine 0)) ∧
      (s.me.phase ≠ .openPhase ∨ (s.my.wait = none ∧ clk ≠ len) → xphase (.xend f) 0 s.me.phaseEntry))) ∧
  (∀ (s : State) (k : Capture), let c := s.cur.args.core
    let present := fun (d : Driving) => d.wire = k.wire ∧ d.clk + s.delay d.core c = k.phaseClk ∧ d.epoch = (s.core c).phaseEpoch
    (s.core c).captures = [k] → k.phaseClk ≤ s.phaseClock c → (s.core c).excluded = false → k.wire.toNat < 960 →
    Table.find s.bad (Config.wireLoc c k.wire.toNat) = none →
    ∀ g, s.gangOf c = some g →
    Runs .xmuxCapture s (fun t => ∃ v, t = s.setCore c ({ s.core c with captures := [] }.modCtx 0 (·.setSA k.reg v)) ∧
      ((∀ d ∈ g.drivings, ¬ present d) → v = 0) ∧
      (∀ (before after : List Driving) (d : Driving), g.drivings = before ++ d :: after → present d → (∀ x ∈ before ++ after, ¬ present x) → v = d.val) ∧
      (∀ (before mid after : List Driving) (d x : Driving), g.drivings = before ++ d :: mid ++ x :: after → present d → present x → v = 0))) ∧
  (∀ (s : State) (d e : Driving), let tap := s.cur.args.core
    let wire := BitVec.ofNat 10 s.cur.args.index
    s.collisions tap wire = [d, e] → d.core = s.cur.core → e.core ≠ d.core → s.cur.ctx = 0 → s.my.stop = none →
    d.reported = false → (∃ g, s.gangOf d.core = some g ∧ d ∈ g.drivings) → s.my.halted = false → s.my.wait = none → s.me.fltAt.1 ≠ s.clk →
    Runs .xcollideSense s (fun t => t.my.stop = some { cls := .xCollide, pc := d.pc, wait := none, at_ := s.clk } ∧
      t.me.fltrec.w0.extractLsb' 16 8 = 10 ∧ t.me.fltrec.w1 = d.pc ∧ t.me.fltrec.w3 = 1#1 ++ 0x7FFF#15 ++ s.my.pc.extractLsb' 0 48 ∧
      t.me.fltrec.w2 = 0#38 ++ d.wire ++ 0#3 ++ (s.core tap).vy ++ 0#2 ++ (s.core tap).vx ∧
      (∀ n, n ≠ s.cur.core → n ≠ e.core → t.core n = s.core n) ∧ (∀ a, t.mem.read a = s.mem.read a))) ∧
  (∀ (s : State) (g : Gang), s.gang? s.cur.args.gid = some g →
    let i := s.cur.args.index
    let open_ := ∃ n ∈ g.cores, (s.core n).phase = .openPhase ∧ ((s.core n).ctx 0).halted = false
    let span := 4 + 2 * ((g.w + 7) / 8 - 1) + 2 * ((g.h + 3) / 4 - 1)
    let change := fun (k : Gang → Gang) (t : State) =>
      t = { s with gangs := s.gangs.map (fun h => if h.gid == s.cur.args.gid then k h else h) }
    (open_ → i ∉ g.holders → Runs .holdRaise s (change (fun h => { h with
      holders := i :: h.holders
      holds := if h.holders = [] then (s.clk + span, none) :: h.holds else h.holds }))) ∧
    (i ∈ g.holders → Runs .holdRelease s (change (fun h => { h with
      holders := g.holders.filter (· ≠ i)
      holds := if g.holders.filter (· ≠ i) = [] then h.holds.map (fun x => (x.1, x.2.or (some (s.clk + span)))) else h.holds }))) ∧
    (∀ mhz at_, g.throttle = some (mhz, at_) → (∀ h ∈ s.gangs, h.gid = g.gid → h = g) →
      (g.barrierAt = s.clk → Runs .throttleChange s (change (fun h => { h with mhz := mhz, throttle := none }))) ∧
      (max at_ g.barrierAt + s.service.throttleUs * s.service.mhz ≤ s.clk → ¬ open_ →
        Runs .throttleLimitExpiry s (change (fun h => { h with mhz := mhz, throttle := none })))))

namespace Sys2Proof.Machine

/-- An entry of the copy table that its copy still uses (R174). -/
def used174 (k : Copy) : Bool := k.state == .running || k.state == .frozen || !k.owed.isEmpty

/-- A control register as a context reads it (R22): from before a write that another context made in this clock. -/
def seen22 (s : State) (n : Nat) (now : Word) : Word :=
  if s.me.crWrites.1 = s.clk ∧ ∀ e ∈ s.me.crWrites.2, e.1 = n → e.2.1 ≠ s.cur.ctx.val then
    match s.me.crWrites.2.find? (fun e => e.1 == n) with
    | some e => e.2.2
    | none => now
  else now

/-- The windows in force for a command that is accepted now (R27, R221). -/
def windows221 (s : State) : List (Word × Word × Word) :=
  (List.range 16).map (fun i => (seen22 s (0x100 + i) (s.me.vwb.getD i 0), seen22 s (0x110 + i) (s.me.vwl.getD i 0),
    seen22 s (0x120 + i) (s.me.vwi.getD i 0)))

/-- The copy that a command starts (R174, R175, R221). -/
def newCopy (s : State) (f : FE) (q : CopyCommand) : Copy :=
  let n := q.dam.toNat - 8
  let b := s.me.cbuf.getD n {}
  { id := f.imm.extractLsb' 0 16, kind := q.kind, state := .running, dam := q.dam, sam := q.sam,
    dst := if 8 ≤ q.dam.toNat then BitVec.ofNat 64 (b.base + b.wcur * b.size) else q.dst,
    src := q.src, esz := q.esz, dims := q.dims, total := (q.dims.map (·.1)).foldl (· * ·) 1, count := 0,
    colour := f.flg.extractLsb' 0 3, ring := if f.d = 0 then none else some (s.sa f.d).toNat,
    cbuf := if 8 ≤ q.dam.toNat then some (n, b.wcur) else none, pc := s.my.pc, windows := windows221 s,
    chip := s.chipOf s.cur.core, seq := s.me.copySeq, ended := 0, fcode := 0, combine := q.combine, mixedOrder := false,
    sent := false, owed := [], gone := false }

/-- A command is accepted, or waits for an entry or for a slot of its circular buffer (R174, R175). At acceptance the core's
dirty SI bytes go home (Table 13-2), and the caches may give up DT lines (R259). -/
structure Accepts (i : Instr) (s : State) (f : FE) (q : CopyCommand) : Prop where
  ok : ∀ (b : CBuf), let id := f.imm.extractLsb' 0 16
    let n := q.dam.toNat - 8
    b = s.me.cbuf.getD n {} → (∀ j ∈ s.me.entries, j.id = id → used174 j = false) → (8 ≤ q.dam.toNat → 0 < b.free) →
    let goes := fun (t : State) (kept : List Copy) => t.me.entries = kept ++ [newCopy s f q] ∧
      t.me.copySeq = s.me.copySeq + 1 ∧
      t.me.cbuf = (if 8 ≤ q.dam.toNat then s.me.cbuf.setIfInBounds n { b with
        free := b.free - 1, wout := b.wout + 1, wcur := (b.wcur + 1) % b.slots, pending := b.pending ++ [(b.wcur, true, false)] }
        else s.me.cbuf) ∧
      { t.me with ctxs := s.me.ctxs, copies := s.me.copies, copySeq := s.me.copySeq, cbuf := s.me.cbuf,
                  dcache := s.me.dcache } = s.me ∧
      GoesOn s t (nextPc s.my.pc) ∧ SameSA s t ∧ SameP s t ∧ OnlyMyContext s t ∧
      (∀ c, c ≠ s.cur.core → SameButLines (s.core c) (t.core c)) ∧ OnlyCaches s t ∧
      (Intact s → MemoryBut s t (fun a => UndoWord s s.cur.core a ∨
        ∃ l ∈ s.me.dcache, l.coh = 1 ∧ l.loc ≤ a ∧ a < l.loc + 64))
    (s.me.entries.length < 32 → Runs i s (goes · s.me.entries)) ∧
    (∀ o ∈ s.me.entries, 32 ≤ s.me.entries.length → used174 o = false →
      (∀ j ∈ s.me.entries, used174 j = false → j ≠ o → o.ended < j.ended) →
      Runs i s (goes · (s.me.entries.filter (·.seq != o.seq))))
  entry : s.my.wait = none → (∃ j ∈ s.me.entries, j.id = f.imm.extractLsb' 0 16 ∧ used174 j = true) ∨
      (32 ≤ s.me.entries.length ∧ ∀ j ∈ s.me.entries, used174 j = true) →
    Runs i s (BeginsWait s · .copyEntry s.me.waitth.toNat)
  slot : s.my.wait = none → (∀ j ∈ s.me.entries, j.id = f.imm.extractLsb' 0 16 → used174 j = false) →
    s.me.entries.length < 32 → 8 ≤ q.dam.toNat → (s.me.cbuf.getD (q.dam.toNat - 8) {}).free = 0 →
    Runs i s (BeginsWait s · .cbufSlot s.me.waitth.toNat)

/-- The own scratchpad gives `n` bytes at an aligned offset: no check of R187 fails and no byte is uncorrectable. -/
def Readable187 (s : State) (align n : Nat) (o : Word) : Prop :=
  o.toNat % align = 0 ∧ o.toNat + n ≤ 131072 ∧ (s.me.resil = true → o.toNat + n ≤ 0x1C000) ∧
  s.ownUce s.cur.core o.toNat n = none

end Sys2Proof.Machine

/-- R174 to R177, R221, R225: a copy command in the hod starts a running copy with the windows and segments of its acceptance,
or waits; a bad length is PROT 4; CPYC cancels, but not a copy whose last element lands in its clock (R188), and CPYR resumes,
or they answer 1.
The model's readings in it: logs 32, 41. -/
def Obligations.CopyCommandsStartCancelAndResume : Prop :=
  ∀ (f : FE) (s : State), s.isHod = true → s.guard f.g f.gn = true →
    let len := s.sa f.c
    let dam := f.sub.extractLsb' 4 4
    let sam := f.sub.extractLsb' 0 4
    let sized := 0 < len.toNat ∧ len.toNat ≤ 2 ^ 40
    let fits := 8 ≤ dam.toNat → len.toNat ≤ (s.me.cbuf.getD (dam.toNat - 8) {}).size
    let line := [(len.toNat, (1 : Int), (1 : Int))]
    let same := fun (t : State) => GoesOn s t (nextPc s.my.pc) ∧ SameP s t ∧ OnlyMyContext s t ∧
      (∀ c, c ≠ s.cur.core → t.core c = s.core c) ∧ MemoryBut s t (UndoWord s s.cur.core) ∧
      { t with cores := s.cores, mem := s.mem } = s
    (sized → fits → Accepts (.cpy f) s f { kind := .cpy, dam := dam, sam := sam, dst := s.sa f.a, src := s.sa f.b, esz := 1,
                                           dims := line }) ∧
    (¬ sized ∨ ¬ fits → Runs (.cpy f) s (Faulted s · .prot 4 len s.my.pc)) ∧
    (sized → Accepts (.cpycmb f) s f { kind := .cpycmb, dam := 0, sam := sam, dst := s.sa f.a, src := s.sa f.b, esz := 1,
                                       dims := line, combine := some ((f.imm.extractLsb' 16 16).toNat, f.var) }) ∧
    (¬ sized → Runs (.cpycmb f) s (Faulted s · .prot 4 len s.my.pc)) ∧
    (Readable187 s 32 128 (s.sa f.a) →
      let x := s.spNat s.cur.core (s.sa f.a).toNat 128
      let word := fun n => BitVec.ofNat 64 (x / 2 ^ (8 * n))
      (badRecord x = true → Runs (.cpyn f) s (Faulted s · .illegal 0 ((f.word 0x1CF).extractLsb' 32 64) s.my.pc)) ∧
      (badRecord x = false → Accepts (.cpyn f) s f
        { kind := .cpyn, dam := (word 0x12).extractLsb' 4 4, sam := (word 0x12).extractLsb' 0 4, dst := word 0, src := word 8,
          esz := 2 ^ ((word 0x10).extractLsb' 0 2).toNat,
          dims := (List.range ((word 0x11).extractLsb' 0 8).toNat).map (fun j =>
            (((word (0x18 + 4 * j)).extractLsb' 0 32).toNat, (word (0x30 + 8 * j)).toInt, (word (0x58 + 8 * j)).toInt)) })) ∧
    ((s.sa f.a).toNat % 32 ≠ 0 → Runs (.cpyn f) s (Faulted s · .prot 3 (s.sa f.a) s.my.pc)) ∧
    (let landed := fun (k : Copy) => k.total ≤ k.count ∧ ∃ l, k.landed = some l ∧ l.1 = s.clk
     let active := fun (k : Copy) => k.id = f.imm.extractLsb' 0 16 ∧ ((k.state = .running ∧ ¬ landed k) ∨ k.state = .frozen)
     let frozen := fun (k : Copy) => k.id = f.imm.extractLsb' 0 16 ∧ k.state = .frozen
     ((∀ k ∈ s.me.entries, ¬ active k) → Runs (.cpyc f) s (fun t => same t ∧ SetsSA s t f.d 1 ∧ t.me.copies = s.me.copies)) ∧
     ((∀ k ∈ s.me.entries, ¬ frozen k) → Runs (.cpyr f) s (fun t => same t ∧ SetsSA s t f.d 1 ∧ t.me.copies = s.me.copies)) ∧
     (∀ (before after : List Copy) (k : Copy), s.me.entries = before ++ k :: after → (∀ j ∈ before, ¬ active j) → active k →
       Runs (.cpyc f) s (fun t => same t ∧ SetsSA s t f.d 0 ∧ t.me.cbuf = (s.me.fillSlot k.cbuf).cbuf ∧ t.me.copies = s.me.copies.map (fun j =>
         if j.seq == k.seq then { j with state := .cancelled, ended := s.clk, owed := j.owed.filter (·.status != 0) ++
           if j.ring.isSome then [{ status := 2, fcode := j.fcode, count := j.count }] else [] } else j))) ∧
     (∀ (before after : List Copy) (k : Copy), s.me.entries = before ++ k :: after → (∀ j ∈ before, ¬ frozen j) → frozen k →
       Runs (.cpyr f) s (fun t => same t ∧ SetsSA s t f.d 0 ∧ t.me.cbuf = s.me.cbuf ∧ t.me.copies = s.me.copies.map (fun j =>
         if j.seq == k.seq then { j with state := .running, fcode := 0 } else j))))

/-- R220, R224 to R226, R164: a copy that no earlier one holds back lands its next element, reading before it writes, when the
element after it lies in another sector, and after its last owes its record or is complete; COUNT before the clock is kept for
the reads of that clock (R18); a trap freezes it at COUNT and posts an asynchronous record; an owed record is written
at HEAD of its ring, and the COMPLETE one completes the copy.
The model's readings in it: log 20. -/
def Obligations.CopiesLandFreezeAndComplete : Prop :=
  ∀ (s : State) (k : Copy), let c := s.cur.args.core
    let me := s.core c
    me.entries[s.cur.args.index]? = some k → (∀ n, (s.core n).resil = false) → (∀ j ∈ me.copies, j.state ≠ .frozen) →
    let others := fun (t : State) => (∀ n, n ≠ c → SameButLines (s.core n) (t.core n)) ∧
      { t.core c with copies := me.copies, cbuf := me.cbuf, dcache := me.dcache } = me
    let moved := fun (j : Copy) => { j with
      count := k.count + 1
      landed := some (s.clk, match j.landed with | some (at_, before) => if at_ = s.clk then before else j.count | none => j.count) }
    let owes := fun (j : Copy) (status : Nat) => { j with owed :=
      if j.ring.isSome then j.owed ++ [{ status := status, fcode := j.fcode, count := j.count }] else j.owed }
    let sector := fun (n : Nat) => (k.dst + BitVec.ofInt 64 (strideSum (·.2.1) k.dims n)).toNat / 32
    let change := fun (g : Copy → Copy) => me.copies.map (fun j => if j.seq == k.seq then g j else j)
    (k.state = .running → k.kind ≠ .cpycmb → k.count < k.total → s.heldByEarlier c k = false → 1 ≤ k.esz → k.esz ≤ 64 →
      Intact s → (k.count + 1 = k.total ∨ sector (k.count + 1) ≠ sector k.count) →
      ∀ from_ to_ : List Place, k.refused = false →
        s.placeRun c k (amOf k.sam) { r := true } (run (k.src + BitVec.ofInt 64 (strideSum (·.2.2) k.dims k.count)) k.esz) = .ok from_ →
        s.placeRun c k (amOf k.dam) { w := true } (run (k.dst + BitVec.ofInt 64 (strideSum (·.2.1) k.dims k.count)) k.esz) = .ok to_ →
        s.cur.args.count ≤ 1 → Runs .copyLanding s (fun t => others t ∧
          (∀ a, t.mem.read a = (writesAt s.mem to_ (from_.map (fun p => s.mem.read p.loc))).read a) ∧
          (k.count + 1 < k.total → (t.core c).copies = change moved ∧ (t.core c).cbuf = me.cbuf) ∧
          (k.count + 1 = k.total → k.ring ≠ none → (t.core c).cbuf = me.cbuf ∧
            (t.core c).copies = change (fun j => owes (moved j) 0)) ∧
          (k.count + 1 = k.total → k.ring = none → (t.core c).cbuf = (me.fillSlot k.cbuf).cbuf ∧
            (t.core c).copies = change (fun j => { moved j with state := .complete, ended := s.clk })))) ∧
    (k.state = .running → me.fltAt.1 ≠ s.clk → ∀ (cls : FaultClass) (code : Nat) (o : Word),
      s.copyTrap c k = some (.fault cls code o) →
      let idx := match k.ring with
        | some r => BitVec.ofNat 15 (s.spNat c (r + 0x10) 8 + k.owed.length)
        | none => 0x7FFF#15
      Runs .copyFault s (fun t => (∀ n, n ≠ c → t.core n = s.core n) ∧ (∀ a, t.mem.read a = s.mem.read a) ∧
        (t.core c).ctxs = me.ctxs ∧ (t.core c).cbuf = me.cbuf ∧
        (t.core c).fltrec.w0.extractLsb' 0 24 = BitVec.ofNat 8 cls.number ++ BitVec.ofNat 16 code ∧
        (t.core c).fltrec.w0.extractLsb' 48 4 = 11 ∧ (t.core c).fltrec.w1 = k.pc ∧ (t.core c).fltrec.w2 = o ∧
        (t.core c).fltrec.w3 = 1#1 ++ idx ++ (me.ctx 11).pc.extractLsb' 0 48 ∧
        (me.programsEnded = false → (t.core c).copies = change (fun j => owes { j with
          state := .frozen, fcode := 0#8 ++ BitVec.ofNat 8 cls.number ++ BitVec.ofNat 16 code } 1)))) ∧
    (∀ (rec_ : CopyRecord) (rest : List CopyRecord) (r : Nat) (ps : List Place), k.owed = rec_ :: rest → k.ring = some r →
      Intact s →
      let x := s.spNat c r 32
      let base := BitVec.ofNat 64 x
      let head := BitVec.ofNat 64 (x / 2 ^ 128)
      let tail := BitVec.ofNat 64 (x / 2 ^ 192)
      let log := x / 2 ^ 72 % 32
      let mode := x / 2 ^ 64 % 4
      let kind := match k.kind with | .cpy => 0 | .cpyn => 1 | .cpycmb => 2
      r % 32 = 0 → r + 32 ≤ 131072 → mode < 2 → 1 ≤ log → log ≤ 12 → (head - tail).toNat ≠ 2 ^ log →
      s.placeRun c k mode { w := true } (run (base + BitVec.ofNat 64 (32 * (head.toNat % 2 ^ log))) 32) = .ok ps →
      Runs .copyComplete s (fun t => others t ∧
        (t.core c).cbuf = (if rec_.status = 0 then me.fillSlot k.cbuf else me).cbuf ∧
        (t.core c).copies = change (fun j => if rec_.status = 0
          then { j with owed := j.owed.drop 1, state := .complete, ended := s.clk } else { j with owed := j.owed.drop 1 }) ∧
        ∀ a, t.mem.read a = (Memory.writeBytes (writesAt s.mem ps
            (bytesOfNat 4 (k.id.toNat + rec_.status * 2 ^ 16 + kind * 2 ^ 24 +
              (if k.cbuf.isSome then 2 ^ 26 else 0) + (if k.mixedOrder then 2 ^ 27 else 0)) ++
             bytesOfNat 4 rec_.fcode.toNat ++ bytesOfNat 8 (rec_.count * k.esz) ++ bytesOfNat 8 rec_.count ++
             bytesOfNat 8 s.tbase.toNat))
          (Config.spLoc c (r + 0x10)) (bytesOfNat 8 (head + 1).toNat)).read a))

namespace Sys2Proof.Machine

/-- The instruction has retired with an acquire (Table 13-2): the SI lines of the core are written home and dropped. -/
structure Acquired (s t : State) : Prop where
  contexts : OnlyMyContext s t
  goes : GoesOn s t (nextPc s.my.pc)
  core : { t.me with ctxs := s.me.ctxs } = { s.me with dcache := s.me.dcache.filter (fun l => l.coh != 1) }
  cores : ∀ c, c ≠ s.cur.core → t.core c = s.core c
  outside : OnlyCaches s t
  memory : Intact s → ∀ a, (∀ l ∈ s.me.dcache, l.coh = 1 → a < l.loc ∨ l.loc + 64 ≤ a) → t.mem.read a = s.mem.read a

end Sys2Proof.Machine

/-- R178 to R180, R223, R226, R227: WMSET binds a register to the latest copy of an id and WMCLR unbinds it, WMRD reads Table 1-4,
WMRD.ADDR the next destination of an armed CPY, both from before a landing of their clock (R18); CBINIT, CBACQ and CBREL move the counts of a circular buffer or wait; CRWAIT waits
for records, CRPOP takes the oldest, and each that takes one is an acquire. -/
def Obligations.WatermarksRingsAndBuffers : Prop :=
  ∀ (f : FE) (s : State), s.guard f.g f.gn = true →
    let id := f.imm.extractLsb' 0 16
    let binds := fun (w : Watermark) t => LeavesCore s t { s.me with wm := s.me.wm.setIfInBounds (f.d.toNat - 104) w }
    let w := s.me.wm.getD (f.a.toNat - 104) Watermark.clear
    let word := fun (poison frozen done : Bool) (count : Nat) => (· = BitVec.ofBool w.arm ++ BitVec.ofBool poison ++
      BitVec.ofBool frozen ++ BitVec.ofBool done ++ w.cid ++ BitVec.ofNat 44 count)
    let n := (f.imm.extractLsb' 0 3).toNat
    let b := s.me.cbuf.getD n {}
    let buffer := fun (b : CBuf) (t : State) => LeavesCore s t { s.me with cbuf := s.me.cbuf.setIfInBounds n b }
    let holds := fun (t : State) (b : CBuf) =>
      { t.me with ctxs := s.me.ctxs } = { s.me with cbuf := s.me.cbuf.setIfInBounds n b }
    let slots := (f.imm.extractLsb' 8 8).toNat + 1
    let size := (s.sa f.b).toNat
    (s.isHod = true →
      ((∀ k ∈ s.me.entries, k.id ≠ id) → Runs (.wmset f) s
        (binds { arm := true, cid := id, copy := none, poison := false, frozen := false, done := true, count := 0,
                 boundAt := s.clk })) ∧
      (∀ (before after : List Copy) (k : Copy), s.me.entries = before ++ k :: after → k.id = id → (∀ j ∈ after, j.id ≠ id) → Runs (.wmset f) s
        (binds { arm := true, cid := id, copy := some k.seq, poison := false, frozen := false, done := false,
                 count := 0, boundAt := s.clk })) ∧
      Runs (.wmclr f) s (binds Watermark.clear)) ∧
    (w.copy = none ∨ (∃ q, w.copy = some q ∧ ∀ k ∈ s.me.copies, k.seq ≠ q) → Gives (.wmrd f) s f.d (word w.poison w.frozen w.done w.count) ∧
      Gives (.wmrdAddr f) s f.d (· = 0xFFFFFFFFFFFFFFFF)) ∧
    (∀ (before after : List Copy) (k : Copy) (q : Nat), w.copy = some q → s.me.copies = before ++ k :: after → k.seq = q → (∀ j ∈ before, j.seq ≠ q) →
      ∀ (count : Nat) (lands : Bool), (lands = true → ∃ at_, k.landed = some (at_, count) ∧ at_ = s.clk) →
      (lands = false → count = k.count ∧ ∀ at_ before, k.landed = some (at_, before) → at_ ≠ s.clk) →
      Gives (.wmrd f) s f.d (word (k.state == .cancelled) (k.state == .frozen) (k.state == .complete && !lands) count) ∧
      Gives (.wmrdAddr f) s f.d (· = if w.arm = true ∧ k.kind = .cpy then k.dst + BitVec.ofNat 64 count
        else 0xFFFFFFFFFFFFFFFF)) ∧
    (size % 32 ≠ 0 ∨ size < 32 ∨ 65536 < size → Runs (.cbinit f) s (Faulted s · .prot 4 (s.sa f.a) s.my.pc)) ∧
    (size % 32 = 0 → 32 ≤ size → size ≤ 65536 → (s.sa f.a).toNat + size * slots ≤ 131072 →
      (s.me.resil = true → (s.sa f.a).toNat + size * slots ≤ 0x1C000) →
      ((∀ k ∈ s.me.copies, ∀ x, k.cbuf = some (n, x) → k.state ≠ .running ∧ k.state ≠ .frozen) → Runs (.cbinit f) s
        (buffer { base := (s.sa f.a).toNat, size := size, slots := slots, free := slots, filled := 0, rout := 0, wout := 0,
                  rcur := 0, wcur := 0, pending := [] })) ∧
      (s.my.wait = none → (∃ k ∈ s.me.copies, ∃ x, k.cbuf = some (n, x) ∧ (k.state = .running ∨ k.state = .frozen)) →
        Runs (.cbinit f) s (BeginsWait s · .cbinit s.me.waitth.toNat))) ∧
    (b.filled = 0 → s.my.wait = none → Runs (.cbacqRd f) s (BeginsWait s · .cbacq s.me.waitth.toNat)) ∧
    (b.free = 0 → s.my.wait = none → Runs (.cbacqWr f) s (BeginsWait s · .cbacq s.me.waitth.toNat)) ∧
    (0 < b.filled → Runs (.cbacqRd f) s (fun t => OnlyMe s t ∧ OnlyMyContext s t ∧ GoesOn s t (nextPc s.my.pc) ∧
      SetsSA s t f.d (BitVec.ofNat 64 (b.base + b.rcur * b.size)) ∧ holds t
        { b with filled := b.filled - 1, rout := b.rout + 1, rcur := (b.rcur + 1) % b.slots })) ∧
    (0 < b.free → Runs (.cbacqWr f) s (fun t => OnlyMe s t ∧ OnlyMyContext s t ∧ GoesOn s t (nextPc s.my.pc) ∧
      SetsSA s t f.d (BitVec.ofNat 64 (b.base + b.wcur * b.size)) ∧ holds t
        { b with free := b.free - 1, wout := b.wout + 1, wcur := (b.wcur + 1) % b.slots,
                 pending := b.pending ++ [(b.wcur, false, false)] })) ∧
    Runs (.cbrelRd f) s (buffer (if 0 < b.rout then { b with rout := b.rout - 1, free := b.free + 1 } else b)) ∧
    ((∀ e ∈ b.pending, e.2.2 = true) → Runs (.cbrelWr f) s (buffer b)) ∧
    (∀ (before after : List (Nat × Bool × Bool)) (x : Nat) (copy : Bool), b.pending = before ++ (x, copy, false) :: after →
      (if copy = true then (∀ e ∈ before, e.2.2 = true) ∧ ∀ e ∈ after, e.2 ≠ (false, false)
        else ∀ e ∈ before, e.2 ≠ (false, false)) →
      let p := before ++ (x, copy, true) :: after
      let full := (p.takeWhile (·.2.2)).length
      Runs (.cbrelWr f) s (buffer { b with pending := p.drop full, filled := b.filled + full, wout := b.wout - full })) ∧
    (Readable187 s 32 32 (s.sa f.a) →
      let x := s.spNat s.cur.core (s.sa f.a).toNat 32
      let base := BitVec.ofNat 64 x
      let fill := BitVec.ofNat 64 (x / 2 ^ 128) - BitVec.ofNat 64 (x / 2 ^ 192)
      let tail := BitVec.ofNat 64 (x / 2 ^ 192)
      let log := x / 2 ^ 72 % 32
      let mode := x / 2 ^ 64 % 4
      (fill = 0 → s.my.wait = none → Runs (.crwait f) s (BeginsWait s · .crwait s.me.waitth.toNat)) ∧
      (fill ≠ 0 → Runs (.crwait f) s (fun t => SetsSA s t f.d fill ∧ Acquired s t)) ∧ (fill = 0 → Runs (.crpop f) s (WritesSA s · f.d 0)) ∧
      (fill ≠ 0 → 2 ≤ mode ∨ log = 0 ∨ 12 < log → Runs (.crpop f) s (Faulted s · .prot 4 (s.sa f.a) s.my.pc)) ∧
      (∀ ps, fill ≠ 0 → mode < 2 → 1 ≤ log → log ≤ 12 → (s.sa f.b).toNat + 32 ≤ 131072 →
        s.places s.cur.core s.cur.ctx.val { am := mode, need := { r := true } }
          (offsets 0 (base + BitVec.ofNat 64 (32 * (tail.toNat % 2 ^ log))) 32) = .ok ps → Plain s ps →
        Runs (.crpop f) s (fun t => SetsSA s t f.d 1 ∧ GoesOn s t (nextPc s.my.pc) ∧ OnlyMyContext s t ∧
          SameButLines s.me { t.me with ctxs := s.me.ctxs } ∧
          (∀ c, c ≠ s.cur.core → SameButLines (s.core c) (t.core c)) ∧ t.gangs = s.gangs ∧ t.posts = s.posts ∧
          ∀ a, t.mem.read a = (Memory.writeBytes (Memory.writeBytes s.mem (Config.spLoc s.cur.core (s.sa f.b).toNat)
            (ps.map (fun p => s.mem.read p.loc))) (Config.spLoc s.cur.core ((s.sa f.a).toNat + 0x18))
            (bytesOfNat 8 (tail + 1).toNat)).read a)))

/-- R181, R246 to R248, R177: a gather leaves with the addresses of its active lanes and fills those lanes when its reply comes; a
contribution sends one packet per chunk; a packet is added at a router or at its home, and an entry that is complete or idle for
16 clk goes on; a complete sum lands in order from where the group has come to, and with it COUNT of every contributor that is
running (R220, R225).
The model's readings in it: logs 21, 22, 41. -/
def Obligations.GathersAndCombining : Prop :=
  let visits := fun (s t : State) (c : Nat) (k : Core) => { t.core c with dcache := k.dcache } = k ∧
    (∀ n, n ≠ c → SameButLines (s.core n) (t.core n)) ∧ t.gangs = s.gangs
  (∀ (f : FE) (s : State), s.isControl = true → s.guard f.g f.gn = true →
    let n := 2 ^ (f.sub.extractLsb' 0 2).toNat
    let elems := (lanes97 s).map (fun i =>
      (i, s.sa f.a + (((s.vreg f.b).getD i 0).signExtend 64 <<< (f.flg.extractLsb' 0 3).toNat)))
    s.gatherHeld (elems.flatMap (fun e => offsets e.1 e.2 n)) = (none, false) →
    ∀ ws, InForce27 s s.cur.core s.cur.ctx.val ws →
    Runs (.gather f) s (fun t => t.posts = s.posts ++ [.gather s.cur.core f.d n elems
        ((windowHit (s.sa f.a) ws).map (·.1)).toList s.my.pc] ∧ GoesOn s t (nextPc s.my.pc) ∧ SameSA s t ∧ SameP s t ∧
      { t.me with ctxs := s.me.ctxs } = { s.me with gathers := s.me.gathers ++ [f.d] } ∧
      OnlyMyContext s t ∧ (∀ c, c ≠ s.cur.core → t.core c = s.core c) ∧ { t with cores := s.cores, posts := s.posts } = s)) ∧
  (∀ (s : State) (before after : List Post) (reg : BitVec 8) (n : Nat) (elems : List (Nat × Word))
      (window : List (Word × Word × Word)) (pc : Word) (ps : List Place), let c := s.cur.args.core
    s.posts = before ++ .gather c reg n elems window pc :: after → (∀ p ∈ before, Post.gatherOf c p = false) →
    s.gatherPlaces c window (elems.flatMap (fun e => offsets e.1 e.2 n)) = .ok ps → Intact s →
    let bs := ps.map (fun p => s.mem.read p.loc)
    Runs .gatherReply s (fun t => ∃ v : VReg, visits s t c { s.core c with
        v := (s.core c).v.setIfInBounds (reg.toNat - 64) v, gathers := (s.core c).gathers.erase reg } ∧
      t.posts = before ++ after ∧ t.packets = s.packets ∧ (∀ a, t.mem.read a = s.mem.read a) ∧
      (∀ i, i < 64 → (∀ e ∈ elems, e.1 ≠ i) → v.getD i 0 = ((s.core c).v.getD (reg.toNat - 64) VReg.zero).getD i 0) ∧
      (∀ (xs ys : List (Nat × Word)) (i : Nat) (o : Word), elems = xs ++ (i, o) :: ys → (∀ e ∈ xs, e.1 ≠ i) → i < 64 →
        v.getD i 0 = BitVec.ofNat 32 (natOfBytes ((bs.drop (n * xs.length)).take n))))) ∧
  (∀ (s : State) (k : Copy) (n : Nat) (ty : BitVec 2) (ps : List Place) (p : Place), let c := s.cur.args.core
    (s.core c).entries[s.cur.args.index]? = some k → k.state = .running → k.kind = .cpycmb → k.sent = false →
    k.combine = some (n, ty) → s.placeRun c k (amOf k.sam) { r := true } (run k.src k.total) = .ok ps →
    s.placeCopy c k 0 { w := true } k.dst = .ok p → Intact s →
    let who := match s.gangOf c with | some g => (g.born, g.cores.idxOf c, k.seq) | none => (0, 0, k.seq)
    Runs .copyLanding s (fun t => visits s t c { s.core c with copies := (s.core c).copies.map (fun j =>
        if j.seq == k.seq then { j with sent := true } else j) } ∧ t.posts = s.posts ∧ (∀ a, t.mem.read a = s.mem.read a) ∧
      ∃ new, t.packets = s.packets ++ new ∧ new.map (·.chunk) = chunksOf k.baseIa k.total ∧ ∀ q ∈ new,
        q.part = (s.core c).part.toNat ∧ q.id = k.id ∧ q.dst = k.baseIa ∧ q.len = k.total ∧ q.ty = ty ∧ q.n = n ∧ q.cnt = 1 ∧
        q.at_ = clusterOf c ∧ q.die = dieOf c ∧ q.overflow = false ∧ q.from_ = [who] ∧
        let part := chunkElements k.baseIa k.total ty q.chunk
        let w := if ty = 1 then 8 else 4
        q.sum = ((ps.map (fun p => s.mem.read p.loc)).drop (part.1 * w)).take (part.2 * w))) ∧
  (∀ (s : State) (k : Copy) (p : CombinePacket) (ps : List CombinePacket) (place : Place), let c := s.cur.args.core
    (s.core c).entries[s.cur.args.index]? = some k → k.state = .running → k.kind = .cpycmb → k.sent = true →
    k.summed = false → s.staged c k = some (p :: ps) → (∀ e ∈ p.from_, s.contributorHeld e = false) → 1 ≤ k.esz → k.esz ≤ 64 →
    let done := s.sumCount p.from_ k
    s.cur.args.count ≤ 1 → done + 1 < k.total → (k.dstOf (done + 1)).toNat / 32 ≠ (k.dstOf done).toNat / 32 →
    (∀ n, (s.core n).resil = false) → Intact s →
    s.placeCopy c k 0 { w := true } (k.dst + BitVec.ofNat 64 done) = .ok place →
    Runs .copyLanding s (fun t => (∀ a, t.mem.read a = if a = place.loc then
        sumByte (p :: ps) (fun n => (Config.freeWord (s.freeCtr + n)).extractLsb' 0 8) done else s.mem.read a) ∧
      ((∀ e ∈ p.from_, s.contributorCore e ≠ none) → t.gangs = s.gangs) ∧
      ∀ n, { t.core n with dcache := (s.core n).dcache } = { s.core n with copies := (s.core n).copies.map (fun j =>
        if (∃ e ∈ p.from_, s.contributorCore e = some n ∧ e.2.2 = j.seq) ∧ j.state = .running then { j with
          count := done + 1
          landed := some (s.clk, match j.landed with | some (at_, old) => if at_ = s.clk then old else j.count | none => j.count) }
        else j) })) ∧
  (∀ (s : State) (p : CombinePacket), s.packets[s.cur.args.index]? = some p →
    let rest := s.packets.eraseIdx s.cur.args.index
    let home := s.chunkHome p
    let key := if p.at_ = home then 256 + p.at_ else p.at_
    let table := (Table.find s.combiners key).getD []
    let goes := fun (packets : List CombinePacket) (l : List CombinePacket) (t : State) =>
      t = { s with packets := packets, combiners := Table.set s.combiners key l }
    let sends := fun (e : CombinePacket) => rest ++ [{ e with at_ := nextHop e.at_ (s.chunkHome e), since := s.clk }]
    (∀ (xs ys : List CombinePacket) (e : CombinePacket), table = xs ++ e :: ys → (∀ x ∈ xs, x.meets p = false) → e.meets p = true →
      (p.at_ = home ∨ (e.cnt + p.cnt < e.n ∧ ∀ x ∈ ys, x.meets p = false) →
        Runs .combinePacketArrival s (goes rest (xs ++ e.add p s.clk :: ys))) ∧
      (p.at_ ≠ home → e.n ≤ e.cnt + p.cnt → (∀ x ∈ ys, x.meets p = false) →
        Runs .combinePacketArrival s (goes (sends (e.add p s.clk)) (xs ++ ys)))) ∧
    ((∀ x ∈ table, x.meets p = false) →
      (p.at_ = home ∨ (table.length < 64 ∧ p.cnt < p.n) →
        Runs .combinePacketArrival s (goes rest (table ++ [{ p with since := s.clk }]))) ∧
      (p.at_ ≠ home → table.length < 64 → p.n ≤ p.cnt →
        Runs .combinePacketArrival s (goes (sends { p with since := s.clk }) table)) ∧
      (p.at_ ≠ home → 64 ≤ table.length →
        Runs .combinePacketArrival s (· = { s with packets := sends { p with overflow := true } })))) ∧
  (∀ (s : State) (e : CombinePacket), let key := s.cur.args.index
    let table := (Table.find s.combiners key).getD []
    key < 256 → table[s.cur.args.count]? = some e → e.since + 16 ≤ s.clk →
    Runs .combineEntryTimeout s (· = { s with
      combiners := Table.set s.combiners key (table.eraseIdx s.cur.args.count),
      packets := s.packets ++ [{ e with at_ := nextHop e.at_ (s.chunkHome e), since := s.clk }] }))

/-- R182 to R184: EVSET and EVCLR send a change of one event bit to the core named, EVWAIT answers the word it read or waits; MPOST
sends 32 bytes, a release, waits for room, or answers 2, MRECV takes the oldest entry; WAITT and WAITT.ABS wait until their time.
The model's readings in it: log 32. -/
def Obligations.EventsMailboxesAndTimedWaits : Prop :=
  (∀ (f : FE) (s : State), s.guard f.g f.gn = true →
    let target := if f.var = 0 then some s.cur.core else s.namedCore (s.sa f.a)
    let bit := f.imm.extractLsb' 0 8
    let acquires := fun (t : State) => OnlyMyContext s t ∧ (∀ c, c ≠ s.cur.core → t.core c = s.core c) ∧
      { t.me with ctxs := s.me.ctxs, dcache := s.me.dcache } = s.me ∧ GoesOn s t (nextPc s.my.pc) ∧ t.gangs = s.gangs ∧
      (Intact s → ∀ a, (∀ l ∈ s.me.dcache, a < l.loc ∨ l.loc + 64 ≤ a) → (∀ c, ¬ UndoWord s c a) →
        t.mem.read a = s.mem.read a)
    let mask := s.sa f.a
    let data := BitVec.ofNat 256 (s.spNat s.cur.core (s.sa f.b).toNat 32)
    let outsideLog := fun a => s.me.resil = true → a < Config.spLoc s.cur.core 0x1C000 ∨ Config.spLoc s.cur.core 0x20000 ≤ a
    let word := s.me.evw.getD (f.sub.extractLsb' 0 2).toNat 0
    (target = none → Runs (.evclr f) s (Faulted s · .prot 5 (s.sa f.a) s.my.pc)) ∧
    (target = none → s.me.dcache = [] → s.me.resil = false →
      Runs (.evset f) s (Faulted s · .prot 5 (s.sa f.a) s.my.pc)) ∧
    (∀ c, target = some c →
      Runs (.evset f) s (fun t => acquires t ∧ SameSA s t ∧ SameP s t ∧ t.posts = s.posts ++ [.event c bit true]) ∧
      Runs (.evclr f) s (fun t => ∃ u, Advances s u ∧ t = { u with posts := s.posts ++ [.event c bit false] })) ∧
    (mask = 0 ∨ word &&& mask ≠ 0 → Runs (.evwaitAny f) s (fun t => acquires t ∧ SetsSA s t f.d word ∧ t.posts = s.posts)) ∧
    (word &&& mask = mask → Runs (.evwaitAll f) s (fun t => acquires t ∧ SetsSA s t f.d word ∧ t.posts = s.posts)) ∧
    (mask ≠ 0 → word &&& mask = 0 → s.my.wait = none → Runs (.evwaitAny f) s (BeginsWait s · .evwait s.me.waitth.toNat)) ∧
    (word &&& mask ≠ mask → s.my.wait = none → Runs (.evwaitAll f) s (BeginsWait s · .evwait s.me.waitth.toNat)) ∧
    (let at_ := if f.var = 0 then s.namedCore (s.sa f.a) else (s.gangOf s.cur.core).bind (·.supervisor)
     (at_ = none → Runs (.mpost f) s (WritesSA s · f.d 2)) ∧
     (∀ c, at_ = some c → Readable187 s 1 32 (s.sa f.b) →
       let load := ((s.core c).mbox.filter (·.kind == 0)).length + (s.posts.filter (Post.messageFor c 0)).length
       (load < 16 → Runs (.mpost f) s (fun t => SetsSA s t f.d 0 ∧ GoesOn s t (nextPc s.my.pc) ∧ OnlyMyContext s t ∧
         SameButLines s.me { t.me with ctxs := s.me.ctxs } ∧ (∀ c, c ≠ s.cur.core → t.core c = s.core c) ∧
         (Intact s → MemoryBut s t (fun a => UndoWord s s.cur.core a ∨
           ∃ l ∈ s.me.dcache, l.coh = 1 ∧ l.loc ≤ a ∧ a < l.loc + 64)) ∧
         t.posts = s.posts ++ [.message c { kind := 0, ctx := s.cur.ctx.val, vx := s.me.vx, vy := s.me.vy, data := data }] ∧
         OnlyCaches s { t with posts := s.posts })) ∧
       (16 ≤ load → s.my.wait = none → Runs (.mpost f) s (BeginsWait s · .mpost s.me.waitth.toNat)))) ∧
    ((s.sa f.b).toNat + 32 ≤ 131072 → (s.me.resil = true → (s.sa f.b).toNat + 32 ≤ 0x1C000) →
      (s.me.mbox = [] → Runs (.mrecvTest f) s (WritesSA s · f.d 0)) ∧
      (s.me.mbox = [] → s.my.wait = none → Runs (.mrecv f) s (BeginsWait s · .mrecv s.me.waitth.toNat)) ∧
      (∀ m ms, s.me.mbox = m :: ms → ∀ i ∈ [Instr.mrecv f, .mrecvTest f], Runs i s (fun t =>
        SetsSA s t f.d (1#1 ++ 0#39 ++ BitVec.ofNat 4 m.ctx ++ 0#3 ++ m.kind ++ 0#3 ++ m.vy ++ 0#2 ++ m.vx) ∧
        GoesOn s t (nextPc s.my.pc) ∧ OnlyMyContext s t ∧ { t.me with ctxs := s.me.ctxs } = { s.me with mbox := ms } ∧
        (∀ c, c ≠ s.cur.core → t.core c = s.core c) ∧ t.posts = s.posts ∧ t.gangs = s.gangs ∧ ∀ a, outsideLog a → t.mem.read a =
          (s.mem.writeBytes (Config.spLoc s.cur.core (s.sa f.b).toNat) (bytesOfNat 32 m.data.toNat)).read a))) ∧
    (let left := match s.my.waitt with
      | some (r, at_) => r - (s.clk - at_)
      | none => (s.sa f.a).toNat
     (left = 0 → Runs (.waitt f) s (fun t => OnlyMe s t ∧ OnlyMyContext s t ∧ SameCore s t ∧ SameSA s t ∧ SameP s t ∧
       t.my.pc = nextPc s.my.pc ∧ t.my.wait = none ∧ t.my.waitt = none)) ∧
     (left ≠ 0 → s.my.wait = none → Runs (.waitt f) s (fun t =>
       t.my.waitt = some (s.my.waitt.getD ((s.sa f.a).toNat, s.clk)) ∧
       BeginsWait (s.modMy (fun x => { x with waitt := some (s.my.waitt.getD ((s.sa f.a).toNat, s.clk)) })) t .waittRel
         s.me.waitth.toNat))) ∧
    ((s.sa f.a).toNat ≤ s.tbase.toNat → Runs (.waittAbs f) s (Advances s)) ∧
    (s.tbase.toNat < (s.sa f.a).toNat → s.my.wait = none → Runs (.waittAbs f) s
      (BeginsWait s · (.waittAbs (s.sa f.a)) s.me.waitth.toNat))) ∧
  (∀ (s : State) (w : Wait), let c := s.cur.args.core
    let n := s.cur.args.ctx.val
    let x := (s.core c).ctx n
    x.wait = some w → (w.kind = .waittRel ∧ (∀ r at_, x.waitt = some (r, at_) → r ≤ s.clk - at_)) ∨
      (∃ time : Word, w.kind = .waittAbs time ∧ time.toNat ≤ s.tbase.toNat) →
    Runs .waittExpiry s (fun t => ((t.core c).ctx n).wait = none ∧ ((t.core c).ctx n).pc = nextPc x.pc ∧
      (∀ r, ((t.core c).ctx n).sa r = x.sa r) ∧ ((t.core c).ctx n).p = x.p ∧ ((t.core c).ctx n).live = x.live ∧
      (∀ m, m ≠ n → (t.core c).ctx m = (s.core c).ctx m) ∧ (∀ d, d ≠ c → t.core d = s.core d) ∧
      { t with cores := s.cores } = s))

/-- R185, R186, R228, R229: TQPUT queues the task of its record under a ticket that stays open but is not zero (log 9), or waits;
a dispatch gives the oldest task a helper and pins what may be pinned of its pages (R332), and the helper starts once its
footprint has landed, whole or without effect (R359); HODQ queues a request and HODR
takes the oldest. -/
def Obligations.TasksAndHodRequests : Prop :=
  (∀ (f : FE) (s : State), s.guard f.g f.gn = true →
    let x := s.spNat s.cur.core (s.sa f.a).toNat 96
    let word := fun n => BitVec.ofNat 64 (x / 2 ^ (8 * n))
    let count := ((word 0x10).extractLsb' 16 3).toNat
    let ranges := (List.range count).map (fun r => (word (0x20 + 16 * r), ((word (0x28 + 16 * r)).extractLsb' 0 17).toNat,
      ((word (0x28 + 16 * r)).extractLsb' 32 17).toNat))
    let any := (word 0x10).getLsbD 15
    let task : Task :=
      { number := s.freeCtr, gid := s.me.gid, block := clusterOf s.cur.core, pc := word 0, arg := word 8,
        target := if any then none else s.namedCore (word 0x10), ranges := ranges,
        issuer := (s.cur.core, s.cur.ctx.val), gone := false, issuePc := s.my.pc, windows := windows221 s, at_ := none,
        started := false, pins := [] }
    let queued := (s.tasks.filter (fun t => t.gid == s.me.gid && t.block == clusterOf s.cur.core && t.at_.isNone)).length
    let data := BitVec.ofNat 256 (s.spNat s.cur.core (s.sa f.b).toNat 32)
    let outsideLog := fun a => s.me.resil = true → a < Config.spLoc s.cur.core 0x1C000 ∨ Config.spLoc s.cur.core 0x20000 ≤ a
    let sends := fun (t : State) => GoesOn s t (nextPc s.my.pc) ∧ OnlyMyContext s t ∧
      (∀ c, c ≠ s.cur.core → t.core c = s.core c) ∧ MemoryBut s t (UndoWord s s.cur.core)
    (Readable187 s 32 96 (s.sa f.a) → s.taskFault (s.sa f.a) x = none →
      (queued < 256 → Runs (.tqput f) s (fun t => sends t ∧ SameCore s t ∧ (∃ v : Word, v.toNat ≠ 0 ∧ v.toNat < 2 ^ 32 ∧
          SetsSA s t f.d v) ∧ t.tasks = s.tasks ++ [task] ∧ { t with cores := s.cores, mem := s.mem, tasks := s.tasks, freeCtr := s.freeCtr } = s)) ∧
      (256 ≤ queued → s.my.wait = none → Runs (.tqput f) s (BeginsWait s · .tqput s.me.waitth.toNat))) ∧
    (Readable187 s 32 96 (s.sa f.a) →
      (4 < count ∨ (∃ r ∈ ranges, r.2.2 = 0 ∨ 131072 < r.2.2) → Runs (.tqput f) s (Faulted s · .prot 4 (s.sa f.a) s.my.pc)) ∧
      (count = 0 → any = false → s.namedCore (word 0x10) = none →
        Runs (.tqput f) s (Faulted s · .prot 5 (s.sa f.a) s.my.pc))) ∧
    (Readable187 s 1 32 (s.sa f.b) →
      (s.me.hodq.length < 8 → Runs (.hodq f) s (fun t => sends t ∧ SetsSA s t f.d 0 ∧
        { t.me with ctxs := s.me.ctxs } = { s.me with hodq := s.me.hodq ++ [{ ctx := s.cur.ctx.val, data := data }] } ∧ { t with cores := s.cores, mem := s.mem } = s)) ∧
      (8 ≤ s.me.hodq.length → s.my.wait = none → Runs (.hodq f) s (BeginsWait s · .hodq s.me.waitth.toNat))) ∧
    (s.isHod = true → (s.sa f.b).toNat + 32 ≤ 131072 → (s.me.resil = true → (s.sa f.b).toNat + 32 ≤ 0x1C000) →
      (s.me.hodq = [] → Runs (.hodrTest f) s (WritesSA s · f.d 0)) ∧
      (s.me.hodq = [] → s.my.wait = none → Runs (.hodr f) s (BeginsWait s · .hodr s.me.waitth.toNat)) ∧
      (∀ r rs, s.me.hodq = r :: rs → ∀ i ∈ [Instr.hodr f, .hodrTest f], Runs i s (fun t =>
        SetsSA s t f.d (BitVec.ofNat 64 (r.ctx + 1)) ∧ GoesOn s t (nextPc s.my.pc) ∧ OnlyMyContext s t ∧
        { t.me with ctxs := s.me.ctxs } = { s.me with hodq := rs } ∧ (∀ c, c ≠ s.cur.core → t.core c = s.core c) ∧
        ∀ a, outsideLog a → t.mem.read a = (s.mem.writeBytes (Config.spLoc s.cur.core (s.sa f.b).toNat)
          (bytesOfNat 32 r.data.toNat)).read a)))) ∧
  (∀ (s : State) (before after : List Task) (k : Task) (c h : Nat), s.tasks = before ++ k :: after →
    let mine := fun (u : Task) => u.gid = s.cur.args.gid ∧ u.block = s.cur.args.index ∧ u.at_ = none
    mine k → s.taskPlace k = some (c, h) → (∀ u ∈ before, mine u → s.taskPlace u = none) →
    (∀ u ∈ before ++ after, u.number ≠ k.number) →
    Runs .taskDispatch s (fun t => t = { s.modCtx c h (fun x => { x with ticket := some k.number }) with tasks :=
      before ++ { k with
        at_ := some (c, h)
        pins := (k.pages (s.core c).part.toNat).filter (fun q => match s.leafOf (clusterOf k.issuer.1) (s.core c).part.toNat q.2 with
          | .ok l => leafPinok l.leaf
          | .error _ => false) } :: after })) ∧
  (∀ (s u : State) (before after : List Task) (k : Task) (c h : Nat), s.tasks = before ++ k :: after →
    k.number = s.cur.args.index → k.started = false → k.at_ = some (c, h) → (∀ u ∈ before ++ after, u.number ≠ k.number) →
    (∀ n, (s.core n).resil = false) → h ≠ 11 →
    (∀ cls code o, s.fetchFootprint k c = .error (.fault cls code o) →
      Runs .footprintComplete s (fun t => ∀ a, t.mem.read a = s.mem.read a)) ∧
    (s.fetchFootprint k c = .ok u → Runs .footprintComplete s (fun t => t.mem = u.mem ∧
      t.tasks = before ++ { k with started := true, pins := k.pages (s.core c).part.toNat } :: after ∧
      (∀ d, d ≠ c → SameButLines (s.core d) (t.core d)) ∧ (∀ m, m ≠ h → (t.core c).ctx m = (s.core c).ctx m) ∧
      (h < 12 → (t.core c).ctx h = { Context.reset with
        s := (Vector.replicate 32 0).setIfInBounds 2 k.arg, pc := k.pc, live := true, entryCheck := true,
        notBefore := s.clk, ticket := some k.number }))))

namespace Sys2Proof.Machine

/-- A cell instruction ends with a status in D and a change of its partition; nothing else of the machine changes, memory aside. -/
structure CellEnds (s t : State) (f : FE) (status : Word) (change : Partition → Partition) : Prop where
  sets : SetsSA s t f.d status
  goes : GoesOn s t (nextPc s.my.pc)
  contexts : OnlyMyContext s t
  core : SameCore s t
  cores : ∀ c, c ≠ s.cur.core → t.core c = s.core c
  part : ∀ q, q < 16 → t.part q = if q = s.me.part.toNat then change (s.part q) else s.part q
  machine : { t with cores := s.cores, mem := s.mem, parts := s.parts, monitors := s.monitors, bad := s.bad } = s

/-- As `CellEnds`, with memory as it was, R363's cause apart. -/
def CellAnswers (i : Instr) (s : State) (f : FE) (status : Word) (change : Partition → Partition) : Prop :=
  Runs i s (fun t => CellEnds s t f status change ∧ MemoryBut s t (UndoWord s s.cur.core))

/-- The status of a refusal (R187, R287, R288). -/
def refused (n : Nat) : Word := BitVec.ofNat 64 (2 ^ 63 + n)

end Sys2Proof.Machine

/-- R187, R284 to R292, R298: the cell instructions: CELL.DEF takes the lowest free id or answers a refusal, CELL.BIND installs or
stages its record, CELL.PUT writes the back buffer as a member of the open wave and marks its dependants or waits, CELL.GET copies
a buffer, CELL.COMMIT seals, CELL.STATE reads, CELL.DROP removes; an id without a cell is CELLSTATE 0.
The model's readings in it: log 42. -/
def Obligations.CellInstructionsFollowTheDirectory : Prop :=
  ∀ (f : FE) (s : State), s.guard f.g f.gn = true →
    let p := s.part s.me.part.toNat
    let id := (s.sa f.a).toNat
    let waved := fun (n : BitVec 32) (g : Wave → Wave) (p : Partition) =>
      { p with waves := p.waves.map (fun v => if v.number == n then g v else v) }
    let no := fun (i : Instr) n => CellAnswers i s f (refused n) (fun p => p)
    (p.cell? id = none → s.me.resil = false → (∀ i ∈ [Instr.cellState f, .cellDrop f],
      Runs i s (Faulted s · .cellState 0 (s.sa f.a) s.my.pc)) ∧
      ((s.sa f.b).toNat % 32 = 0 → (s.sa f.b).toNat ≤ 131072 → ∀ i ∈ [Instr.cellPut f, .cellGet f],
        Runs i s (Faulted s · .cellState 0 (s.sa f.a) s.my.pc))) ∧
    (∀ c, p.cell? id = some c → CellAnswers (.cellState f) s f (c.gen ++ BitVec.ofNat 32 (match c.state with
      | .settled => 0 | .pending => 1 | .recomputed => 2 | .circular => 3 | .blocked => 4 | .failed => 5)) (fun p => p)) ∧
    CellAnswers (.cellStateFlip f) s f (p.lastFlip.setWidth 64) (fun p => p) ∧
    CellAnswers (.cellStateAbort f) s f (p.lastAbort.setWidth 64) (fun p => p) ∧
    (p.openWave = none → no (.cellCommit f) 1) ∧
    (∀ w, p.openWave = some w → CellAnswers (.cellCommit f) s f (w.number.setWidth 64)
      (waved w.number (fun v => { v with sealed := true }))) ∧
    (∀ c, p.cell? id = some c →
      let named := (∃ e ∈ p.cells, e.1 ≠ id ∧ id ∈ e.2.prec) ∨ (∃ e ∈ p.staged, e.1 ≠ id ∧ id ∈ bindPrec e.2.record)
      let member := ∃ w ∈ p.waves, ∃ m ∈ w.members, m.1 = id
      let staged := ∃ e ∈ p.staged, e.1 = id
      (named → no (.cellDrop f) 1) ∧ (¬ named → member → no (.cellDrop f) 2) ∧
      (¬ named → ¬ member → staged → no (.cellDrop f) 3) ∧
      (¬ named → ¬ member → ¬ staged → CellAnswers (.cellDrop f) s f 0
        (fun p => { p with cells := p.cells.filter (fun e => e.1 != id) }))) ∧
    (Readable187 s 32 32 (s.sa f.b) →
      let x := s.spNat s.cur.core (s.sa f.b).toNat 32
      let va0 := BitVec.ofNat 64 x
      let va1 := BitVec.ofNat 64 (x / 2 ^ 64)
      (cellShape (BitVec.ofNat 64 (x / 2 ^ 128)) = none → no (.cellDef f) 2) ∧
      (∀ c, cellShape (BitVec.ofNat 64 (x / 2 ^ 128)) = some c →
        let e := c.extent
        let apart := va0.toNat + e ≤ va1.toNat ∨ va1.toNat + e ≤ va0.toNat
        (¬ (va0.toNat % 64 = 0 ∧ va1.toNat % 64 = 0 ∧ apart) → no (.cellDef f) 2) ∧
        (∀ qs rs : List (Nat × Word), va0.toNat % 64 = 0 → va1.toNat % 64 = 0 → apart → 0 < e →
          qs.length = (granules e).length → s.me.resil = false →
          s.defBytes ((granules e).map (fun n => va0 + BitVec.ofNat 64 n) ++ (granules e).map (fun n => va1 + BitVec.ofNat 64 n)) =
            .ok (qs ++ rs) →
          let ia0 := (qs.headD (0, 0)).1
          let ia1 := (rs.headD (0, 0)).1
          let mine := ∀ q ∈ qs ++ rs, (q.2.extractLsb' 60 4).toNat = s.me.part.toNat
          let cells := ∀ q ∈ qs ++ rs, q.2.getLsbD 8 = true
          let clear := fun a b n => a + e ≤ b ∨ b + n ≤ a
          let disjoint := clear ia0 ia1 e ∧ ∀ k ∈ p.cells, clear ia0 k.2.buf0 k.2.extent ∧ clear ia0 k.2.buf1 k.2.extent ∧
            clear ia1 k.2.buf0 k.2.extent ∧ clear ia1 k.2.buf1 k.2.extent
          (¬ mine → no (.cellDef f) 4) ∧ (mine → ¬ cells → no (.cellDef f) 3) ∧
          (mine → cells → ¬ disjoint → no (.cellDef f) 2) ∧
          (mine → cells → disjoint → (∀ n, n < 65536 → n ∈ p.usedEntries) → no (.cellDef f) 1) ∧
          (∀ n, mine → cells → disjoint → n < 65536 → n ∉ p.usedEntries → (∀ m, m < n → m ∈ p.usedEntries) →
            CellAnswers (.cellDef f) s f (BitVec.ofNat 64 n)
              (fun p => { p with cells := Table.set p.cells n { c with buf0 := ia0, buf1 := ia1 } }))))) ∧
    (∀ c, Readable187 s 32 160 (s.sa f.b) → p.cell? id = some c →
      let x := s.spNat s.cur.core (s.sa f.b).toNat 160
      let b : Binding := { record := x, gid := s.me.gid, gang := ((s.gangOf s.cur.core).map (·.born)).getD 0, vx := s.me.vx, vy := s.me.vy, pc := s.my.pc }
      let word := fun n => BitVec.ofNat 64 (x / 2 ^ (8 * n))
      (p.badBinding id x = true → no (.cellBind f) 2) ∧
      (p.badBinding id x = false → (∀ w ∈ p.waves, w.sealed = false) → Runs (.cellBind f) s (fun t => SetsSA s t f.d 0 ∧
        GoesOn s t (nextPc s.my.pc) ∧ ∃ k, (t.part s.me.part.toNat).cell? id = some k ∧ k.pc = word 0 ∧
          k.prec = (List.range (((word 8).extractLsb' 16 7).toNat)).map (fun i => x / 2 ^ (8 * (0x20 + 2 * i)) % 65536) ∧
          k.gwm1 = (word 8).extractLsb' 0 3 ∧ k.ghm1 = (word 8).extractLsb' 8 2 ∧ k.foff = ((word 0x10).extractLsb' 0 17).toNat ∧
          k.wintab = (word 0x18).toNat % 2 ^ 56 ∧ k.buf0 = c.buf0 ∧ k.buf1 = c.buf1 ∧ k.sel = c.sel ∧ k.gen = c.gen)) ∧
      (∀ (before after : List Wave) (w : Wave), p.badBinding id x = false → p.waves = before ++ w :: after → w.sealed = true →
        (∀ v ∈ after, v.sealed = false) → CellAnswers (.cellBind f) s f 1
          (waved w.number (fun v => { v with staged := v.staged.filter (·.1 != id) ++ [(id, b)] })))) ∧
    (∀ c ps, p.cell? id = some c → Readable187 s 32 c.extent (s.sa f.b) → c.pc = 0 →
      let reads := ∃ e ∈ s.cores, e.2.part = s.me.part ∧ ∃ x ∈ e.2.ctxs.toList, x.wait ≠ none ∧ ∃ r, x.cellSel = some r ∧
        r.buf = c.back ∧ r.state ≠ .circular ∧ r.state ≠ .blocked ∧ r.state ≠ .failed
      let busy := (∃ d ∈ id :: p.downstream id, ∃ w ∈ p.waves, w.sealed = true ∧ ∃ m ∈ w.members, m.1 = d) ∨ reads
      (busy → s.my.wait = none → s.me.resil = false → Runs (.cellPut f) s (BeginsWait s · (.cell id 0) s.me.waitth.toNat)) ∧
      (¬ busy → s.me.dcache = [] → (∀ n, (s.core n).resil = false) → Intact s →
        s.enginePlaces s.cur.core c.back c.extent = .ok ps → Runs (.cellPut f) s (fun t =>
        let n := match p.openWave with
          | some w => w.number
          | none => p.next
        SetsSA s t f.d (n.setWidth 64) ∧ GoesOn s t (nextPc s.my.pc) ∧
        (∀ a, t.mem.read a = (writesAt s.mem ps (bytesOfNat c.extent (s.spNat s.cur.core (s.sa f.b).toNat c.extent))).read a) ∧
        (t.part s.me.part.toNat).cell? id = some { c with state := .recomputed, wave := n, level := 0 } ∧
        (∀ d k, p.cell? d = some k → d ≠ id → ∃ l, (t.part s.me.part.toNat).cell? d = some { (if d ∈ p.downstream id ∧
          (k.state = .settled ∨ k.state = .failed) then { k with state := .pending, wave := n } else k) with level := l }) ∧
        (t.part s.me.part.toNat).lastFlip = p.lastFlip ∧ (t.part s.me.part.toNat).lastAbort = p.lastAbort))) ∧
    (∀ c, p.cell? id = some c → (s.sa f.b).toNat % 32 = 0 → (s.sa f.b).toNat ≤ 131072 → c.pc ≠ 0 → s.me.resil = false →
      Runs (.cellPut f) s (Faulted s · .cellState 3 (s.sa f.a) s.my.pc)) ∧
    (∀ c ps, p.cell? id = some c → (s.sa f.b).toNat % 32 = 0 → (s.sa f.b).toNat + c.extent ≤ 131072 →
      s.places s.cur.core s.cur.ctx.val { am := 6, need := { r := true }, cell := s.sa f.a, vw := f.var }
        (offsets 0 0 c.extent) = .ok ps → Plain s ps →
      Runs (.cellGet f) s (fun t => SetsSA s t f.d 0 ∧ GoesOn s t (nextPc s.my.pc) ∧ OnlyMyContext s t ∧
        SameButLines s.me { t.me with ctxs := s.me.ctxs } ∧ (∀ n, n ≠ s.cur.core → SameButLines (s.core n) (t.core n)) ∧
        (∀ q, { t.part q with stats := (s.part q).stats } = s.part q) ∧ t.gangs = s.gangs ∧ t.posts = s.posts ∧
        ∀ a, t.mem.read a =
        (s.mem.writeBytes (Config.spLoc s.cur.core (s.sa f.b).toNat) (ps.map (fun p => s.mem.read p.loc))).read a))

namespace Sys2Proof.Machine

/-- A packet of a kind stands at the head of the queue that the event names, and passes the checks that every packet passes
first (R268, R269). -/
structure AtHead (s : State) (type x : Nat) : Prop where
  number : s.cur.args.index < 64
  enabled : (s.queue s.cur.args.index).en = true
  running : (s.queue s.cur.args.index).err = false
  waiting : (s.queue s.cur.args.index).head.toNat < (s.queue s.cur.args.index).tail.toNat
  serving : s.service.stopped = false ∧ s.service.fatal = false
  read : s.cmdRead (s.queue s.cur.args.index).part.toNat (s.queue s.cur.args.index).headIa 64 = .ok x
  sound : packetError x = none
  kind : x % 256 = type

/-- The state with another queue in the place of the one that the event names. -/
def setQueue (s : State) (k : Queue) : State := { s with queues := s.queues.setIfInBounds s.cur.args.index k }

/-- The queue goes past the packet; a packet of an indirect buffer stands in the place of its INDIRECT (R267, R279). -/
def passed (s : State) : State :=
  let k := s.queue s.cur.args.index
  setQueue s (match k.indirect with
    | some (a, len, n) => if n + 64 < len then { k with indirect := some (a, len, n + 64) }
      else { k with indirect := none, head := k.head + 1 }
    | none => { k with head := k.head + 1 })

/-- The queue stops with ERR and ECODE; HEAD stays, and the packet has no effect (R269). -/
def stopped269 (s : State) (code : Nat) : State :=
  setQueue s { s.queue s.cur.args.index with err := true, ecode := BitVec.ofNat 8 code }

/-- The packet at the head is consumed, and its effect is that of `t`. -/
def Consumes (i : Instr) (s t : State) : Prop := Runs i s (· = passed t)

/-- The packet at the head fails. -/
def Fails (i : Instr) (s : State) (code : Nat) : Prop := Runs i s (· = stopped269 s code)

/-- The bits of word `word` of a packet of a kind that are fields of it (Tables 16-2, 16-4, R276, R279, R322, R378); the others
are reserved. An address field holds an IA whole, so its low bits are a matter of its alignment (error 5). -/
def fieldBit (type word bit : Nat) : Bool :=
  match type, word with
  | 1, 0 => bit < 12 || (16 ≤ bit && bit ≤ 20) || (32 ≤ bit && bit ≤ 55)
  | 2, 0 => bit < 12 || (16 ≤ bit && bit ≤ 19) || (24 ≤ bit && bit ≤ 26)
  | 3, 0 | 4, 0 => bit < 12 || bit == 16
  | _, 0 => bit < 12
  | 1, 4 => bit == 0 || bit == 1 || bit == 8 || bit == 9
  | 2, 3 | 3, 1 | 4, 1 => bit < 2
  | 8, 1 => bit < 3 || (12 ≤ bit && bit ≤ 27)
  | 1, 1 | 1, 6 | 2, 1 | 2, 4 | 3, 3 | 5, 1 | 6, 1 | 7, 1 => bit < 56
  | 1, 2 | 1, 3 | 1, 5 | 2, 2 | 3, 2 | 3, 4 | 4, 2 | 5, 2 => true
  | _, _ => false

/-- The events that process packets. -/
def packetEvents : List Instr :=
  [.dispatch, .cmoRangeClean, .cmoRangeInval, .cmoRangeFlush, .cmoRangeAttr, .eventSet, .eventWait, .indirect, .timestamp,
    .cellWave, .power]

end Sys2Proof.Machine

/-- R267 to R271, R274, R276, R279, R322: TAIL and the control word; a packet of no kind is error 1, one of another version or with
a reserved bit error 2; DISPATCH lists its launch; the CMO ranges, over pages that are not UC, and ATTR; EVENT.SET, EVENT.WAIT, INDIRECT, TIMESTAMP and CELL.WAVE; the
error codes of bad addresses and fields.
The model's readings in it: logs 23, 33. -/
def Obligations.QueuesProcessTheirPackets : Prop :=
  (∀ (s : State), let q := s.cur.args.index
    let k := s.queue q
    let v := s.cur.args.word
    let sets := fun (k : Queue) (t : State) => t = setQueue s k
    let log2n := if 6 ≤ (v.extractLsb' 0 5).toNat ∧ (v.extractLsb' 0 5).toNat ≤ 16 then v.extractLsb' 0 5 else 6
    q < 64 →
      (k.en = false ∨ k.err = true ∨ (k.head.toNat ≤ v.toNat ∧ v.toNat ≤ k.head.toNat + 2 ^ k.log2n.toNat) →
        Runs .queueDoorbell s (sets { k with tail := v })) ∧
      (k.en = true → k.err = false → (v.toNat < k.head.toNat ∨ k.head.toNat + 2 ^ k.log2n.toNat < v.toNat) →
        Runs .queueDoorbell s (sets { k with tail := v, err := true, ecode := 3 })) ∧
      (k.en = true → Runs .queueEnable s (sets { k with
        en := v.getLsbD 63, tkt := v.extractLsb' 32 12, cls := v.extractLsb' 12 2 })) ∧
      (k.en = false → v.getLsbD 63 = true → Runs .queueEnable s (sets { k with
        en := true, tkt := v.extractLsb' 32 12, cls := v.extractLsb' 12 2, part := v.extractLsb' 16 4, log2n := log2n,
        head := k.tail, err := false, indirect := none, pending := [] })) ∧
      (k.en = false → v.getLsbD 63 = false → Runs .queueEnable s (sets { k with
        tkt := v.extractLsb' 32 12, cls := v.extractLsb' 12 2, part := v.extractLsb' 16 4, log2n := log2n }))) ∧
  (∀ (s : State) (x : Nat), let q := s.queue s.cur.args.index
    s.cur.args.index < 64 → q.en = true → q.err = false → q.head.toNat < q.tail.toNat →
    s.service.stopped = false → s.service.fatal = false → s.cmdRead q.part.toNat q.headIa 64 = .ok x →
    ∀ i ∈ packetEvents, (x % 256 = 0 ∨ 8 < x % 256 → Fails i s 1) ∧
      (1 ≤ x % 256 → x % 256 ≤ 8 → x / 256 % 16 ≠ 1 → Fails i s 2) ∧
      (1 ≤ x % 256 → x % 256 ≤ 8 → x / 256 % 16 = 1 →
        (∃ n bit, n < 8 ∧ bit < 64 ∧ fieldBit (x % 256) n bit = false ∧ (x / 2 ^ (64 * n)).testBit bit = true) → Fails i s 2)) ∧
  (∀ x : Nat, 1 ≤ x % 256 → x % 256 ≤ 8 → x / 256 % 16 = 1 →
    (∀ n bit, n < 8 → bit < 64 → fieldBit (x % 256) n bit = false → (x / 2 ^ (64 * n)).testBit bit = false) →
      packetError x = none) ∧
  (∀ (s : State) (x : Nat), AtHead s 1 x →
    let q := s.queue s.cur.args.index
    let l : Launch := { queue := s.cur.args.index, part := q.part.toNat, order := s.orders, packet := wordsOf x 8, desc := [] }
    let word := fun n => BitVec.ofNat 64 (x / 2 ^ (64 * n))
    let gcount := ((word 0).extractLsb' 48 8).toNat
    let aligned := (word 1).toNat % 64 = 0 ∧ (word 6).toNat % 16 = 0
    let counted := 1 ≤ gcount ∧ gcount ≤ 64 ∧ ((word 0).extractLsb' 32 16 = 0 → gcount = 1)
    let outside := (word 0).getLsbD 20 = true ∧ ∃ cls code o, s.cmdPlace l.part (word 6).toNat = .error (.fault cls code o)
    let room := q.pending.length + q.saved.length < 64 ∧ (s.tracked l.part).length < 256
    (¬ aligned ∨ outside → Fails .dispatch s 5) ∧ (aligned → ¬ outside → ¬ counted → Fails .dispatch s 6) ∧
    (aligned → ¬ outside → counted → ¬ room → Runs .dispatch s (· = s)) ∧
    (∀ d, aligned → ¬ outside → counted → room → s.cmdRead l.part (word 1).toNat 192 = .ok d →
      { l with desc := wordsOf d 24 }.bad = false →
      (l.group = 0 ∨ ∀ k ∈ s.groupPending l.part l.group, k.gcount = gcount) →
      Consumes .dispatch s (setQueue { s with orders := s.orders + 1 }
        { q with pending := q.pending ++ [{ l with desc := wordsOf d 24 }] })) ∧
    (∀ d, aligned → ¬ outside → counted → room → s.cmdRead l.part (word 1).toNat 192 = .ok d →
      { l with desc := wordsOf d 24 }.bad = true →
      let ended := { s with orders := s.orders + 1 }.setEvents l.part l.ssel (· ||| word 3)
      ((word 0).getLsbD 20 = false → Consumes .dispatch s ended) ∧
      (∀ ps, (word 0).getLsbD 20 = true → s.cmdWrite? l.part (word 6).toNat 16 = .ok ps →
        Consumes .dispatch s (ended.cmdStore false (ps.zip (bytesOfNat 8 (3 * 65536) ++ bytesOfNat 8 s.tbase.toNat)))))) ∧
  (∀ (s : State) (x kind : Nat) (pages : List CachedLeaf), AtHead s 2 x → x / 2 ^ 16 % 16 = kind →
    let word := fun n => BitVec.ofNat 64 (x / 2 ^ (64 * n))
    let part := (s.queue s.cur.args.index).part.toNat
    let base := (word 1).toNat
    let len := (word 2).toNat
    let scope := x / 2 ^ 24 % 8
    let sized := 4 ≤ scope ∧ 1 ≤ len ∧ len ≤ 2 ^ 40
    let events := [Instr.cmoRangeClean, .cmoRangeInval, .cmoRangeFlush, .cmoRangeAttr]
    let lineOf := fun (l : CacheLine) => l.part == part && pages.any (fun p => p.leaf.extractLsb' 6 2 != 2 &&
      decide (max base p.base < l.line * 64 + 64 ∧ l.line * 64 < min (base + len) (p.base + p.size)))
    let leaves := fun (t : State) (g : List CacheLine → List CacheLine) => t.queues = (passed s).queues ∧
      (∀ n, t.core n = { s.core n with dcache := g (s.core n).dcache }) ∧
      (Intact s → ∀ a, (∀ n, ∀ l ∈ (s.core n).dcache, a < l.loc ∨ l.loc + 64 ≤ a) → t.mem.read a = s.mem.read a)
    (3 < kind → ∀ i ∈ events, Fails i s 6) ∧
    (∀ n i, events[n]? = some i → kind = n → ¬ sized → Fails i s 6) ∧
    (∀ n i, events[n]? = some i → kind = n → n < 3 → sized → word 3 ≠ 0 ∨ word 4 ≠ 0 → Fails i s 2) ∧
    (sized → word 3 = 0 → word 4 = 0 → s.rangePages part (base + len - 1) (len / 4096 + 2) base = .ok pages →
      (kind = 0 → Runs .cmoRangeClean s (leaves · (fun ls => ls.map (fun l => if lineOf l then { l with dirty := 0 } else l)))) ∧
      (kind = 1 → Runs .cmoRangeInval s (fun t => (Intact s → ∀ a, t.mem.read a = s.mem.read a) ∧
        leaves t (fun ls => ls.filter (fun l => !lineOf l)))) ∧
      (kind = 2 → Runs .cmoRangeFlush s (leaves · (fun ls => ls.filter (fun l => !lineOf l))))) ∧
    (kind = 3 → sized → scope = 7 → word 3 ≠ 3 → base % 4096 = 0 → len % 4096 = 0 → (word 4).toNat % 16 = 0 →
      s.attrPages part (base + len - 1) (len / 4096 + 1) base = none → Fails .cmoRangeAttr s 5) ∧
    (∀ ps a lv size old, kind = 3 → sized → scope = 7 → word 3 ≠ 3 → base % 4096 = 0 → len % 4096 = 0 → (word 4).toNat % 16 = 0 →
      (∀ e ∈ s.cores, e.2.dcache = []) → Intact s → (s.dirs.map (·.1)).Nodup →
      s.attrPages part (base + len - 1) (len / 4096 + 1) base =
        some [{ part := part, base := base, size := size, leaf := old, host := none }] →
      (word 4 = 0 ∧ ps = [] ∨ word 4 ≠ 0 ∧ s.cmdWrite? part (word 4).toNat 16 = .ok ps) →
      leafEntry s.mem base 5 0 (s.part part).ptbr.toNat = some (a, lv) →
      (lv = 4 → (s.mem.readWord a).getLsbD 56 = false) →
      let leaf := (s.mem.readWord a &&& ~~~0xC0#64) ||| ((word 3 &&& 3) <<< 6)
      Runs .cmoRangeAttr s (fun t => t.queues = (passed s).queues ∧ (∀ n, t.core n = s.core n) ∧
        (let meets := fun (e : DirEntry) => e.part = part ∧ e.base < max (base + len) (base + size) ∧ base < e.base + 2 ^ e.span
         ∀ n, (∀ e ∈ t.slice n, e ∈ s.slice n ∧ ¬ meets e) ∧ ∀ e ∈ s.slice n, ¬ meets e →
          (∀ k ∈ s.slice n, meets k → k.base ≠ e.base) → e ∈ t.slice n) ∧
        ∀ x, t.mem.read x = (writesAt (s.mem.writeBytes a (bytesOfNat 8 leaf.toNat)) ps (List.replicate 16 0)).read x)) ∧
    (kind = 3 → sized → (scope ≠ 7 ∨ word 3 = 3) → Fails .cmoRangeAttr s 6) ∧
    (kind = 3 → sized → scope = 7 → word 3 ≠ 3 → (base % 4096 ≠ 0 ∨ len % 4096 ≠ 0 ∨ (word 4).toNat % 16 ≠ 0) →
      Fails .cmoRangeAttr s 5)) ∧
  (∀ (s : State) (x : Nat), let part := (s.queue s.cur.args.index).part.toNat
    let word := fun n => BitVec.ofNat 64 (x / 2 ^ (64 * n))
    let events := (s.part part).events
    let n := (word 1).toNat % 4
    (AtHead s 3 x →
      let bits := if x / 2 ^ 16 % 2 = 1 then events.getD n 0 &&& ~~~(word 2) else events.getD n 0 ||| word 2
      let set := { s with parts := s.parts.setIfInBounds part { s.part part with events := events.setIfInBounds n bits } }
      (word 3 = 0 → Consumes .eventSet s set) ∧ (word 3 ≠ 0 → (word 3).toNat % 8 ≠ 0 → Fails .eventSet s 5) ∧
      (∀ ps, word 3 ≠ 0 → (word 3).toNat % 8 = 0 → s.cmdWrite? part (word 3).toNat 8 = .ok ps →
        Consumes .eventSet s (set.cmdStore true (ps.zip (bytesOfNat 8 (word 4).toNat))))) ∧
    (AtHead s 4 x →
      let hit := events.getD n 0 &&& word 2
      let met := word 2 = 0 ∨ (if x / 2 ^ 16 % 2 = 1 then hit = word 2 else hit ≠ 0)
      (met → Consumes .eventWait s s) ∧ (¬ met → Runs .eventWait s (· = s))) ∧
    (AtHead s 5 x → let k := s.queue s.cur.args.index
      (k.indirect ≠ none → Fails .indirect s 4) ∧
      (k.indirect = none → (word 1).toNat % 64 ≠ 0 → Fails .indirect s 5) ∧
      (k.indirect = none → (word 1).toNat % 64 = 0 → ((word 2).toNat % 64 ≠ 0 ∨ (word 2).toNat < 64 ∨ 65536 < (word 2).toNat) →
        Fails .indirect s 6) ∧
      (k.indirect = none → (word 1).toNat % 64 = 0 → (word 2).toNat % 64 = 0 → 64 ≤ (word 2).toNat → (word 2).toNat ≤ 65536 →
        Runs .indirect s (· = setQueue s { k with indirect := some ((word 1).toNat, (word 2).toNat, 0) }))) ∧
    (AtHead s 6 x →
      ((word 1).toNat % 8 ≠ 0 → Fails .timestamp s 5) ∧
      (∀ ps, (word 1).toNat % 8 = 0 → s.cmdWrite? part (word 1).toNat 8 = .ok ps →
        Consumes .timestamp s (s.cmdStore false (ps.zip (bytesOfNat 8 s.tbase.toNat))))) ∧
    (AtHead s 7 x →
      let p := s.part part
      let status := match p.openWave with
        | some w => w.number.setWidth 64
        | none => refused 1
      let sealed := { s with parts := s.parts.setIfInBounds part (match p.openWave with
        | some w => { p with waves := p.waves.map (fun v => if v.number == w.number then { v with sealed := true } else v) }
        | none => p) }
      (word 1 = 0 → Consumes .cellWave s sealed) ∧ (word 1 ≠ 0 → (word 1).toNat % 8 ≠ 0 → Fails .cellWave s 5) ∧
      (∀ ps, word 1 ≠ 0 → (word 1).toNat % 8 = 0 → s.cmdWrite? part (word 1).toNat 8 = .ok ps →
        Consumes .cellWave s (sealed.cmdStore false (ps.zip (bytesOfNat 8 status.toNat))))))

namespace Sys2Proof.Machine

/-- A gang has been taken away (R275): it, its tasks, its requests and its monitored waits are gone, and a core that it
held is as no gang holds it; its data cache, its fault record and PART stay (Table 1-7). -/
structure Gone (s t : State) (g : Gang) : Prop where
  gangs : t.gangs = s.gangs.filter (fun h => h.gid != g.gid)
  tasks : t.tasks = s.tasks.filter (fun k => k.gid != g.gid)
  sysc : t.sysc = s.sysc.filter (fun k => k.gid != g.gid)
  monitors : t.monitors = s.monitors.filter (fun m => m.gid != g.gid)
  mine : g.state ≠ .saved → ∀ n ∈ g.cores, { t.core n with dcache := [] } =
    { Core.reset with fltrec := (s.core n).fltrec, fltAt := (s.core n).fltAt, part := (s.core n).part }
  others : ∀ n, g.state = .saved ∨ n ∉ g.cores → t.core n = s.core n
  slots : ∀ q, (t.part q).slots = if q = g.part ∧ g.part < 16 then (s.part q).slots.filter (fun n => !g.slots.contains n)
    else (s.part q).slots
  saved : ∀ l, g.launch = some l → l.queue < 64 →
    (t.queue l.queue).saved = (s.queue l.queue).saved.filter (fun n => n != g.gid)

/-- The members of a wave that has flipped or aborted: what each becomes, and what leaves the partition as it was. -/
structure WaveEnds (s u : State) (part : Nat) (w : Wave) (f : Nat → Cell → Cell) (flip abort : BitVec 32) : Prop where
  machine : { u with parts := s.parts } = s
  others : ∀ q, q ≠ part → u.part q = s.part q
  cells : ∀ id, (u.part part).cell? id =
    ((s.part part).cell? id).map (fun c => if w.members.any (fun m => m.1 == id) then f id c else c)
  waves : (u.part part).waves = (s.part part).waves.filter (fun v => v.number != w.number)
  last : (u.part part).lastFlip = flip ∧ (u.part part).lastAbort = abort
  rest : { u.part part with cells := (s.part part).cells, waves := (s.part part).waves, lastFlip := (s.part part).lastFlip,
                            lastAbort := (s.part part).lastAbort } = s.part part

/-- The settled-view reads that wait for a wave at its end (R123, R296, R303): those of a cell that is not left CIRCULAR,
BLOCKED or FAILED are to read its front from then on, and those of one that is are to fault; nothing else changes. -/
structure ReadsGo (s t : State) (part wave : Nat) : Prop where
  machine : { t with cores := s.cores } = s
  core : ∀ n, { t.core n with ctxs := (s.core n).ctxs } = s.core n
  ctxs : ∀ n x, x < 12 → { (t.core n).ctx x with cellSel := ((s.core n).ctx x).cellSel } = (s.core n).ctx x
  selected : ∀ n x w id, x < 12 → (s.core n).part.toNat = part → ((s.core n).ctx x).wait = some w → w.kind = .cell id wave →
    ((t.core n).ctx x).cellSel = ((s.part part).cell? id).map (fun c =>
      { id := id, extent := c.extent, buf := c.front, state := c.state })
  others : ∀ n x, x < 12 → (s.core n).part.toNat ≠ part ∨ (∀ w id, ((s.core n).ctx x).wait = some w → w.kind ≠ .cell id wave) →
    ((t.core n).ctx x).cellSel = ((s.core n).ctx x).cellSel

/-- A wave that fails (step 1 of R303): its failing cells, the end of its other formula tasks (of which one that has ended by
itself with a code other than 0 fails too), and what the host is told: the failing cell of the lowest id. -/
structure WaveFails (s t : State) (part : Nat) (wave : Nat) (id : Nat) (exit : Option (BitVec 16)) : Prop where
  waves : part < 16 → (t.part part).waves = (s.part part).waves.map (fun w =>
    if w.number == BitVec.ofNat 32 wave then { w with failing := w.failing ++ [id] } else w)
  gangs : t.gangs = s.gangs.map (fun g => if g.part == part && g.formula.any (fun f => f.2 == wave) then
    { g with fate := g.fate.or (some (if (∀ n ∈ g.cores, (s.core n).ended = true) ∧ (s.core g.origin).exit ≠ 0
      then 1 else 2)) } else g)
  told : (∀ w ∈ (s.part part).waves, w.number = BitVec.ofNat 32 wave → ∀ c ∈ w.failing, id ≤ c) →
    HostNotice.waveAborted part id exit ∈ t.notices
  cells : ∀ q, (t.part q).cells = (s.part q).cells
  memory : ∀ a, t.mem.read a = s.mem.read a
  cores : ∀ n, t.core n = s.core n

end Sys2Proof.Machine

/-- R296, R303: the flip of the lowest sealed wave, its members RECOMPUTED, and its abort, once a task has failed and its
gangs have ended; the bindings staged to it are installed afterwards, and the reads that wait for it go on. Otherwise the wave stands.
The model's readings in it: log 42. -/
def Obligations.WavesFlipAndAbort : Prop :=
  ∀ (s : State) (w : Wave), let part := s.cur.args.part
    let p := s.part part
    let installed := fun (u : State) => w.staged.foldl (fun (u : State) (e : Nat × Binding) => u.installBinding part e.1 e.2) u
    let failed := w.failing ++ w.failing.flatMap (p.asOf w).downstream
    let recomputed := ∀ m ∈ w.members, ∃ c, p.cell? m.1 = some c ∧ c.state = .recomputed
    let working := ∃ g ∈ s.gangs, g.part = part ∧ ∃ id, g.formula = some (id, w.number.toNat)
    part < 16 → p.waves.find? (·.sealed) = some w → (w.members.map (·.1)).Nodup →
      (w.failing = [] → recomputed → Runs .waveFlip s (fun t => ∃ u, ReadsGo (installed u) t part w.number.toNat ∧
        WaveEnds s u part w (fun _ c => { c with sel := !c.sel, gen := c.gen + 1, wave := w.number, after := none,
                                                 state := c.after.getD .settled }) w.number p.lastAbort)) ∧
      (w.failing ≠ [] ∨ ¬ recomputed → Runs .waveFlip s (· = s)) ∧
      (w.failing ≠ [] → ¬ working → Runs .waveAbort s (fun t => ∃ u, ReadsGo (installed u) t part w.number.toNat ∧
        WaveEnds s u part w (fun id c => { c with after := none, state := if id ∈ failed then .failed
                                                                            else c.after.getD .settled }) p.lastFlip w.number)) ∧
      (w.failing = [] ∨ working → Runs .waveAbort s (· = s))

/-- R293 to R295: a formula task is placed with its footprint in the scratchpad of its origin, its cores start at the
kernel's PC with s2, s3 and s4, and its cell counts as placed; tables or a footprint that cannot be read fail the wave.
Exit code 0 at its end makes the cell RECOMPUTED; any other end aborts the wave.
The model's readings in it: log 10. -/
def Obligations.FormulaTasksStartAndEnd : Prop :=
  (∀ (s : State) (w : Wave) (id die x : Nat) (c : Cell) (cs : List Nat), let part := s.cur.args.part
    let p := s.part part
    let gw := c.gwm1.toNat + 1
    let gh := c.ghm1.toNat + 1
    let origin := coreIn cs gw 0 0
    let foot := (p.asOf w).footprintBytes w c
    s.service.stopped = false → s.service.fatal = false → s.service.pst ≠ 2 → part < 16 → s.placement = none →
    p.formulaNext = some (w, id) → (p.asOf w).cell? id = some c →
    s.findPlace part s.heldClusters [0, 1, 2, 3] gw gh = some (die, cs) → (coresIn cs gw gh).Nodup →
      (∀ ps, s.cmdRead part c.wintab 384 = .ok x → s.readFootprint part origin foot = .ok ps → Intact s →
        (∃ gid : BitVec 16, gid ≠ 0 ∧ ∀ h ∈ s.gangs, h.gid ≠ gid) → (∃ tag, ∀ h ∈ s.gangs, h.tag ≠ tag) →
        (∀ n, (s.core n).dcache = []) →
        Runs .formulaTaskPlacement s (fun t =>
          (∃ g, t.gangs = s.gangs ++ [g] ∧ g.part = part ∧ g.formula = some (id, w.number.toNat) ∧ g.launch = none ∧
            g.supervisor = none ∧ g.plan = [] ∧ g.state = .running ∧ g.w = gw ∧ g.h = gh ∧ g.die = die ∧ g.clusters = cs ∧
            g.cores = coresIn cs gw gh ∧ (∀ h ∈ s.gangs, h.gid ≠ g.gid ∧ h.tag ≠ g.tag) ∧
            ∀ vx vy, vx < gw → vy < gh → let k := t.core (coreIn cs gw vx vy)
              k.placed = true ∧ k.gid = g.gid ∧ k.part = BitVec.ofNat 4 part ∧ k.vx = BitVec.ofNat 6 vx ∧
              k.vy = BitVec.ofNat 5 vy ∧ (k.ctx 0).pc = c.pc ∧ (k.ctx 0).live = true ∧ (k.ctx 11).live = false ∧
              (k.ctx 0).notBefore = s.clk + 1 + vx + vy ∧ (k.ctx 0).sa 2 = BitVec.ofNat 64 id ∧
              (k.ctx 0).sa 3 = w.number.setWidth 64 ∧ (k.ctx 0).sa 4 = BitVec.ofNat 64 c.foff ∧
              k.evw = Vector.replicate 4 0 ∧ k.resil = false ∧ k.windows = windowTriples x) ∧
          (∀ a, t.mem.read a = (ps.foldl (fun (m : Memory) e => m.write (Config.spLoc origin e.1) (s.mem.read e.2.loc)) s.mem).read a) ∧
          (t.part part).waves = p.waves.map (fun v => if v.number == w.number then { v with placed := v.placed ++ [id] } else v) ∧
          t.queues = s.queues)) ∧
      (∀ cls n o, s.cmdRead part c.wintab 384 = .error (.fault cls n o) ∨
          s.cmdRead part c.wintab 384 = .ok x ∧ s.readFootprint part origin foot = .error (.fault cls n o) →
        Runs .formulaTaskPlacement s (fun t => WaveFails s t part w.number.toNat id none ∧ ∃ r, HostNotice.record r ∈ t.notices ∧
          r.w0.extractLsb' 0 24 = BitVec.ofNat 8 cls.number ++ BitVec.ofNat 16 n ∧ r.w0.extractLsb' 48 4 = 12 ∧ r.w1 = c.pc ∧
          r.w2 = o))) ∧
  (∀ (s : State) (g : Gang) (id wave : Nat), s.gang? s.cur.args.gid = some g → g.formula = some (id, wave) →
    let out := (∀ n ∈ g.cores, (s.core n).ended = true) ∧ (s.core g.origin).exit ≠ 0
    let ended := (g.fate.isSome ∧ (g.fate = some 1 → g.state = .running → ∀ n ∈ g.cores, s.caughtUp n = true)) ∨ (g.state = .running ∧ g.saveDone = false ∧ ∀ n ∈ g.cores, (s.core n).ended = true)
    (¬ ended → Runs .formulaTaskEnd s (· = s)) ∧
    (ended → (∀ n, (s.core n).dcache = []) → Runs .formulaTaskEnd s (fun t => ∃ u, Gone s u g ∧
      (∀ a, u.mem.read a = s.mem.read a) ∧ (∀ q, (u.part q).cells = (s.part q).cells ∧ (u.part q).waves = (s.part q).waves) ∧
      (g.fate = some 2 → t = u) ∧
      (g.fate = none → (s.core g.origin).exit = 0 → { t with parts := u.parts } = u ∧
        ∀ k, (t.part g.part).cell? k = ((u.part g.part).cell? k).map (fun c =>
          if k = id ∧ g.part < 16 then { c with state := CellState.recomputed } else c)) ∧
      (g.fate ≠ some 2 → (g.fate = none → (s.core g.origin).exit ≠ 0) → WaveFails u t g.part (wave % 2 ^ 32) id
        (if out then some (s.core g.origin).exit else none)))))

namespace Sys2Proof.Machine

/-- A core that a launch has placed at virtual (x, y) (R28, R273), apart from its data cache: everything at its start
value but what the launch gives, and but its fault record, which stays (Table 1-7). -/
structure Launched (s t : State) (l : Launch) (g : Gang) (ws : List (Word × Word × Word)) (due : Bool) (x y : Nat) : Prop where
  core : ∃ tag era c0 c11, let k := t.core (coreIn g.clusters l.width x y)
    { k with dcache := [], vwb := Core.reset.vwb, vwl := Core.reset.vwl, vwi := Core.reset.vwi } = { Core.reset with
      placed := true, gid := g.gid, vx := BitVec.ofNat 6 x, vy := BitVec.ofNat 5 y, gwm1 := BitVec.ofNat 6 (l.width - 1),
      ghm1 := BitVec.ofNat 5 (l.height - 1), part := BitVec.ofNat 4 l.part, tag := tag, era := era,
      ctxs := (Core.reset.ctxs.setIfInBounds 0 c0).setIfInBounds 11 c11, barSince := due,
      wideBarSince := due && l.group != 0, evw := Core.reset.evw.setIfInBounds l.ssel (l.pk 3), resil := l.resil,
      fltrec := (s.core (coreIn g.clusters l.width x y)).fltrec, fltAt := (s.core (coreIn g.clusters l.width x y)).fltAt } ∧
    k.windows = ws ∧ tag = g.tag ∧ era = g.era ∧
    c0 = { Context.reset with pc := l.dw 0, live := true, notBefore := if due then s.clk + 1 + x + y else 0 } ∧
    (l.hode = true → c11 = { Context.reset with pc := l.dw 1, live := true, entryCheck := true,
                                                notBefore := if due then s.clk + 1 + x + y else 0 }) ∧
    (l.hode = false → c11.live = false)

/-- The queue that the distributor takes is one with something to place; none of the others goes before it: class, then
PASS, then number (R281). -/
def QueueOrder (s : State) : Prop := ∀ q c, s.choice = some (q, c) → q < 64 ∧ s.nextOf (s.queue q) = some c ∧
  ∀ n, n < 64 → n ≠ q → (s.nextOf (s.queue n)).isSome → let a := s.queue q
    let b := s.queue n
    a.cls.toNat < b.cls.toNat ∨ a.cls = b.cls ∧ (a.pass.toNat < b.pass.toNat ∨ a.pass = b.pass ∧ q < n)

end Sys2Proof.Machine

/-- R271 to R273, R278, R281, R282, R378: the distributor takes the queue of the lowest class, PASS and number, and its oldest
eligible launch with the whole of its group; where clusters are free the gangs start together, each core as R28 and R273 say, and
each queue pays a stride for each of its gangs; where none are, nothing is placed, and of the gangs of the partition in lower
classes those are asked to give way (lowest class first, then the latest placed) whose clusters suffice, and none where no choice
of them would.
The model's readings in it: logs 10, 24, 34. -/
def Obligations.LaunchesArePlaced : Prop :=
  (∀ s : State, QueueOrder s) ∧
  (∀ s : State, s.service.stopped = true ∨ s.service.fatal = true ∨ s.service.pst = 2 → Runs .launchPlacement s (· = s)) ∧
  (∀ (s : State) (l : Launch) (q : Queue), s.nextOf q = some (.launch l) → l ∈ q.pending ∧
    (∃ k ∈ s.launchGroup l, k.order = l.order) ∧ (l.group ≠ 0 → (s.launchGroup l).length = l.gcount) ∧
    ∀ k ∈ s.launchGroup l, (s.part k.part).events.getD k.wsel 0 &&& k.pk 2 = k.pk 2 ∧
      ∀ e : Launch, ((∃ q ∈ s.queues.toList, e ∈ q.pending ∧ e.part = k.part) ∨ ∃ g ∈ s.gangs, g.part = k.part ∧ g.launch = some e) →
        e.queue = k.queue → e.order < k.order →
          (∀ a ∈ e.writes, ∀ b ∈ k.reads ++ k.writes, ¬ (a.1 < b.1 + b.2 ∧ b.1 < a.1 + a.2)) ∧
          ∀ a ∈ e.reads, ∀ b ∈ k.writes, ¬ (a.1 < b.1 + b.2 ∧ b.1 < a.1 + a.2)) ∧
  (∀ (s : State) (l : Launch) (places : List (Nat × List Nat)) (tabs : List (List (Word × Word × Word) × List PlanEntry)),
    s.service.stopped = false → s.service.fatal = false → s.service.pst ≠ 2 → s.placement = none →
    s.refreshQueues.choice = some (l.queue, .launch l) → let ls := s.refreshQueues.launchGroup l
    let cores := (ls.zip places).flatMap (fun e => coresIn e.2.2 e.1.width e.1.height)
    let due := ls.all (fun k => !k.stime || decide ((k.pk 5).toNat ≤ s.tbase.toNat))
    s.refreshQueues.findPlaces ls s.heldClusters = some places → cores.Nodup → (ls.map (·.order)).Nodup →
    (∀ k ∈ ls, ∃ j ∈ (s.queue k.queue).pending, j.order = k.order) →
    (∀ k ∈ ls, s.refreshQueues.readTables k = .ok (tabs.getD (ls.idxOf k) ([], []))) →
    (∃ free : List (BitVec 16), free.Nodup ∧ free.length = ls.length ∧ ∀ gid ∈ free, gid ≠ 0 ∧ ∀ h ∈ s.gangs, h.gid ≠ gid) →
    (∀ n, (s.core n).dcache = []) →
      Runs .launchPlacement s (fun t =>
        (∃ gs : List Gang, t.gangs = s.gangs ++ gs ∧ gs.length = ls.length ∧ (gs.map (·.gid)).Nodup ∧
          ∀ (i : Nat) (k : Launch) (g : Gang), ls[i]? = some k → gs[i]? = some g → ∃ die cs ws plan, places[i]? = some (die, cs) ∧
            tabs.getD (ls.idxOf k) ([], []) = (ws, plan) ∧ g.launch = some k ∧ g.part = k.part ∧ g.die = die ∧
            g.clusters = cs ∧ g.w = k.width ∧ g.h = k.height ∧ g.cores = coresIn cs k.width k.height ∧ g.plan = plan ∧
            g.formula = none ∧ g.fate = none ∧ g.started = due ∧ g.state = (if due then .running else .starting) ∧
            g.supervisor = (if k.sup then some (coreIn cs k.width k.supXY.1 k.supXY.2) else none) ∧
            ∀ x y, x < k.width → y < k.height → Launched s t k g ws due x y) ∧
        (∀ n, n < 64 → (t.queue n).pending = (s.queue n).pending.filter (fun k => !ls.any (fun j => j.queue == n && j.order == k.order))) ∧
        (∀ n, n < 64 → (s.refreshQueues.queue n).ready = true → (t.queue n).pass = (s.refreshQueues.queue n).pass +
          BitVec.ofNat 64 ((ls.filter (fun k => k.queue == n)).length * (1048576 / ((s.queue n).tkt.toNat + 1)))) ∧
        t.orders = s.orders + ls.length ∧
        ∀ n, n ∉ cores → t.core n = s.core n)) ∧
  (∀ (s : State) (l : Launch), s.service.stopped = false → s.service.fatal = false → s.service.pst ≠ 2 → s.placement = none →
    s.refreshQueues.choice = some (l.queue, .launch l) →
    s.refreshQueues.findPlaces (s.refreshQueues.launchGroup l) s.heldClusters = none →
    let p := s.part l.part
    let classOf := fun (g : Gang) => ((g.launch.map (fun k => (s.queue k.queue).cls.toNat)).getD 0)
    let lower := fun (g : Gang) => g ∈ s.gangs ∧ g.part = l.part ∧ g.state ≠ .saved ∧ g.launch ≠ none ∧
      (s.queue l.queue).cls.toNat < classOf g
    let first := fun (g h : Gang) => classOf h < classOf g ∨ classOf g = classOf h ∧ h.order < g.order
    let fits := fun (vs : List Gang) => (s.refreshQueues.findPlaces (s.refreshQueues.launchGroup l)
      (s.heldClusters.filter (fun c => !vs.any (fun g => g.clusters.contains c)))).isSome
    let savable := fun (vs : List Gang) => (vs.flatMap (·.cores)).length ≤
      ((List.range p.savecap.toNat).filter (fun n => !p.slots.contains n)).length
    let limit := some (s.clk + p.drain.toNat * 1050)
    Runs .launchPlacement s (fun t => (∀ n, t.core n = s.core n) ∧ (∀ a, t.mem.read a = s.mem.read a) ∧
      (∀ n, (t.queue n).pending = (s.queue n).pending) ∧
      t.gangs.map (fun g => { g with drain := none }) = s.gangs.map (fun g => { g with drain := none }) ∧
      ((s.gangs.map (·.gid)).Nodup →
        (∀ (i : Nat) (g h : Gang), s.gangs[i]? = some g → t.gangs[i]? = some h → h.drain = g.drain ∨
          g.drain = none ∧ h.drain = limit ∧ g.state ≠ .saved ∧ ∃ v, lower v ∧ g ∈ s.groupOf v) ∧
        ((∀ vs : List Gang, (∀ v ∈ vs, lower v) → fits vs = false) → t.gangs = s.gangs) ∧
        (∀ (vs : List Gang) (n : Nat), vs.Nodup → (∀ v, v ∈ vs ↔ lower v) → vs.Pairwise first → 0 < n → n ≤ vs.length →
          (∀ v ∈ vs.take n, s.groupOf v = [v]) → savable (vs.take n) → fits (vs.take n) = true →
          (∀ m, 0 < m → m < n → fits (vs.take m) = false) →
          t.gangs = s.gangs.map (fun g => if g ∈ vs.take n then { g with drain := g.drain.or limit } else g)))))

/-- R93, R275, R280: a gang that is held for its start time begins with its launch barrier once the time has come; a gang whose
cores have all ended, or that a fault or an action has ended, gives up its clusters; its launch's events are set and, with CMPL,
its completion record is written.
The model's readings in it: log 23. -/
def Obligations.GangsStartAndEnd : Prop :=
  (∀ (s : State) (g : Gang), s.gang? s.cur.args.gid = some g → s.serving = true → s.groupOf g = [g] → g.cores.Nodup →
    g.state = .starting → g.started = false → g.stopping = false → g.saveDone = false →
    let due := ∀ l, g.launch = some l → l.stime = true → (l.pk 5).toNat ≤ s.tbase.toNat
    let wide := g.launch.any (fun l => l.group != 0)
    (¬ due → Runs .startTimeReached s (· = s)) ∧
    (due → (∀ n ∈ g.cores, (s.core n).resil = false) → Runs .startTimeReached s (fun t =>
      t.gangs = s.gangs.map (fun h => if h.gid == g.gid then { h with
        state := .running, started := true, barrierAt := s.clk, wideAt := if wide then s.clk else h.wideAt } else h) ∧
      (∀ n ∈ g.cores, let c := s.core n
        let at_ := s.clk + 1 + c.vx.toNat + c.vy.toNat
        { t.core n with ctxs := c.ctxs, barSince := c.barSince, wideBarSince := c.wideBarSince } = c ∧
        (t.core n).barSince = true ∧ (t.core n).wideBarSince = wide ∧
        ∀ x, x < 12 → (t.core n).ctx x = if x = 0 ∨ x = 11 then { c.ctx x with notBefore := at_ } else c.ctx x) ∧
      (∀ n, n ∉ g.cores → t.core n = s.core n) ∧ { t with cores := s.cores, gangs := s.gangs } = s))) ∧
  (∀ (s : State) (g : Gang) (l : Launch), s.gang? s.cur.args.gid = some g → g.launch = some l →
    let ended := (g.fate.isSome ∧ (g.fate = some 1 → g.state = .running → ∀ n ∈ g.cores, s.caughtUp n = true)) ∨
      (g.state = .running ∧ g.saveDone = false ∧ ∀ n ∈ g.cores, (s.core n).ended = true)
    let status := g.fate.getD 0
    let exit := if status = 0 then (s.core g.origin).exit.toNat else 0
    (s.serving = false ∨ (s.completions = [] ∧ ¬ ended) → Runs .gangEnd s (· = s)) ∧
    (s.serving = true → s.completions = [] → ended → (∀ n, (s.core n).dcache = []) → Intact s →
      let events := fun (t : State) => ∀ q n, n < 4 → (t.part q).events.getD n 0 =
        if q = l.part ∧ q < 16 ∧ n = l.ssel then (s.part q).events.getD n 0 ||| l.pk 3 else (s.part q).events.getD n 0
      (l.cmpl = false → Runs .gangEnd s (fun t => Gone s t g ∧ (∀ a, t.mem.read a = s.mem.read a) ∧ events t)) ∧
      (∀ ps, l.cmpl = true → (s.dropGang g).cmdWrite? l.part (l.pk 6).toNat 16 = .ok ps →
        Runs .gangEnd s (fun t => Gone s { t with monitors := s.monitors.filter (fun m => m.gid != g.gid) } g ∧ events t ∧ ∀ a, t.mem.read a =
          (writesAt s.mem ps (bytesOfNat 8 (exit % 65536 + status * 65536) ++ bytesOfNat 8 s.tbase.toNat)).read a)) ∧
      (∀ c n o, l.cmpl = true → (s.dropGang g).cmdWrite? l.part (l.pk 6).toNat 16 = .error (.fault c n o) →
        Runs .gangEnd s (fun t => Gone s t g ∧ (∀ a, t.mem.read a = s.mem.read a) ∧ events t))))

namespace Sys2Proof.Machine

/-- Where a core record holds a context (Tables 1-5, 21-2). -/
def recordAt (x : Nat) : Nat := if x = 0 then 0x2F740 else if x = 11 then 0x2F580 else 0x2E400 + 448 * (x - 1)

/-- The core record of Table 21-2 stands at an address: of the scratchpad, the lane slices, the tiles, the v, k, s and a registers,
the PCs, TRAPPC and the fault record of core `n` as they were; at its end stands the check value. -/
structure RecordAt (s t : State) (n pa : Nat) : Prop where
  scratchpad : ∀ off, off < 131072 → t.mem.read (pa + off) = s.mem.read (Config.spLoc n off)
  lanes : ∀ off, off < 16384 → t.mem.read (pa + 0x20000 + off) = s.mem.read (Config.laneLoc n 0 0 + off)
  tiles : ∀ i off, i < 8 → off < 4096 → t.mem.read (pa + 0x24000 + 4096 * i + off) =
    ((s.core n).t.getD i 0).extractLsb' (8 * off) 8
  vregs : ∀ i j, i < 32 → j < 64 → t.mem.readNat (pa + 0x2C000 + 256 * i + 4 * j) 4 =
    (((s.core n).v.getD i VReg.zero).getD j 0).toNat
  sregs : ∀ x r, x < 12 → x = 0 ∨ x = 11 ∨ ((s.core n).ctx x).live = true → 0 < r → r < 32 →
    t.mem.readWord (pa + recordAt x + 8 * (r - 1)) = ((s.core n).ctx x).s.getD r 0
  pcs : ∀ x, x < 12 → x = 0 ∨ x = 11 ∨ ((s.core n).ctx x).live = true →
    t.mem.readWord (pa + recordAt x + 0xF8) = ((s.core n).ctx x).pc
  aregs : ∀ x r, x < 12 → x = 0 ∨ x = 11 ∨ ((s.core n).ctx x).live = true → r < 16 →
    t.mem.readWord (pa + recordAt x + 0x100 + 8 * r) = ((s.core n).ctx x).a.getD r 0
  dead : ∀ x off, 1 ≤ x → x ≤ 10 → ((s.core n).ctx x).live = false → off < 448 → t.mem.read (pa + recordAt x + off) = 0
  masks : ∀ i, i < 8 → t.mem.readWord (pa + 0x2F900 + 8 * i) = (s.core n).k.getD i 0
  trappc : t.mem.readWord (pa + 0x2F9F0) = (s.core n).trappc
  fault : t.mem.readNat (pa + 0x2FA00) 32 = (s.core n).fltrec.bytes.toNat
  check : BitVec.ofNat 512 (t.mem.readNat (pa + 0x32FC0) 64) = Config.checkValue (t.mem.readBytes pa 0x32FC0)

/-- What the device keeps of a core of a saved gang: all of it but its caches; a wait is abandoned and will issue again, and the
arrival of a BARW that waits is withdrawn with it (R163, R341). -/
structure KeptCore (clk : Nat) (c k : Core) : Prop where
  core : { k with ctxs := c.ctxs, operands := c.operands, dcache := c.dcache, lines := c.lines, bars := c.bars } = c
  ctxs : ∀ x, x < 12 → { k.ctx x with
    shippedTo := (c.ctx x).shippedTo, waitt := (c.ctx x).waitt, wait := (c.ctx x).wait, cellSel := (c.ctx x).cellSel } = c.ctx x
  waits : ∀ x, x < 12 → (k.ctx x).wait = none ∧ (k.ctx x).cellSel = none
  arrivals : ∀ m, m < 6 → let waiting := ∃ w scope, (c.ctx 0).wait = some w ∧ w.kind = .barDone scope none ∧ m = scope.toNat - 1
    (waiting → k.bars.getD m {} = { c.bars.getD m {} with count := (c.bars.getD m {}).count - 1, pending := false }) ∧
    (¬ waiting → k.bars.getD m {} = c.bars.getD m {})
  remainders : ∀ x r a, x < 12 → (c.ctx x).waitt = some (r, a) → (k.ctx x).waitt = some (r - (clk - a), 0)

/-- A gang stands saved (R341, R342): its slots, its records, what is kept of its cores, and the cores left behind. -/
structure Saved (s t : State) (g : Gang) (wake : Option WakeCondition) : Prop where
  gang : ∃ slots saves held, let p := s.part g.part
    slots = ((List.range p.savecap.toNat).filter (fun n => !p.slots.contains n)).take g.cores.length ∧
    t.gangs = s.gangs.map (fun h => if h.gid == g.gid then
      { h with wake := wake, stopping := true, saves := saves, slots := slots, held := held, saveDone := true,
               savedTbase := s.tbase } else h) ∧
    (t.part g.part).slots = p.slots ++ slots ∧ saves.length = g.cores.length ∧ slots.length = g.cores.length ∧
    (∀ (i n m : Nat), g.cores[i]? = some n → slots[i]? = some m → RecordAt s t n (p.savebase.toNat + m * 0x33000) ∧
      KeptCore s.clk (s.core n) (saves.getD i Core.reset)) ∧
    (∀ a, (∀ m ∈ slots, a < p.savebase.toNat + m * 0x33000 ∨ p.savebase.toNat + (m + 1) * 0x33000 ≤ a) →
      t.mem.read a = s.mem.read a) ∧
    ∀ m, m ∈ held ↔ ∃ n ∈ g.cores, Post.message n m ∈ s.posts
  mine : ∀ n ∈ g.cores, t.core n = { Core.reset with
    dcache := (s.core n).dcache, fltrec := (s.core n).fltrec, fltAt := (s.core n).fltAt, part := (s.core n).part }
  others : ∀ n, n ∉ g.cores → t.core n = s.core n
  queues : t.queues = s.queues

/-- The free slots of the save area of a partition, lowest first (R342, R352). -/
def slots342 (p : Partition) : List Nat := (List.range p.savecap.toNat).filter (fun n => !p.slots.contains n)

/-- The slots that a save would take lie in memory. -/
def area352 (s : State) (p : Partition) (n : Nat) : Prop :=
  ∀ m ∈ (slots342 p).take n, s.okPa (p.savebase.toNat + m * 0x33000 + 0x33000 - 1) = true

/-- The stop of a gang that is to be saved (R212, R234, R341, R342): it waits for open phases, then the origin issues no more, and
once the gang has stopped it is saved; without slots the save does not take place. A swap that is due by then names what it waits
for (R283). -/
def StopsAndSaves (i : Instr) (s : State) (g : Gang) (wake : Option WakeCondition) : Prop :=
  let p := s.part g.part
  let sets := fun (f : Gang → Gang) (t : State) => t = { s with gangs := s.gangs.map (fun h => if h.gid == g.gid then f h else h) }
  let slots := g.cores.length ≤ (slots342 p).length
  let area := area352 s p g.cores.length
  let isOpen := ∃ n ∈ g.cores, (s.core n).phase = .openPhase ∧ ((s.core n).ctx 0).halted = false
  (∀ h ∈ s.gangs, h.gid = g.gid → h = g) →
  (¬ slots → Runs i s (sets (fun h => { h with drain := none, wake := none, stopping := false }))) ∧
  (slots → ¬ area → exec i s = .fault (.noSuchPhysicalAddress p.savebase.toNat)) ∧
  (slots → area → isOpen → g.stopping = false → Runs i s (sets (fun h => { h with wake := wake }))) ∧
  (slots → area → (isOpen → g.stopping = true) → s.stoppedAll g = false → Runs i s (sets (fun h => { h with wake := wake, stopping := true }))) ∧
  (slots → area → (isOpen → g.stopping = true) → s.stoppedAll g = true → p.slots.Nodup → (∀ n ∈ p.slots, n < p.savecap.toNat) →
    g.cores.Nodup → Runs i s (fun t => Saved s t g (wake.or (s.dueWake g))))

end Sys2Proof.Machine

/-- R212, R234, R282, R283, R340 to R343: a request for pre-emption and its drain limit; the forced save once it has lapsed, and the
swap of a gang one of whose waits, or a withholding of whose stream (R209), has exceeded its WAITTH, HOLD apart (R242), with the
wake condition of that wait, due from then on; the release of the clusters; what
makes a swapped gang eligible. That a save area may name no address of the machine is the model's stop (Fault.noSuchPhysicalAddress);
it is R325's. -/
def Obligations.GangsGiveWay : Prop :=
  (∀ (s : State) (g : Gang), s.gang? s.cur.args.gid = some g → let p := s.part g.part
    let gs := (s.groupOf g).filter (fun h => h.state != .saved)
    let need := (gs.flatMap (·.cores)).length
    (need ≤ (slots342 p).length → (∀ h ∈ gs, h.part = g.part) → Runs .preemptionRequest s
      (· = { s with gangs := s.gangs.map (fun h => if gs.any (fun k => k.gid == h.gid) then
        { h with drain := h.drain.or (some (s.clk + p.drain.toNat * 1050)) } else h) })) ∧
    ((slots342 p).length < need → (∀ h ∈ gs, h.part = g.part) → Runs .preemptionRequest s (· = s))) ∧
  (∀ (s : State) (g : Gang), s.gang? s.cur.args.gid = some g → let due := ∃ c, g.drain = some c ∧ c ≤ s.clk
    let stoppable := g.state ≠ .saved ∧ g.saveDone = false ∧ g.rollback = [] ∧ s.gangEnded g = false
    let gs := (s.groupOf g).filter (fun h => h.drain.isSome && h.state != .saved && !h.saveDone && h.rollback.isEmpty &&
      !s.gangEnded h)
    let need := (gs.flatMap (·.cores)).length
    (¬ due ∨ ¬ stoppable → Runs .drainExpiry s (· = s)) ∧
    (due → stoppable → gs = [g] → StopsAndSaves .drainExpiry s g g.wake) ∧
    (due → stoppable → (s.gangs.map (·.gid)).Nodup →
      ((slots342 (s.part g.part)).length < need → Runs .drainExpiry s (· = { s with gangs := s.gangs.map (fun h =>
        if h ∈ gs then { h with drain := none, wake := none, stopping := false } else h) })) ∧
      (need ≤ (slots342 (s.part g.part)).length → area352 s (s.part g.part) need →
        (∃ h ∈ gs, s.stoppedAll h = false) → Runs .drainExpiry s (fun t => (∀ n, t.core n = s.core n) ∧
          (∀ a, t.mem.read a = s.mem.read a) ∧ ∀ q, (t.part q).slots = (s.part q).slots)))) ∧
  (∀ (s : State) (g : Gang), let n := s.cur.args.core
    let x := (s.core n).ctx s.cur.args.ctx.val
    let stoppable := g.state = .running ∧ g.saveDone = false ∧ g.rollback = [] ∧ s.gangEnded g = false
    let waits := fun (k : WakeCondition) => ∃ w, x.wait = some w ∧ w.limit < s.waited n w.since ∧ x.stop = none ∧
      w.kind.wakeOf n s.cur.args.ctx.val = some k
    let withheld := s.cur.args.ctx = 0 ∧ ∃ c ∈ (s.core n).conds, c.met = none ∧ ∃ since limit, c.since = some (since, limit) ∧
      limit < s.waited n since
    s.gangOf n = some g →
      (∀ k, stoppable → g.wake = some k ∨ (g.wake = none ∧ (waits k ∨ ((∀ j, ¬ waits j) ∧ withheld ∧ k = .interval))) →
        (s.cur.args.index ≠ 1 → StopsAndSaves .longWaitSwap s g (some k)) ∧
        (s.cur.args.index = 1 → Runs .longWaitSwap s (· = { s with gangs := s.gangs.map (fun h =>
          if h.gid == g.gid then { h with wake := some k } else h) }))) ∧
      (¬ stoppable ∨ (g.wake = none ∧ (∀ j, ¬ waits j) ∧ ¬ withheld) → Runs .longWaitSwap s (· = s))) ∧
  (∀ (s : State) (g : Gang), s.gang? s.cur.args.gid = some g →
    (g.saveDone = false ∨ g.state = .saved → Runs .saveComplete s (· = s)) ∧
    (g.saveDone = true → g.state ≠ .saved → Runs .saveComplete s (fun t =>
      { t with gangs := s.gangs, queues := s.queues, asleep := s.asleep } = s ∧ (s.service.pst ≠ 2 → t.asleep = s.asleep) ∧
      t.gangs = s.gangs.map (fun h => if h.gid == g.gid then { h with
        state := .saved, drain := none, stopping := false, swappedAt := s.clk,
        eligible := h.wake.isNone || h.wake.any (s.woken h) } else h) ∧
      ∀ q, q < 64 → t.queue q = if g.launch.any (fun l => l.queue == q) then { s.queue q with saved := g.gid :: (s.queue q).saved }
        else s.queue q))) ∧
  (∀ (s : State) (g : Gang), s.gang? s.cur.args.gid = some g →
    let sets := fun (t : State) => t = { s with gangs := s.gangs.map (fun h => if h.gid == g.gid then { h with eligible := true } else h) }
    let on := fun (b : Prop) => (b → Runs .swapWake s sets) ∧ (¬ b → Runs .swapWake s (· = s))
    (g.state ≠ .saved → Runs .swapWake s (· = s) ∧ Runs .resumeIntervalExpiry s (· = s)) ∧
    (g.state = .saved →
      (g.wake.isSome ∧ g.swappedAt + s.service.resume ≤ s.clk → Runs .resumeIntervalExpiry s sets) ∧
      (g.wake = none ∨ s.clk < g.swappedAt + s.service.resume → Runs .resumeIntervalExpiry s (· = s)) ∧
      (g.wake = none ∨ g.wake = some .interval → Runs .swapWake s (· = s)) ∧
      (∀ n x, g.wake = some (.monitor n x) →
        on (¬ ∃ m ∈ s.monitors, m.gid = g.gid ∧ m.core = n ∧ m.ctx = x ∧ m.hit = false)) ∧
      (∀ part ia, g.wake = some (.page part ia) →
        on (¬ ∃ r ∈ s.pageRequests, r.part = part ∧ r.page = ia - ia % 4096 ∧ r.host = none)) ∧
      (∀ part page, g.wake = some (.hostPage part page) → let pasid := (s.part part).hpasid
        on (s.hostRequested pasid page = false ∧ ¬ ∃ a ∈ s.hostAsked, a.2.1 = pasid ∧ a.2.2 = page)) ∧
      (∀ n x r a, g.wake = some (.waittRel n x) → (g.savedCtx n x).waitt = some (r, a) →
        on (r ≤ (s.tbase.toNat - g.savedTbase.toNat) * 1050 / 65536000)) ∧
      (∀ n x, g.wake = some (.waittRel n x) → (g.savedCtx n x).waitt = none → Runs .swapWake s sets) ∧
      (∀ v, g.wake = some (.waittAbs v) → on (v.toNat ≤ s.tbase.toNat)) ∧
      (∀ n x, g.wake = some (.sysc n x) →
        on (¬ ∃ r ∈ s.sysc, r.gid = g.gid ∧ r.core = n ∧ r.ctx = x ∧ r.answer = none))))

/-- R281, R293, R345, R346: a saved gang that the distributor takes, or a formula gang ahead of it, is placed again with every saved
gang of its group; a gang alone in its group takes the clusters found for it, its scratchpads, lane slices, registers and contexts
as they were saved, and its first issue is skewed; where no clusters are free nothing is placed; a record whose check value fails
ends the gang with a record of firmware.
The model's readings in it: logs 25, 35, 36, 44. -/
def Obligations.SavedGangsReturn : Prop :=
  ∀ (s : State) (g : Gang), s.gang? s.cur.args.gid = some g → s.placement = none → let r := s.refreshQueues
    let gs := (s.groupOf g).filter (fun h => h.state == .saved &&
      (h.gid == g.gid || h.eligible || h.swappedAt == g.swappedAt && (h.wake.isNone || g.wake.isNone)))
    let settled := ∀ h ∈ s.groupOf g, h.state = .saved ∨ h.drain = none ∧ h.stopping = false ∧ h.saveDone = false
    let chosen := (g.launch = none ∧ g.state = .saved ∧ g.eligible = true) ∨ ∃ l, g.launch = some l ∧ r.choice = some (l.queue, .restore g.gid)
    let ready := g.state = .saved ∧ settled ∧ s.placing = true ∧ chosen ∧ ∀ h ∈ gs, h.eligible = true ∧ h.fate = none
    (¬ ready → Runs .gangRestore s (· = s)) ∧
    (ready → r.findRestores gs s.heldClusters = none → Runs .gangRestore s (fun t => (∀ n, t.core n = s.core n) ∧
      (∀ a, t.mem.read a = s.mem.read a) ∧
      t.gangs.map (fun h => { h with drain := none }) = s.gangs.map (fun h => { h with drain := none }))) ∧
    (∀ die cs plan, ready → gs = [g] → r.findRestores gs s.heldClusters = some [(die, cs)] → r.readPlan g = .ok plan →
      (∀ n, (s.core n).dcache = []) →
      let cores := coresIn cs g.w g.h
      let pa := fun (i : Nat) => (s.part g.part).savebase.toNat + g.slots.getD i 0 * 0x33000
      let good := ∀ m ∈ g.slots, let a := (s.part g.part).savebase.toNat + m * 0x33000
        BitVec.ofNat 512 (s.mem.readNat (a + 0x32FC0) 64) = Config.checkValue (s.mem.readBytes a 0x32FC0)
      (¬ good → Runs .gangRestore s (fun t => (∀ n, t.core n = s.core n) ∧
        t.gangs = s.gangs.map (fun h => if h.gid == g.gid then { h with fate := h.fate.or (some 1) } else h) ∧
        ∃ k, HostNotice.record k ∈ t.notices ∧ k.w0.extractLsb' 16 8 = 17 ∧ k.w0.extractLsb' 48 4 = 12 ∧ k.w0.getLsbD 63 = true)) ∧
      (good → cores.Nodup → (∀ n ∈ cores, n < 8192) → g.saves.length = cores.length → g.slots.length = cores.length →
        g.slots.Nodup → (s.part g.part).savebase.toNat + (s.part g.part).savecap.toNat * 0x33000 < 2 ^ 48 →
        (∀ m ∈ g.slots, m < (s.part g.part).savecap.toNat) →
        (∀ m ∈ s.monitors, m.gid ≠ g.gid) → (∀ k ∈ s.sysc, k.gid ≠ g.gid) →
        Runs .gangRestore s (fun t =>
          (∃ sup, t.gangs = s.gangs.map (fun h => if h.gid == g.gid then { h with
              state := if h.started then .running else .starting, die := die, cores := cores, clusters := cs,
              order := s.orders + 1, supervisor := sup, plan := plan, drivings := [], holders := [], holds := [],
              pastHolds := [], mhz := s.service.mhz, throttle := none, saves := [], slots := [], held := [], saveDone := false, wake := none,
              eligible := false } else h) ∧
            (sup.isSome ↔ g.supervisor.isSome) ∧
            ∀ i : Nat, i < cores.length → g.cores.Nodup → g.cores.length = cores.length → g.supervisor = g.cores[i]? → sup = cores[i]?) ∧
          (∀ (i n : Nat), cores[i]? = some n → let c := t.core n
            let k := g.saves.getD i Core.reset
            { c with ctxs := k.ctxs, dcache := k.dcache, checker := k.checker, seq := k.seq, mode := k.mode } = k ∧
            { c.seq with since := k.seq.since } = k.seq ∧ c.checker.active = false ∧
            (∀ x, x < 12 → { c.ctx x with notBefore := (k.ctx x).notBefore, waitt := (k.ctx x).waitt } = k.ctx x ∧
              (c.ctx x).notBefore = s.clk + 1 + k.vx.toNat + k.vy.toNat) ∧
            (∀ off, off < 131072 → g.started = false ∨ k.resil = false ∨ off < 0x1C000 →
              t.mem.read (Config.spLoc n off) = s.mem.read (pa i + off)) ∧
            ∀ off, off < 16384 → t.mem.read (Config.laneLoc n 0 0 + off) = s.mem.read (pa i + 131072 + off)) ∧
          (∀ n, n ∉ cores → t.core n = s.core n) ∧
          (g.part < 16 → (t.part g.part).slots = (s.part g.part).slots.filter (fun m => !g.slots.contains m)) ∧
          ∀ l, g.launch = some l → l.queue < 64 → (t.queue l.queue).saved = (s.queue l.queue).saved.filter (fun m => m != g.gid) ∧
            (t.queue l.queue).pass = (r.queue l.queue).pass + BitVec.ofNat 64 (1048576 / ((s.queue l.queue).tkt.toNat + 1)))))

namespace Sys2Proof.Machine

/-- Of the machine, nothing but the service tile, what the host is told, and the counter of free values changes. -/
def OnlyService (s t : State) : Prop := { t with service := s.service, notices := s.notices, freeCtr := s.freeCtr } = s

/-- A change of the clock is asked of every placed gang at once, which takes it under R240; nothing happens when the clock stays. -/
def AsksClock (s t : State) (mhz : Nat) : Prop :=
  t.service = { s.service with mhz := mhz } ∧
  t.gangs = (if s.service.mhz = mhz then s.gangs
    else s.gangs.map (fun g => if g.state = .saved then g else { g with throttle := some (mhz, s.clk) })) ∧
  { t with service := s.service, gangs := s.gangs, freeCtr := s.freeCtr } = s

/-- The device has been told a power state and a cap (R321, R378, Table 25-3): FULL runs at 1,050 MHz; on leaving STANDBY every
array wakes, and in it idle cores sleep; the clock and the pre-emptions of gangs follow. -/
structure PowerEntered (s u : State) (pst : BitVec 3) (cap : BitVec 16) : Prop where
  service : u.service = { s.service with pst := pst, cap := cap, mhz := if pst = 0 then 1050 else s.service.mhz }
  queues : u.queues = s.queues
  gangs : u.gangs.map (fun g => { g with drain := none, throttle := none }) = s.gangs.map (fun g => { g with drain := none, throttle := none })
  throttled : ∀ (i : Nat) (g h : Gang), s.gangs[i]? = some g → u.gangs[i]? = some h →
    h.throttle = if pst = 0 ∧ s.service.mhz ≠ 1050 ∧ g.state ≠ .saved then some (1050, s.clk) else g.throttle
  awake : s.service.pst = 2 → pst ≠ 2 → u.asleep = []
  asleep : pst = 2 → ∀ e ∈ s.cores, e.2.placed = false → (Table.find u.asleep e.1).isSome
  preempted : pst = 2 → ∀ g ∈ s.gangs, g.state ≠ .saved → s.groupOf g = [g] → (∀ h ∈ s.gangs, h.gid = g.gid → h = g) →
    g.cores.length ≤ (slots342 (s.part g.part)).length →
    ∃ h ∈ u.gangs, h.gid = g.gid ∧ h.drain.isSome
  others : u.clk = s.clk ∧ u.tbase = s.tbase ∧ u.parts = s.parts ∧ u.tasks = s.tasks

end Sys2Proof.Machine

/-- R240, R321, R378 to R381, R388: the power states by register and by packet, the steps of CAPPED and its excess, a thermal
trip. Which step of the clock CAPPED takes, and the value of a state or cap outside its range, are the model's free values
(log 9).
The model's readings in it: log 28. -/
def Obligations.PowerStatesAndTrips : Prop :=
  (∀ s : State, let v := s.cur.args.word
    let pst := v.extractLsb' 0 3
    let cap := v.extractLsb' 12 16
    let most := if s.service.grade = 0x2365 then 3100 else if s.service.grade = 0x2357 then 2600 else 3200
    let told := { s.service with pwrq := v.extractLsb' 32 6, tmax := BitVec.ofNat 16 s.cur.args.count }
    let hot := s.service.trip = true ∨ 760 < s.cur.args.count
    (hot → Runs .powerStateWrite s (fun t => OnlyService s t ∧ ∃ c : BitVec 16, t.service = { told with cap := c } ∧
      1000 ≤ c.toNat ∧ c.toNat ≤ most ∧ (1000 ≤ cap.toNat → cap.toNat ≤ most → c = cap))) ∧
    (¬ hot → Runs .powerStateWrite s (fun t => ∃ p c, PowerEntered { s with service := { told with stopped := false }, freeCtr := s.freeCtr + 2 } t p c ∧
      p.toNat ≤ 2 ∧ 1000 ≤ c.toNat ∧ c.toNat ≤ most ∧ (pst.toNat ≤ 2 → p = pst) ∧
      (1000 ≤ cap.toNat → cap.toNat ≤ most → c = cap)))) ∧
  (∀ (s : State) (x : Nat), AtHead s 8 x → let v := BitVec.ofNat 64 (x / 2 ^ 64)
    let pst : BitVec 3 := v.extractLsb' 0 3
    let cap : BitVec 16 := v.extractLsb' 12 16
    let most := if s.service.grade = 0x2365 then 3100 else if s.service.grade = 0x2357 then 2600 else 3200
    let mine := s.cur.args.index = s.service.pwrq.toNat
    let known := pst.toNat ≤ 2 ∧ 1000 ≤ cap.toNat ∧ cap.toNat ≤ most
    let reached := fun (u : State) => if pst = 2 then ∀ g ∈ u.gangs, g.state = .saved else ∀ g ∈ u.gangs, g.throttle = none
    (¬ mine → Fails .power s 7) ∧ (mine → ¬ known → Fails .power s 6) ∧
    (mine → known → tripDue s.agenda = true → Runs .power s (· = s)) ∧
    (mine → known → tripDue s.agenda = false → s.service.pst = pst → s.service.cap = cap → (reached s → Consumes .power s s) ∧
      (¬ reached s → Runs .power s (· = s))) ∧
    (mine → known → tripDue s.agenda = false → s.service.pst ≠ pst ∨ s.service.cap ≠ cap → Runs .power s (fun t => ∃ u, PowerEntered s u pst cap ∧
      (reached u → t = passed u) ∧ (¬ reached u → t = u)))) ∧
  (∀ s : State, let watts := s.cur.args.count
    let mhz := s.service.mhz
    let on := s.service.pst = 1 ∧ s.service.stopped = false ∧ s.service.fatal = false
    (¬ on → Runs .capWindow s (· = s)) ∧
    (on → mhz % 25 = 0 → 500 ≤ mhz → mhz ≤ 1050 →
      (watts < s.service.cap.toNat → Runs .capWindow s (fun t => ∃ m, AsksClock s t m ∧ mhz ≤ m ∧ m ≤ 1050 ∧ m % 25 = 0)) ∧
      (s.service.cap.toNat ≤ watts → 500 < mhz → Runs .capWindow s (fun t => ∃ m, AsksClock s t m ∧ m < mhz ∧ 500 ≤ m ∧ m % 25 = 0)) ∧
      (s.service.cap.toNat ≤ watts → mhz = 500 → Runs .capWindow s (fun t => OnlyService s t ∧ t.service = s.service ∧
        t.notices = .capExcess watts :: s.notices)))) ∧
  (∀ s : State, let v := s.service
    let hot := s.cur.args.count
    (hot < 840 → Runs .thermalTrip s (· = s)) ∧
    (840 ≤ hot → Runs .thermalTrip s (· = { s with notices := .thermalTrip :: s.notices, service := { v with
      stopped := true, trip := true, tmax := BitVec.ofNat 16 hot, go := false, fwst := if v.go then 4 else v.fwst } })))

namespace Sys2Proof.Machine

/-- The counter of the partition that owns a cluster, or 16 (R382). -/
def counter382 (s : State) (c : Nat) : Nat :=
  ((List.range 16).find? (fun q => ((s.part q).clu.getD (c / 64) 0).getLsbD (c % 64))).getD 16

/-- What the entries of a table of energies whose key goes to a counter come to. -/
def energy383 (l : List (Nat × Nat)) (counter : Nat → Nat) (q : Nat) : Nat :=
  ((l.filter (fun e => min 16 (counter e.1) == q)).map (·.2)).sum

/-- The core energy that an interval brings a counter (R383, R388): of the clusters of the partition, a cluster that changes its owner in
that clock counting for the outgoing one; of clusters zeroed after it owned them; and of the work that serves it. -/
def core383 (s : State) (m : EnergyMeters) (q : Nat) : Nat :=
  energy383 m.core (fun c => match Table.find s.service.outgoing c with
    | some (q, t) => if t = s.clk then q else counter382 s c
    | none => counter382 s c) q +
  energy383 m.zeroing (fun c => match Table.find s.service.outgoing c with
    | some (q, _) => q
    | none => counter382 s c) q + energy383 m.work id q

end Sys2Proof.Machine

/-- R376, R377, R382 to R386, R388, R280, R314: samples of energy lose nothing, go to the owners of their clusters and share in proportion; the checkpoint; the signed reading
and the attestation report; a takeover; a live update; the discipline of TBASE; the mark of a failed sub-channel. The signature, the
digests and the verdict on an image are the model's free values (log 9).
The model's readings in it: logs 15, 28, 48. -/
def Obligations.TheServiceTileAnswers : Prop :=
  (∀ s : State, let m := s.cur.args.meters
    let core := core383 s m
    let part := fun (l : List Nat) q => l.getD q 0
    let all := fun (l : List (Nat × Nat)) => (l.map (·.2)).sum
    let sum := fun (f : Nat → Nat) => ((List.range 17).map f).foldl (· + ·) 0
    let weighted := fun q => (List.range 7).foldl (fun a k => a + (m.events.getD q []).getD k 0 * s.service.weights.getD k 0) 0
    let near := fun (x total w all : Nat) => x * all ≤ total * w + all ∧ total * w ≤ x * all + all
    Runs .energySample s (fun t => OnlyService s t ∧ t.notices = s.notices ∧
      { t.service with energy := s.service.energy, energyCore := s.service.energyCore, seq := s.service.seq,
                       sampleAt := s.service.sampleAt, sampleOwners := s.service.sampleOwners, weights := s.service.weights,
                       outgoing := s.service.outgoing, exOwners := s.service.exOwners } = s.service ∧
      t.service.weights = m.weights.getD s.service.weights ∧
      t.service.seq = s.service.seq + 1 ∧ t.service.sampleAt = s.tbase ∧
      t.service.outgoing = [] ∧ t.service.exOwners = [] ∧
      (∀ q, q < 16 → t.service.sampleOwners.getD q 0 = match Table.find s.service.exOwners q with
        | some (o, c) => if c = s.clk then o else (s.part q).owner
        | none => (s.part q).owner) ∧
      (∀ q, q < 17 → t.service.energyCore.getD q 0 = s.service.energyCore.getD q 0 + core q ∧
        s.service.energy.getD q 0 + core q ≤ t.service.energy.getD q 0) ∧
      sum (fun q => t.service.energy.getD q 0) =
        sum (fun q => s.service.energy.getD q 0) + all m.core + all m.zeroing + all m.work + m.shared + m.static + m.host ∧
      (m.static = 0 → m.host = 0 → 0 < sum weighted → ∀ q, q < 17 → near (t.service.energy.getD q 0 - s.service.energy.getD q 0 - core q)
        m.shared (weighted q) (sum weighted)) ∧
      (m.static = 0 → m.shared = 0 → 0 < sum (part m.bytes) → ∀ q, q < 17 → near (t.service.energy.getD q 0 - s.service.energy.getD q 0 - core q)
        m.host (part m.bytes q) (sum (part m.bytes))))) ∧
  (∀ s : State, Runs .energyCheckpoint s (· = { s with service := { s.service with
    checkpoint := s.service.energy, checkpointCore := s.service.energyCore } })) ∧
  (∀ s : State, let v := s.service
    let base := 2 ^ 64 + v.eaddr.toNat
    let word := fun (t : State) off => t.mem.readWord (base + off)
    let q := v.epart.toNat
    let written := fun (t : State) (n : Nat) =>
      { t with mem := s.mem, bad := s.bad, monitors := s.monitors, service := s.service, freeCtr := s.freeCtr } = s ∧ t.service = { v with ereq := false } ∧ ∀ a, a < base ∨ base + n ≤ a → t.mem.read a = s.mem.read a
    (v.ereq = false ∨ v.ekind ≠ 0 → Runs .signedReading s (· = s)) ∧ (v.ereq = false ∨ v.ekind ≠ 1 → Runs .attestationReport s (· = s)) ∧
    (v.ereq = true → v.ekind = 0 → Runs .signedReading s (fun t => written t 256 ∧
      word t 0 = BitVec.ofNat 64 (1 + q * 65536 + (if v.unclean then 2 ^ 24 else 0)) ∧
      (q ≤ 16 → word t 8 = BitVec.ofNat 64 (v.energy.getD q 0 / 1000) ∧ word t 48 = BitVec.ofNat 64 (v.energyCore.getD q 0 / 1000) ∧
        word t 40 = if q < 16 then (v.sampleOwners.getD q 0).setWidth 64 else 0) ∧
      word t 16 = BitVec.ofNat 64 v.seq ∧ word t 24 = v.sampleAt ∧ word t 32 = v.epoch ∧ word t 56 = 0 ∧
      t.mem.readNat (base + 0x40) 16 = v.nonce.toNat ∧
      t.mem.readNat (base + 0x80) 114 = (Config.ed448 (t.mem.readBytes base 128)).toNat)) ∧
    (v.ereq = true → v.ekind = 1 → Runs .attestationReport s (fun t => written t 512 ∧
      word t 0 = BitVec.ofNat 64 (1 + v.grade.toNat * 65536 + (if v.mod then 2 ^ 32 else 0)) ∧ word t 8 = v.epoch ∧
      t.mem.readNat (base + 0x10) 64 = (Config.imageDigest v.activeImage).toNat ∧
      t.mem.readNat (base + 0x50) 64 = (if v.sbok then (Config.imageDigest v.standbyImage).toNat else 0) ∧
      t.mem.readNat (base + 0x90) 16 = v.nonce.toNat ∧
      t.mem.readNat (base + 0xA0) 114 = (Config.ed448 (t.mem.readBytes base 0x90)).toNat))) ∧
  (∀ s : State, let v := s.service
    (v.sbok = false → Runs .watchdogTakeover s (· = s)) ∧
    (v.sbok = true → Runs .watchdogTakeover s (· = { s with notices := .takeover :: s.notices, service := { v with
      act := ~~~v.act, activeImage := v.standbyImage, sbok := false } }))) ∧
  (∀ s : State, let v := s.service
    let image := s.mem.readBytes (2 ^ 64 + v.fwimg.toNat) Config.imageBytes
    let verdict := Config.imageVerdict image
    let between := s.placement = none ∧ ∀ q ∈ s.queues.toList, q.en = true → q.err = false → q.head.toNat < q.tail.toNat →
      ∀ a len used, q.indirect = some (a, len, used) → used = 0
    let sets := fun (k : Service) (t : State) => t = { s with service := k }
    (v.go = false → Runs .liveUpdate s (· = s)) ∧
    (v.go = true → tripDue s.agenda = true → Runs .liveUpdate s (sets { v with go := false, fwst := 4 })) ∧
    (tripDue s.agenda = false → v.go = true → v.sbok = false → Runs .liveUpdate s (sets { v with go := false, fwst := 3 })) ∧
    (tripDue s.agenda = false → v.go = true → v.sbok = true →
      (verdict.1 = false → Runs .liveUpdate s (sets { v with go := false, fwst := 1 })) ∧
      (verdict.1 = true → verdict.2 = false → Runs .liveUpdate s (fun t => ∃ b,
        t = { s with service := { v with go := false, fwst := 2, sbok := b }, freeCtr := s.freeCtr + 1 })) ∧
      (verdict.1 = true → verdict.2 = true → ¬ between → Runs .liveUpdate s (· = s)) ∧
      (verdict.1 = true → verdict.2 = true → between → Runs .liveUpdate s (· = { s with
        queues := s.queues.map (fun q => { q with indirect := q.indirect.filter (fun b => b.2.2 != 0) }),
        notices := .takeover :: s.notices,
        service := { v with go := false, fwst := 0, act := ~~~v.act, activeImage := image, standbyImage := image,
                            fwver := Config.imageVersion image } })))) ∧
  (∀ s : State, Runs .tbaseDiscipline s (· = { s with tbase := s.cur.args.word }) ∧ let a := s.cur.args
    let marked := ∃ f ∈ s.failed, f.1 = a.die ∧ f.2.1 = a.index
    (marked → Runs .failedSubChannelMark s (· = s)) ∧
    (¬ marked → Runs .failedSubChannelMark s (· = { s with failed := s.failed ++ [(a.die, a.index, a.count)] })))

/-- R4, R370 to R373: a device reset begins a new reset epoch, and only fuses, energy, a dump and the host's memory stand; the
in-field test takes a cluster out of placement, waits for its gangs and retires a cluster that fails; a fatal error stops the
machine and writes the dump. That the interval of R382's counters carries on from their checkpoints marks the readings.
SBOK after the reset is the model's choice (log 5, DESIGN CHOICE): Table 25-1 gives it no reset value.
The model's readings in it: logs 5, 6. -/
def Obligations.TheDeviceResetsAndFails : Prop :=
  (∀ s : State, let v := s.service
    Runs .deviceReset s (fun t => t.cores = [] ∧ t.gangs = [] ∧ t.parts = Vector.replicate 16 Partition.reset ∧
      t.queues = Vector.replicate 64 {} ∧ t.clk = 0 ∧ t.tbase = s.tbase ∧ t.tagsIssued = 0 ∧ t.orders = 0 ∧ t.dirs = [] ∧
      t.records = [] ∧ t.posts = [] ∧ t.tasks = [] ∧ t.l2 = [] ∧ t.errs = [] ∧ t.bad = [] ∧ t.failed = [] ∧ t.notices = s.notices ∧
      (∀ a, t.mem.read a = if 2 ^ 64 ≤ a ∧ a < 2 ^ 70 then s.mem.read a else 0) ∧
      t.service.live = v.live ∧ t.service.grade = v.grade ∧ t.service.mod = v.mod ∧ t.service.epoch = v.epoch + 1 ∧
      t.service.ret = Vector.replicate 4 0 ∧ t.service.pst = 0 ∧ t.service.mhz = 1050 ∧ t.service.trip = false ∧ t.service.stopped = false ∧
      t.service.fatal = false ∧ t.service.sbok = true ∧ t.service.act = 0 ∧ t.service.pwrq = 0 ∧
      t.service.cap = (if v.grade = 0x2365 then 3100 else if v.grade = 0x2357 then 2600 else 3200) ∧
      t.service.energy = (if s.cur.args.yes then v.energy else v.checkpoint) ∧ t.service.unclean = !s.cur.args.yes ∧
      t.service.dumped = false ∧
      (v.dumped = true → t.service.dbase = v.dbase ∧ t.service.dlen = v.dlen ∧ t.service.dumpDone = true ∧
        t.service.dumpTrunc = v.dumpTrunc ∧ t.service.dumpVer = v.dumpVer) ∧
      (v.dumped = false → t.service.dlen = 0 ∧ t.service.dumpDone = false))) ∧
  (∀ (s : State) (c : Nat), let pick := fun (k : Option Nat) => s.service.testing = k ∨ s.service.testing = none ∧ s.nextCluster = k
    let bit : Word := 1#64 <<< (c % 64)
    let sits := ∃ g ∈ s.gangs, g.state ≠ .saved ∧ c ∈ g.clusters
    (s.service.stopped = true ∨ s.service.fatal = true ∨ s.placement ≠ none ∧ s.service.testing = none →
      Runs .inFieldTest s (· = s)) ∧
    (s.service.stopped = false → s.service.fatal = false → s.placement = none ∨ s.service.testing ≠ none → pick (some c) → c < 256 →
      (sits → Runs .inFieldTest s (fun t => t.service = { s.service with testing := some c } ∧
        { t with service := s.service, gangs := s.gangs } = s ∧
        t.gangs.map (fun g => { g with drain := none }) = s.gangs.map (fun g => { g with drain := none }))) ∧
      (¬ sits → s.cur.args.yes = true → Runs .inFieldTest s
        (· = { s with service := { s.service with testing := none, nextTest := (c + 1) % 256 } })) ∧
      (¬ sits → s.cur.args.yes = false → Runs .inFieldTest s (fun t => t.notices = .clusterRetired c :: s.notices ∧
        t.service = { s.service with
          testing := none, nextTest := (c + 1) % 256, ret := s.service.ret.setIfInBounds (c / 64) (s.service.ret.getD (c / 64) 0 ||| bit),
          outgoing := Table.set s.service.outgoing c (counter382 s c, s.clk) } ∧
        (∀ n, n / 32 = c → t.core n = Core.reset) ∧
        (∀ q, q < 16 → (t.part q).clu = if (s.part q).clusters.contains c then
          (s.part q).clu.setIfInBounds (c / 64) ((s.part q).clu.getD (c / 64) 0 &&& ~~~bit) else (s.part q).clu) ∧ t.gangs = s.gangs)))) ∧
  (∀ s : State, let v := s.service
    let after := { v with fatal := true, go := false, fwst := if v.go then 4 else v.fwst }
    (v.dlen = 0 → Runs .fatalError s (· = { s with service := after, notices := .dump :: s.notices })) ∧
    (v.dlen ≠ 0 → Runs .fatalError s (fun t => let base := 2 ^ 64 + v.dbase.toNat
      { t with mem := s.mem, bad := s.bad, monitors := s.monitors, service := s.service, notices := s.notices } = s ∧
      t.notices = .dump :: s.notices ∧
      (∀ a, a < base ∨ base + v.dlen.toNat * 1048576 ≤ a → t.mem.read a = s.mem.read a) ∧ ∃ n, n ≤ 5 ∧
        t.service = { after with dumpDone := true, dumpTrunc := decide (n < 5), dumpVer := 0x0100, dumped := true } ∧
        t.mem.readWord base = BitVec.ofNat 64 (0x0100 + n * 65536) ∧
        t.mem.readWord (base + 8) = (if s.cur.args.count < 256 then s.cur.args.word &&& 0xFFFFFFFF else BitVec.ofNat 64 (0x100 + s.cur.args.index)) ∧ t.mem.readWord (base + 16) = s.tbase ∧
        t.mem.readWord (base + 24) = BitVec.ofNat 64 (if s.cur.args.count < 256 then s.cur.args.count else 0xFFFF))))

namespace Sys2Proof.Machine

/-- A register write has the effect of an event of its own. -/
def ActsAs (s : State) (i : Instr) (args : EventArgs) : Prop :=
  Runs .registerWrite s (fun t => Runs i { s with cur := { s.cur with args := args } } (fun u => t = { u with cur := s.cur }))

/-- What a change of owner leaves of a cluster (R349): its cores at their start values, its local memories and its chip-scratchpad
segment zero, nothing cached. -/
structure Zeroed (t : State) (c : Nat) : Prop where
  cores : ∀ n, n / 32 = c → t.core n = Core.reset
  scratchpad : ∀ n off, n / 32 = c → off < 131072 → t.mem.read (Config.spLoc n off) = 0
  lanes : ∀ n off, n / 32 = c → off < 16384 → t.mem.read (Config.laneLoc n 0 0 + off) = 0
  chip : ∀ off, off < 1048576 → t.mem.read (Config.chipLoc (c / 64) (c % 64) 0 + off) = 0
  attributes : Table.find t.attrCache c = none

end Sys2Proof.Machine

/-- R6, R267, R328, R339, R372, R375, R378, R381: each register of BAR 0 takes what its access allows; a write of a read-only one
changes nothing, and one of no register of the spec stops (Fault.noSuchRegister). A PINTO outside its range takes a free value in
it (log 9). -/
def Obligations.RegistersTakeTheirFields : Prop :=
  ∀ s : State, let a := s.cur.args.addr
    let v := s.cur.args.word
    let same := Runs .registerWrite s (· = s)
    let none_ := exec .registerWrite s = .fault (.noSuchRegister a)
    (∀ q off, q < 64 → off < 64 → a = 0x100000 + 64 * q + off → let k := s.queue q
      let sets := fun (k : Queue) => Runs .registerWrite s (· = { s with queues := s.queues.setIfInBounds q k })
      (off = 0x00 → sets (if k.en then k else { k with base := v &&& 0x00FFFFFFFFFFF000 })) ∧
      (off = 0x08 → ActsAs s .queueEnable { s.cur.args with index := q }) ∧
      (off = 0x10 → ActsAs s .queueDoorbell { s.cur.args with index := q }) ∧
      (off = 0x20 → let past := k.tail.toNat < k.head.toNat ∨ k.head.toNat + 2 ^ k.log2n.toNat < k.tail.toNat
        (v.getLsbD 63 = false → same) ∧
        (v.getLsbD 63 = true → sets (if k.en = true ∧ past then { k with err := true, ecode := 3 } else { k with err := false }))) ∧
      (off = 0x18 ∨ off = 0x28 → same) ∧ (off % 8 ≠ 0 ∨ 0x28 < off → none_)) ∧
    (∀ q off, q < 16 → off < 256 → a = 0x200000 + 256 * q + off → let p := s.part q
      let sets := fun (p : Partition) => Runs .registerWrite s (· = { s with parts := s.parts.setIfInBounds q p })
      let kind := if v.extractLsb' 0 2 = 3 then 0 else v.extractLsb' 0 2
      (off = 0x00 → sets { p with ptbr := v &&& 0x0000FFFFFFFFF800 }) ∧
      (off = 0x08 → sets { p with dpasid := v.extractLsb' 0 20, hpasid := v.extractLsb' 32 20 }) ∧
      (off = 0x10 → sets { p with shbase := v &&& 0x00FFFFFFFFFFF000 }) ∧
      (off = 0x18 → sets { p with shlen := v &&& 0x000001FFFFFFF000 }) ∧
      (off = 0x20 → (p.go = true → same) ∧ (p.go = false → v.getLsbD 63 = false → sets { p with kind := kind }) ∧
        (p.go = false → v.getLsbD 63 = true → sets { p with kind := kind, go := true, shSince := s.clk, revoked := 0 })) ∧
      (off = 0x28 → sets { p with dest := v &&& 0x0000FFFFFFFFF000 }) ∧
      (off = 0x30 → sets (if v.getLsbD 63 then { p with shdone := false } else p)) ∧
      (off = 0x38 → Runs .registerWrite s (fun t => ∃ x : BitVec 32, t = { s with parts := s.parts.setIfInBounds q { p with pinto := x }, freeCtr := s.freeCtr + 1 } ∧
        1 ≤ x.toNat ∧ x.toNat ≤ 1000000 ∧ (1 ≤ (v.extractLsb' 0 32).toNat → (v.extractLsb' 0 32).toNat ≤ 1000000 → x = v.extractLsb' 0 32))) ∧
      (off = 0x40 → sets { p with mth := v.extractLsb' 0 16 }) ∧ (off = 0x48 → sets { p with statq := v &&& 0x00FFFFFFFFFFF000 }) ∧
      (off = 0x50 → same) ∧ (off % 8 ≠ 0 ∨ 0x50 < off → none_)) ∧
    (∀ q off, q < 16 → off < 64 → a = 0x300000 + 64 * q + off → let p := s.part q
      let sets := fun (p : Partition) => Runs .registerWrite s (· = { s with parts := s.parts.setIfInBounds q p })
      let wtmax := if (v.extractLsb' 32 32).toNat < 1024 then 1024 else v.extractLsb' 32 32
      (∀ d, d < 4 → off = 8 * d → ActsAs s .partitionClusterWrite { s.cur.args with part := q, die := d }) ∧
      (off = 0x20 → ActsAs s .partitionOwnerWrite { s.cur.args with part := q }) ∧
      (off = 0x28 → sets { p with drain := if 1000000 < (v.extractLsb' 0 32).toNat then 1000000 else v.extractLsb' 0 32 }) ∧
      (off = 0x30 → (p.st ≠ 2 → sets { p with savebase := v &&& 0x0000FFFFFFFF0000 }) ∧ (p.st = 2 → same)) ∧
      (off = 0x38 → (p.st ≠ 2 → sets { p with savecap := v.extractLsb' 0 24, wtmax := wtmax }) ∧ (p.st = 2 → same)) ∧
      (off % 8 ≠ 0 → none_)) ∧
    (let sets := fun (k : Service) => Runs .registerWrite s (· = { s with service := k })
     let k := s.service
     let w := v.getLsbD 63
     (a = 0x380000 → sets { k with dbase := v &&& 0xFFFFFFFFFFFFF000 }) ∧ (a = 0x380008 → sets { k with dlen := v.extractLsb' 0 16 }) ∧
     (a = 0x380010 → sets (if w then { k with dumpDone := false } else k)) ∧
     (a = 0x3C0050 → sets { k with fwimg := v &&& 0xFFFFFFFFFFFFF000 }) ∧ (a = 0x3C0058 → sets { k with go := k.go || w }) ∧
     (a = 0x3C0060 → ActsAs s .powerStateWrite s.cur.args) ∧ (a = 0x3C0068 → sets (if w then { k with trip := false } else k)) ∧
     (a = 0x3C0070 → sets { k with ereq := k.ereq || w, ekind := v.extractLsb' 8 1, epart := v.extractLsb' 0 5 }) ∧
     (a = 0x3C0078 → sets { k with eaddr := v &&& 0xFFFFFFFFFFFFFF00 }) ∧
     (a = 0x3C0080 → sets { k with nonce := k.nonce.extractLsb' 64 64 ++ v }) ∧
     (a = 0x3C0088 → sets { k with nonce := v ++ k.nonce.extractLsb' 0 64 }) ∧
     (∀ n, n < 10 ∨ n = 18 ∨ 32 ≤ n ∧ n ≤ 48 → a = 0x3C0000 + 8 * n → same) ∧
     (0x3D0000 ≤ a → a < 0x3D2000 → same)) ∧
    (a < 0x100000 ∨ 0x3D2000 ≤ a → none_)

/-- R266, R285, R339, R349, R350: a change of owner ends the partition's gangs and queues and leaves nothing of the old owner; a
write of CLU that names a dead site or another partition's cluster is ignored, and each cluster that it adds or removes changes
owner; the host reads and writes a partition's memory. Which clusters a new owner's service tiles take is a free value (log 9), and
so is what the host reads of data that cannot be corrected.
The model's readings in it: logs 6, 18. -/
def Obligations.OwnersAndTheHost : Prop :=
  (∀ s : State, let part := s.cur.args.part
    let owner := s.cur.args.word.extractLsb' 0 32
    let p := s.part part
    part < 16 → (p.st = 2 ∨ p.owner = owner → Runs .partitionOwnerWrite s (· = s)) ∧
      (p.st ≠ 2 → p.owner ≠ owner → (∀ n, (s.core n).dcache = []) → Runs .partitionOwnerWrite s (fun t => let q := t.part part
        q.owner = owner ∧ q.st = (if owner = 0 then 0 else 1) ∧ q.events = Vector.replicate 4 0 ∧ q.next = 1 ∧ q.lastFlip = 0 ∧
        q.lastAbort = 0 ∧ q.cells = [] ∧ q.waves = [] ∧ q.slots = [] ∧ q.stats = [] ∧ q.tables = [] ∧ q.clu = p.clu ∧ q.ptbr = p.ptbr ∧
        (∀ c ∈ q.service, c ∈ p.clusters) ∧ (owner = 0 → q.service = []) ∧
        (∀ n, n ≠ part → t.part n = s.part n) ∧
        (∀ c ∈ p.clusters, Zeroed t c) ∧
        (∀ f ∈ p.tables, ∀ i, i < 4096 → t.mem.read (f + i) = 0) ∧
        ((∀ e, Table.find s.service.exOwners part = some e → e.2 ≠ s.clk) →
          Table.find t.service.exOwners part = some (p.owner, s.clk)) ∧
        (∀ g ∈ t.gangs, g ∈ s.gangs ∧ g.part ≠ part) ∧
        (∀ n, n < 64 → { t.queue n with saved := [] } = if (s.queue n).part.toNat = part then {} else { s.queue n with saved := [] }) ∧
        (∀ a, inRun p.savebase.toNat (p.savecap.toNat * 0x33000) a = true → t.mem.read a = 0) ∧
        (∀ e ∈ s.leaves part, leafOwner e.2.2 = part → leafHost e.2.2 = false → leafRepl e.2.2 = false →
          ∀ i, i < e.2.1 → t.mem.read (leafFrame e.2.2 + i) = 0) ∧
        (∀ a, 2 ^ 64 ≤ a → a < 2 ^ 70 → p.savebase.toNat < 2 ^ 48 → (∀ e ∈ p.pool, e.1 ≤ 30) →
          (∀ f ∈ p.tables, f < 2 ^ 48) → t.mem.read a = s.mem.read a) ∧
        (∀ d, ∀ e ∈ t.slice d, e.part ≠ part) ∧
        ∀ c, ∀ e ∈ ((Table.find t.attrCache c).getD []), e.part ≠ part))) ∧
  (∀ s : State, let part := s.cur.args.part
    let die := s.cur.args.die
    let mask := s.cur.args.word
    let p := s.part part
    let foreign := ∃ q, q < 16 ∧ q ≠ part ∧ (s.part q).clu.getD die 0 &&& mask ≠ 0
    let bad := p.st = 2 ∨ mask &&& ~~~(s.service.live.getD die 0) ≠ 0 ∨ foreign
    let moved := fun (c : Nat) => c / 64 = die ∧ (p.clu.getD die 0 ^^^ mask).getLsbD (c % 64) = true
    part < 16 → die < 4 → (bad → Runs .partitionClusterWrite s (· = s)) ∧
      (¬ bad → (∀ n, (s.core n).dcache = []) → Runs .partitionClusterWrite s (fun t =>
        (t.part part).clu = p.clu.setIfInBounds die mask ∧ (t.part part).owner = p.owner ∧
        (t.part part).service = p.service.filter (fun c => !((p.clu.getD die 0 ^^^ mask).getLsbD (c % 64) && c / 64 == die)) ∧
        (∀ c, moved c → Zeroed t c ∧ Table.find t.service.outgoing c =
          some (if (p.clu.getD die 0).getLsbD (c % 64) then part else 16, s.clk)) ∧
        (∀ g ∈ t.gangs, g.state ≠ .saved → ∀ c ∈ g.clusters, ¬ moved c) ∧
        (∀ g ∈ s.gangs, (∀ h ∈ s.gangs, h.gid = g.gid → h = g) → g.formula = none → (g.state = .saved ∨ ∀ c ∈ g.clusters, ¬ moved c) → g ∈ t.gangs) ∧
        t.queues.map (fun q => { q with saved := [] }) = s.queues.map (fun q => { q with saved := [] })))) ∧
  (∀ s : State, let a := s.cur.args.addr
    let part := s.cur.args.part
    let word := s.cur.args.word.toNat
    let refused := Runs .hostAccess s (· = { s with notices := .unsupportedRequest :: s.notices })
    let writes := fun (m : Memory) => Runs .hostAccess s (fun t => (∀ n, SameButLines (s.core n) (t.core n)) ∧ t.notices = s.notices ∧
      Intact t ∧ ∀ x, t.mem.read x = m.read x)
    let reads := fun (w : Word → Prop) => Runs .hostAccess s (fun t => ∃ x, w x ∧ t = { s with notices := .hostRead x :: s.notices, freeCtr := s.freeCtr + 1 })
    (a % 8 ≠ 0 → Runs .hostAccess s (· = s)) ∧
    (a % 8 = 0 → part < 16 → s.cur.args.yes = true →
      (∀ ps, s.cmdWrite? part a 8 = .ok ps → Intact s → writes (writesAt s.mem ps (bytesOfNat 8 word))) ∧
      (∀ e, s.cmdWrite? part a 8 = .error e → (∀ f, e ≠ .stop f) → refused) ∧
      (∀ f, s.cmdWrite? part a 8 = .error (.stop f) → exec .hostAccess s = .fault f)) ∧
    (a % 8 = 0 → part < 16 → s.cur.args.yes = false →
      (∀ ps, s.cmdPlaces part false 8 a = .ok ps → reads (fun w => (∀ p ∈ ps, s.uceAt p = none) →
        w = BitVec.ofNat 64 (natOfBytes (ps.map (fun p => s.mem.read p.loc))))) ∧
      (∀ e, s.cmdPlaces part false 8 a = .error e → (∀ f, e ≠ .stop f) → refused) ∧
      (∀ f, s.cmdPlaces part false 8 a = .error (.stop f) → exec .hostAccess s = .fault f)) ∧
    (a % 8 = 0 → 16 ≤ part → (s.okPa a = false ∨ s.cur.args.yes = true ∧ s.cellFrame a = true → refused) ∧
      (s.okPa a = true → s.cur.args.yes = true → s.cellFrame a = false → Intact s → writes (s.mem.writeBytes a (bytesOfNat 8 word))) ∧
      (s.okPa a = true → s.cur.args.yes = false → reads (fun w => (∀ e ∈ s.bad, e.1 < a ∨ a + 8 ≤ e.1) →
        w = BitVec.ofNat 64 (s.mem.readNat a 8)))))

namespace Sys2Proof.Machine

/-- A word of the undo log of a core (Table 24-6). -/
def logAt (s : State) (n off : Nat) : Word := s.mem.readWord (Config.spLoc n off)

/-- One core has gone back to the start of its superstep (R364, R366): its control context's registers and PC as the log holds them,
its lines as they were before, RETRY one more and SSN the same; v, k and t registers stay. -/
structure RolledBack (s t : State) (n : Nat) : Prop where
  sregs : ∀ r, 0 < r → r < 32 → ((t.core n).ctx 0).s.getD r 0 = logAt s n (0x1C040 + 8 * (r - 1))
  aregs : ∀ r, r < 16 → ((t.core n).ctx 0).a.getD r 0 = logAt s n (0x1C138 + 8 * r)
  preds : ((t.core n).ctx 0).p = (logAt s n 0x1C018).extractLsb' 0 8
  pc : ((t.core n).ctx 0).pc = logAt s n 0x1C010
  runs : ¬ (((s.core n).ctx 0).halted = true ∧ ((s.core n).ctx 0).pc = logAt s n 0x1C010) →
    ((t.core n).ctx 0).live = true ∧ ((t.core n).ctx 0).halted = false
  first : ((t.core n).ctx 0).notBefore = s.clk + 1 + (s.core n).vx.toNat + (s.core n).vy.toNat
  wait : ((t.core n).ctx 0).wait = none
  contexts : ∀ x, 0 < x → x < 12 → (t.core n).ctx x = (s.core n).ctx x
  phase : (t.core n).phase = .compute ∧ (t.core n).barSince = true ∧ (t.core n).captures = [] ∧ (t.core n).chan = Vector.replicate 4 none
  sequencer : (t.core n).seq.busy = false ∧ (t.core n).seq.joining = false ∧ (t.core n).seq.arrived = false
  unarmed : t.monitorOf n 0 = none
  stays : (t.core n).v = (s.core n).v ∧ (t.core n).k = (s.core n).k ∧ (t.core n).t = (s.core n).t ∧
    (t.core n).tshp = (s.core n).tshp ∧ (t.core n).fpflags = (s.core n).fpflags
  retry : logAt t n 0x1C000 = logAt s n 0x1C000 + 0x10000
  ssn : logAt t n 0x1C008 = logAt s n 0x1C008

end Sys2Proof.Machine

/-- R357, R364 to R366, R368, R369: a block that has ended is compared, CNT advances and LAST takes its SIGIX; a mismatch rolls the gang
back while it may, and else ends it; rollback restores what the log holds, writes its before-images back and lets the gang barrier
complete again, after which no wire keeps a value but what is on its way over a bridge; a before-image that cannot be read is fatal.
The model's readings in it: log 26. -/
def Obligations.ErrorsRollBack : Prop :=
  (∀ (s : State) (ix crc : BitVec 16) (expected : Option (BitVec 16)) (first : Word)
      (rest : List (BitVec 16 × BitVec 16 × Option (BitVec 16) × Word)), let n := s.cur.args.core
    let c := s.core n
    c.checker.ended = (ix, crc, expected, first) :: rest → (c.checker.closing = true → rest ≠ []) →
      let after := { c with checker := { c.checker with ended := rest }, sigCnt := c.sigCnt + 1, sigLast := ix }
      (expected = some crc → Runs .signatureCheck s (fun t => t.core n = after ∧ (∀ m, m ≠ n → t.core m = s.core m) ∧
        { t with cores := s.cores } = s)) ∧
      (∀ g, expected ≠ some crc → s.gang? c.gid = some g → (c.resil = true → s.gangOf n = some g) → c.fltAt.1 ≠ s.clk →
        let undo := logAt s n 0x1C000
        let again := c.resil = true ∧ (undo.extractLsb' 16 2).toNat < 2 ∧ ∀ m ∈ g.cores, (logAt s m 0x1C000).getLsbD 8 = false
        let code : BitVec 16 := (if expected = none then 1 else 0) ||| (if c.resil = true ∧ (undo.extractLsb' 16 2).toNat < 2 ∧
          (∀ m ∈ g.cores, (logAt s m 0x1C000).getLsbD 8 = false) then 16 else 0)
        Runs .signatureCheck s (fun t => { t.core n with fltrec := c.fltrec, fltAt := c.fltAt } = after ∧ (∀ m, m ≠ n → t.core m = s.core m) ∧
          (∀ a, t.mem.read a = s.mem.read a) ∧ let r := (t.core n).fltrec
          r.w0.extractLsb' 0 16 = code ∧ r.w0.extractLsb' 16 8 = 16 ∧ r.w1 = first ∧
          r.w2 = 0#16 ++ ix ++ crc ++ expected.getD 0 ∧ r.w3.getLsbD 63 = true ∧
          r.w3.extractLsb' 0 48 = (c.ctx 0).pc.extractLsb' 0 48 ∧
          (again → r.w0.getLsbD 63 = false ∧
            t.gangs = s.gangs.map (fun h => if h.gid == c.gid then { h with rollback := h.rollback ++ [n] } else h)) ∧
          (¬ again → r.w0.getLsbD 63 = true ∧ t.notices = .record r :: s.notices ∧
            t.gangs = s.gangs.map (fun h => if h.gid == c.gid then { h with fate := h.fate.or (some 1) } else h))))) ∧
  (∀ s : State, let k := (s.core s.cur.args.core).checker
    k.ended = [] ∨ (k.closing = true ∧ k.ended.length = 1) → Runs .signatureCheck s (· = s)) ∧
  (∀ (s : State) (g : Gang), s.gang? s.cur.args.gid = some g →
    let count := fun n => (logAt s n 0x1C000).toNat % 256
    let line := fun n i => s.mem.readNat (Config.spLoc n (0x1C1C0 + 2 * i)) 2
    let badAt := fun n => ∃ e ∈ s.bad, Config.spLoc n 0x1C400 ≤ e.1 ∧ e.1 < Config.spLoc n 0x1C400 + 64 * count n
    (g.rollback = [] ∨ g.fate.isSome ∨ s.readyToRoll g = false → Runs .rollback s (· = s)) ∧
    (g.rollback ≠ [] → g.fate = none → s.readyToRoll g = true →
      (∀ n ∈ g.cores, badAt n → (∀ m ∈ g.cores, (s.core m).fltAt.1 ≠ s.clk) → Runs .rollback s (fun t => ∃ m ∈ g.cores, badAt m ∧ let r := (t.core m).fltrec
        (∃ e ∈ s.bad, Config.spLoc m 0x1C400 ≤ e.1 ∧ e.1 < Config.spLoc m 0x1C400 + 64 * count m ∧
          r.w0.extractLsb' 0 16 = if e.2.1 then 7 else 6) ∧
        r.w0.extractLsb' 16 8 = 17 ∧ r.w0.getLsbD 63 = true ∧ ((t.core m).ctx 0).stop.isSome ∧
        t.mem = s.mem)) ∧
      ((∀ n ∈ g.cores, ¬ badAt n) → g.cores.Nodup → (∀ n, (s.core n).dcache = []) → (∀ n ∈ g.cores, (s.core n).resil = true) →
        (∀ n ∈ g.cores, count n ≤ 240 ∧ ∀ i, i < count n → line n i < 1792) → Runs .rollback s (fun t =>
          (∀ n ∈ g.cores, RolledBack s t n ∧
            (∀ i j, i < count n → j < 64 → (∀ k, k < i → line n k ≠ line n i) →
              t.mem.read (Config.spLoc n (64 * line n i + j)) = s.mem.read (Config.spLoc n (0x1C400 + 64 * i + j))) ∧
            ∀ off, off < 0x1C000 → (∀ i, i < count n → off / 64 ≠ line n i) →
              t.mem.read (Config.spLoc n off) = s.mem.read (Config.spLoc n off)) ∧
          (∀ n, n ∉ g.cores → t.core n = s.core n) ∧
          (∀ a, a < 2 ^ 70 → t.mem.read a = s.mem.read a) ∧
          ∃ away : Driving → Bool, (∀ d, away d = true → 960 ≤ d.wire.toNat ∧ ∃ l, g.launch = some l ∧ l.group ≠ 0) ∧
            t.gangs = s.gangs.map (fun h => if h.gid == g.gid then
              { h with rollback := [], drivings := h.drivings.filter away, holders := [], holds := [], barrierAt := s.clk,
                       pastHolds := h.pastHolds ++ h.holds.map (fun k => (k.1, k.2.getD s.clk)) } else h)))))

/-- R53 to R55, R71, R356: a fetch that fails, or a slot that decodes as no instruction, raises its precise fault in the context
and has no other effect; a malformed PC is BADTARGET with code 1. -/
def Sys2Proof.Machine.FetchesFault : Prop :=
  ∀ s : State, let n := s.cur.args.core
    let x := s.cur.args.ctx
    let u := s.turnTo n x none
    let mine := x.val ≠ 0 ∨ s.leader n = none
    (s.mayIssue n x.val = false ∨ ¬ mine → Runs .fetchFault s (· = s)) ∧
    (s.mayIssue n x.val = true → mine →
      (okPc u.my.pc = false → Runs .fetchFault s (fun t => Faulted u t .badTarget 1 u.my.pc u.my.pc)) ∧
      (∀ cls code operand, u.fetch n x.val u.my.pc u.my.entryCheck = .bad cls code operand → cls ≠ .uce →
        Runs .fetchFault s (fun t => Faulted u t cls (BitVec.ofNat 16 code) operand u.my.pc)) ∧
      (∀ i w lw p line, u.fetch n x.val u.my.pc u.my.entryCheck = .ok i w lw p line → Runs .fetchFault s (· = s)) ∧
      (∀ r, u.fetch n x.val u.my.pc u.my.entryCheck = .trap r → (∀ f, r ≠ .stop f) → Runs .fetchFault s (· = s)))

/-- R53 to R55, R71, R354 to R357: taking a fault, and the faults of a fetch. -/
def Obligations.FaultsAreTakenPrecisely : Prop :=
  TakingAFault ∧ FetchesFault

namespace Sys2Proof.Machine

/-- No cached leaf overlaps a range of addresses of a partition; the others stay (R329). -/
def LeavesDropped (s t : State) (part lo hi : Nat) : Prop :=
  let keep := fun (e : Nat × List CachedLeaf) => (e.1, e.2.filter (fun l => !(l.part == part && l.base < hi && lo < l.base + l.size)))
  t.attrCache = s.attrCache.map keep ∧ t.memXlat = s.memXlat.map keep

/-- The page of one leaf has moved to a frame (R335): its bytes, its leaf, and every other byte of memory as before. -/
structure PageMoved (s t : State) (part base size : Nat) (e : Word) (frame entry : Nat) : Prop where
  bytes : ∀ i, i < size → t.mem.read (frame + i) = s.mem.read (leafFrame e + i)
  leaf : t.mem.readWord entry = withFrame (s.mem.readWord entry) frame
  others : ∀ a, a < frame ∨ frame + size ≤ a → a < entry ∨ entry + 8 ≤ a → t.mem.read a = s.mem.read a
  directory : ∀ d, ∀ k ∈ t.slice d, k.part ≠ part ∨ base + size ≤ k.base ∨ k.base + 2 ^ k.span ≤ base

/-- The leaf of a page stands in one entry outside the page and the frame that it moves to; frames do not overlap, no core's
cache holds a line, and no byte is in error. -/
def MovesApart (s : State) (part base size : Nat) (e : Word) (frame entry : Nat) : Prop :=
  (∃ lv, leafEntry s.mem base 5 0 (s.part part).ptbr.toNat = some (entry, lv) ∧
    (lv = 4 → (withFrame (s.mem.readWord entry) frame).getLsbD 56 = false)) ∧
  (entry + 8 ≤ leafFrame e ∨ leafFrame e + size ≤ entry) ∧ (entry + 8 ≤ frame ∨ frame + size ≤ entry) ∧
  (frame + size ≤ leafFrame e ∨ leafFrame e + size ≤ frame) ∧ s.mem.wf = true ∧
  (leafEntry (s.mem.copyRun (leafFrame e) frame size) base 5 0 (s.part part).ptbr.toNat = leafEntry s.mem base 5 0 (s.part part).ptbr.toNat) ∧
  Intact s ∧ ∀ n, (s.core n).dcache = []

end Sys2Proof.Machine

/-- R325, R329, R332, R335, R337, R338: the three kinds of shootdown wait for pins and for engines, drop the cached leaves of their range
and set DONE; a move carries the bytes and rewrites the leaf; a pin that outlasts PINTO is revoked; automatic migration moves a page,
or settles it after its fourth move, for 2^26 clocks.
The model's readings in it: logs 11, 16, 17. -/
def Obligations.ShootdownsAndMoves : Prop :=
  (∀ s : State, let part := s.cur.args.part
    let p := s.part part
    let lo := p.shbase.toNat
    let hi := p.shbase.toNat + p.shlen.toNat
    let pinned := ∃ k ∈ s.tasks, ∃ pin ∈ k.pins, pin.1 = part ∧ pin.2 < hi ∧ lo < pin.2 + 4096
    let on := fun (kind : BitVec 2) => part < 16 ∧ p.go = true ∧ p.kind = kind
    let ended := fun (t : State) => (t.part part) = { p with go := false, shdone := true } ∧ (∀ q, q ≠ part → t.part q = s.part q) ∧
      t.queues = s.queues ∧ t.gangs = s.gangs
    let plain := fun (t : State) => ended t ∧ LeavesDropped s t part lo hi ∧ (∀ a, t.mem.read a = s.mem.read a) ∧ ∀ n, t.core n = s.core n
    (¬ on 0 → Runs .shootdownDrop s (· = s)) ∧ (¬ on 1 ∨ pinned → Runs .shootdownUnmap s (· = s)) ∧
    (¬ on 2 ∨ pinned ∨ s.engineOwns part lo hi = true → Runs .shootdownMove s (· = s)) ∧
    (Intact s → (∀ n, (s.core n).dcache = []) → (on 0 → Runs .shootdownDrop s plain) ∧ (on 1 → ¬ pinned → Runs .shootdownUnmap s plain)) ∧
    (on 2 → ¬ pinned → s.engineOwns part lo hi = false → let pages := (s.leaves part).filter (fun e => decide (e.1 < hi) && decide (lo < e.1 + e.2.1))
      ((∀ e ∈ pages, movable part e.2.2 = false) → Intact s → (∀ n, (s.core n).dcache = []) → Runs .shootdownMove s plain) ∧
      ∀ base size e, pages = [(base, size, e)] → movable part e = true → let frame := p.dest.toNat + base - lo
        (s.okPa frame = false → exec .shootdownMove s = .fault (.noSuchPhysicalAddress frame)) ∧
        ∀ entry, s.okPa frame = true → MovesApart s part base size e frame entry → Runs .shootdownMove s (fun t =>
          t.part part = { (if (Table.find p.stats base).isSome then p.setStat base { p.stat base with counts := [0, 0, 0, 0] } else p) with
            go := false, shdone := true } ∧ (∀ q, q ≠ part → t.part q = s.part q) ∧ t.queues = s.queues ∧ t.gangs = s.gangs ∧
          PageMoved s t part base size e frame entry ∧ ∀ c, ∀ l ∈ ((Table.find t.attrCache c).getD []), ¬ (l.part = part ∧ l.base < hi ∧ lo < l.base + l.size)))) ∧
  (∀ s : State, let part := s.cur.args.part
    let page := s.cur.args.addr - s.cur.args.addr % 4096
    let pins := fun (k : Task) => k.pins.contains (part, page)
    (s.tasks.find? pins = none ∨ s.pinSince part page = none → Runs .pintoExpiry s (· = s)) ∧
    (∀ k since, s.tasks.find? pins = some k → s.pinSince part page = some since → let due := since + (s.part part).pinto.toNat * 1050 ≤ s.clk
      (¬ due → Runs .pintoExpiry s (· = s)) ∧
      (due → Intact s → (∀ n, (s.core n).dcache = []) → Runs .pintoExpiry s (fun t => (∀ a, t.mem.read a = s.mem.read a) ∧
        (part < 16 → (t.part part).revoked = (s.part part).revoked + 1) ∧
        t.tasks = s.tasks.map (fun j => if j.number == k.number then { j with pins := j.pins.filter (fun q => q != (part, page)) } else j) ∧
        ∀ n h g, k.at_ = some (n, h) → h < 12 → s.gang? k.gid = some g →
          let record := fun (r : FaultRecord) (x : Context) => r.w0.extractLsb' 16 8 = 18 ∧ r.w1 = k.issuePc ∧
            r.w2 = BitVec.ofNat 64 page ∧ r.w3.getLsbD 63 = true ∧ r.w3.extractLsb' 0 48 = x.pc.extractLsb' 0 48
          (g.saveDone = false → (s.core n).fltAt.1 ≠ s.clk →
            ((t.core n).ctx h).stop.isSome ∧ record (t.core n).fltrec ((s.core n).ctx h)) ∧
          (∀ i, g.saveDone = true → g.cores.idxOf? n = some i → i < g.saves.length →
            (g.saves.getD i Core.reset).fltAt.1 ≠ s.clk → (∀ h ∈ s.gangs, h.gid = g.gid → h = g) →
            ∃ h' ∈ t.gangs, h'.gid = g.gid ∧ let c := h'.saves.getD i Core.reset
              (c.ctx h).stop.isSome ∧ record c.fltrec ((g.saves.getD i Core.reset).ctx h)))))) ∧
  (∀ (s : State) (base size : Nat) (e : Word), let part := s.cur.args.part
    let p := s.part part
    let k := p.stat base
    let pinned := ∃ j ∈ s.tasks, ∃ pin ∈ j.pins, pin.1 = part ∧ pin.2 < base + size ∧ base < pin.2 + 4096
    let often := 4 ≤ k.moves.length ∧ ∃ c, k.moves.getLast? = some c ∧ s.clk < c + 2 ^ 24
    s.walk part s.cur.args.addr = .leaf base size e →
      let may := p.mth ≠ 0 ∧ p.mth.toNat ≤ k.counts.getD s.cur.args.die 0 ∧ movable part e = true ∧ leafFrame e / 2 ^ 46 ≠ s.cur.args.die ∧ k.settledUntil = none ∧ ¬ pinned
      let stats := fun (p : Partition) (j : PageStat) => { p with stats := Table.set p.stats base j }
      (¬ may → Runs .migrationTrigger s (· = s)) ∧
      (may → often → Runs .migrationTrigger s (· = { s with parts := s.parts.setIfInBounds part (stats p { k with settledUntil := some (s.clk + 2 ^ 26) }) })) ∧
      (may → ¬ often → s.engineOwns part base (base + size) = true ∨ p.poolFrame size s.cur.args.die = none → Runs .migrationTrigger s (· = s)) ∧
      (∀ new entry, may → ¬ often → s.engineOwns part base (base + size) = false → p.poolFrame size s.cur.args.die = some new →
        MovesApart s part base size e (leafFrame new.2) entry → Runs .migrationTrigger s (fun t =>
          PageMoved s t part base size e (leafFrame new.2) entry ∧ LeavesDropped s t part base (base + size) ∧
          leafFrame new.2 / 2 ^ 46 = s.cur.args.die ∧ (part < 16 → t.part part =
            { stats p { k with moves := (s.clk :: k.moves).take 4, counts := [0, 0, 0, 0] } with pool := p.pool.erase new ++ [(new.1, e)] }))) ∧
      (Runs .settledExpiry s (· = if k.settledUntil.any (fun c => decide (c ≤ s.clk)) then
        { s with parts := s.parts.setIfInBounds part (stats p { k with settledUntil := none, counts := [0, 0, 0, 0] }) } else s))) ∧
  (∀ s : State, (∀ base size e, s.walk s.cur.args.part s.cur.args.addr ≠ .leaf base size e) →
    Runs .migrationTrigger s (· = s) ∧ Runs .settledExpiry s (· = s))

/-- R330, R331: the host's completion fills the cache of its die, or asks the host for the page; its invalidation drops the covered
translations with the leaves filled through them; a page group response ends a request, and where the host has declined the page each
context that waits for it takes PAGE, once what it has issued before has completed, and each engine or packet that waits for it
finds a mark.
The model's readings in it: logs 16, 45. -/
def Obligations.TheHostAnswersTranslation : Prop :=
  (∀ s : State, let a := s.cur.args
    let pasid := a.pasid.getD 0
    let key := (a.die, pasid, a.addr)
    let asked := s.hostAsked.filter (fun k => k != key)
    (key ∉ s.hostAsked → Runs .translationCompletion s (· = s)) ∧
    (key ∈ s.hostAsked → a.yes = true ∨ a.also = true → Runs .translationCompletion s (· = { s with
      hostAsked := asked, hostXlat := Table.set s.hostXlat a.die (({ pasid := pasid, page := a.addr, frame := a.word.toNat % 2 ^ 52, r := a.yes, w := a.also } ::
        ((Table.find s.hostXlat a.die).getD []).filter (fun k => !(k.pasid == pasid && k.page == a.addr))).take 4096) })) ∧
    (key ∈ s.hostAsked → a.yes = false → a.also = false → ((∀ q, q < 16 → (s.part q).hpasid ≠ pasid) →
        Runs .translationCompletion s (· = { s with hostAsked := asked })) ∧
      ∀ q, q < 16 → (s.part q).hpasid = pasid → (∀ k, k < q → (s.part k).hpasid ≠ pasid) →
        ((∃ r ∈ s.pageRequests, r.part = q ∧ r.page = 0 ∧ r.host = some a.addr) → Runs .translationCompletion s (· = { s with hostAsked := asked })) ∧
        ((∀ r ∈ s.pageRequests, ¬ (r.part = q ∧ r.page = 0 ∧ r.host = some a.addr)) → Runs .translationCompletion s (· = { s with
          hostAsked := asked, pageRequests := s.pageRequests ++ [{ part := q, page := 0, host := some a.addr }],
          notices := if s.pageRequests.length ≤ Config.spareRequests then .pageRequest pasid a.addr :: s.notices else s.notices })))) ∧
  (∀ s : State, let a := s.cur.args
    let covered := fun (pasid : BitVec 20) (page : Nat) => a.pasid = none ∨ a.pasid = some pasid ∧ a.addr < page * 4096 + 4096 ∧ page * 4096 < a.addr + a.count
    Runs .atsInvalidationRequest s (fun t => { t with hostXlat := s.hostXlat, attrCache := s.attrCache, notices := s.notices } = s ∧
      t.notices = .invalidationComplete :: s.notices ∧
      (∀ d, ∀ k, k ∈ ((Table.find t.hostXlat d).getD []) ↔ k ∈ ((Table.find s.hostXlat d).getD []) ∧ ¬ covered k.pasid k.page) ∧
      ∀ c, ∀ l, l ∈ ((Table.find t.attrCache c).getD []) ↔ l ∈ ((Table.find s.attrCache c).getD []) ∧
        ∀ page, l.host = some page → ¬ covered (s.part l.part).hpasid page)) ∧
  (∀ s : State, let a := s.cur.args
    let page := if a.also then a.addr else a.addr - a.addr % 4096
    let asked := fun (r : PageRequest) => r.part == a.part && (if a.also then r.host == some page else r.page == page && r.host.isNone)
    let most := Config.spareRequests + 1
    let sent := fun (r : PageRequest) => match r.host with
      | none => HostNotice.pageRequest (s.part r.part).dpasid (r.page / 4096)
      | some h => .pageRequest (s.part r.part).hpasid h
    let rest := { s with pageRequests := s.pageRequests.filter (fun r => !asked r)
                         notices := (s.pageRequests[most]?.map sent).toList ++ s.notices }
    let out := ∃ r ∈ s.pageRequests.take most, asked r = true
    let parts := if a.also then (List.range 16).filter (fun q => (s.part q).hpasid == (s.part a.part).hpasid) else [a.part]
    let marks := parts.flatMap (fun q => List.replicate (rest.engineAsks q page a.also) (q, if a.also then 2 ^ 64 + page else page))
    let done := fun (n x : Nat) => ((s.core n).ctx x).replies = [] ∧ (x = 0 → (s.core n).seq.busy = false ∧ (s.core n).gathers = [])
    (¬ out → Runs .pageGroupResponse s (· = s)) ∧
    (out → (a.yes = true → Runs .pageGroupResponse s (· = rest)) ∧
      (∀ n x ia, a.yes = false → s.pageWaiters a.part page a.also = [(n, x, ia)] → x < 12 → ¬ done n x → Runs .pageGroupResponse s (fun t =>
        (t.core n).ctx x = { (s.core n).ctx x with wait := ((s.core n).ctx x).wait.map (fun w => { w with kind := .declined ia }) } ∧
          { t with cores := s.cores } = { rest with declined := s.declined ++ marks } ∧ ∀ m, m ≠ n → t.core m = s.core m)) ∧
      (∀ n x ia, a.yes = false → s.pageWaiters a.part page a.also = [(n, x, ia)] → x < 12 → done n x →
        (s.core n).fltAt.1 ≠ s.clk → Runs .pageGroupResponse s (fun t => t.declined = s.declined ++ marks ∧
        ((t.core n).ctx x).stop.isSome ∧ ((t.core n).ctx x).wait = none ∧ let r := (t.core n).fltrec
          r.w0.extractLsb' 16 8 = 6 ∧ r.w0.extractLsb' 0 16 = 0 ∧ r.w0.extractLsb' 48 4 = BitVec.ofNat 4 x ∧ r.w2 = BitVec.ofNat 64 ia ∧
          r.w1 = ((s.core n).ctx x).pc ∧ t.pageRequests = rest.pageRequests ∧ (∀ b, t.mem.read b = s.mem.read b) ∧
          ∀ m, m ≠ n → t.core m = s.core m)) ∧
      (a.yes = false → s.pageWaiters a.part page a.also = [] → Runs .pageGroupResponse s
        (· = { rest with declined := s.declined ++ marks }))))

namespace Sys2Proof.Machine

/-- A request of a core for a line whose page is data tracked by the directory (R317, R318): the place of its address, the home die, the
home slice and the location of its line; no copy engine owns the line (R259), and no byte is in error. -/
structure Tracked (s : State) (n part ia home slice loc : Nat) (gang : Bool) : Prop where
  core : n = s.cur.args.core ∧ (s.core n).placed = true ∧ part = (s.core n).part.toNat
  addr : ia = s.cur.args.addr ∧ ia < 2 ^ 56
  place : ∃ p h, s.translate n 0 part ia {} 0 false = .ok p ∧ p.tracked = true ∧ s.homeOf n p = some h ∧ h.part = part ∧ h.ia = ia ∧
    gang = (h.gran == 2) ∧ home = h.loc / 2 ^ 46 ∧ loc = h.loc / 64 * 64
  slice : slice = s.homeSlice home ia
  owned : s.engineHolds (s.core n).part ia = false
  intact : Intact s

/-- The entry of a slice that covers a line. -/
def entryOf (s : State) (slice part ia : Nat) : Option DirEntry :=
  (s.slice slice).find? (fun e => e.part == part && inRun e.base (2 ^ e.span) ia)

end Sys2Proof.Machine

/-- R313, R315, R317 to R321, R323: a read makes the requester a holder, a write the only one, and every other holder loses the lines of
the span; a recall that finds the span but not the line splits the entry; RD or RDIE remembers the dies that hold a line away from home
and a write recalls them; quiet halves merge, unless one of them is requested in the same clock; an array of a core that wakes drops
what the counter has passed. That a new entry takes the widest
span that meets no other is the model's reading (DEDUCED, log 19). -/
def Obligations.TheDirectoryKeepsOneWriter : Prop :=
  (∀ (s : State) (n part ia home slice loc : Nat) (gang : Bool), Tracked s n part ia home slice loc gang →
    let c := clusterOf n
    let found := entryOf s slice part ia
    let roomy := (s.slice slice).length < 16384
    let has := fun (t : State) => (∃ l ∈ (t.core n).dcache, l.part = part ∧ l.line = ia / 64) ∧
      (gang = false → (s.core n).dcache = [] → (t.l2Line? part ia home).isSome)
    let read := fun (p : State → Prop) => s.cur.args.yes = false → Runs .directoryRequest s (fun t => has t ∧ p t)
    let write := fun (p : State → Prop) => s.cur.args.yes = true → Runs .directoryRequest s (fun t => has t ∧ p t)
    let entry := fun (t : State) (p : DirEntry → Prop) => ∃ e, entryOf t slice part ia = some e ∧ p e
    let anew := fun (e : DirEntry) => 6 ≤ e.span ∧ e.span ≤ 16 ∧ e.base = ia - ia % 2 ^ e.span ∧ e.qt = s.clk
    (dieOf n = home → roomy →
      (found = none → read (fun t => entry t (fun e => anew e ∧ e.st = 1 ∧ e.holders = [c] ∧ e.ovf = false)) ∧
        write (fun t => entry t (fun e => anew e ∧ e.st = 2 ∧ e.holders = [c] ∧ e.ovf = false))) ∧
      (∀ e, found = some e → e.st = 0 → read (fun t => entry t (fun k =>
        k = { e with st := 1, holders := [c], ovf := false, qt := s.clk, asked := s.clk }))) ∧
      (∀ e, found = some e → e.st = 1 → read (fun t => entry t (fun k => k.st = 1 ∧ k.span = e.span ∧
        (e.ovf = true ∨ c ∈ e.holders → k = { e with asked := s.clk }) ∧
        (e.ovf = false → c ∉ e.holders → k.qt = s.clk ∧ (4 ≤ e.holders.length → k.ovf = true) ∧
          (e.holders.length < 4 → k.ovf = false ∧ k.holders = e.holders ++ [c]))))) ∧
      (∀ e, found = some e → e.st = 2 → e.holders = [c] → read (fun t => entry t (· = { e with asked := s.clk })) ∧
        (e.rdie = 0 → write (fun t => entry t (· = { e with asked := s.clk })))) ∧
      (∀ e, found = some e → e.st = 2 → e.holders ≠ [c] → read (fun t => entry t (fun k => k.st = 1 ∧ k.span = e.span ∧ k.qt = s.clk))) ∧
      (∀ e, found = some e → ¬ (e.st = 2 ∧ e.holders = [c] ∧ e.rdie = 0) →
        let away := (List.range 256).filter (fun h => e.rdie.getLsbD (h / 64))
        let others := (e.heldBy slice).filter (fun h => h != c) ++ away
        let clash := ∃ h ∈ others, s.conflict slice e ia h = true
        write (fun t => entry t (fun k => k.st = 2 ∧ k.holders = [c] ∧ k.ovf = false ∧ k.rdie = 0 ∧ k.qt = s.clk ∧
          (clash → 6 < e.span → k.span = e.span - 1) ∧ (¬ clash ∨ e.span ≤ 6 → k.span = e.span)) ∧
          ∀ h ∈ others, ∀ m, m ≠ n → m / 32 = h → ∀ l ∈ (t.core m).dcache, s.inSpan slice e l = false))) ∧
    (dieOf n ≠ home → gang = false → found = none → roomy →
      let bit : BitVec 4 := 1#4 <<< dieOf n
      let rd := fun (t : State) => (Table.find t.rd loc).getD 0
      read (fun t => rd t = rd s ||| bit) ∧ write (fun t => rd t = bit ∧
        ∀ m, (rd s).getLsbD (dieOf m) = true → m ≠ n → ∀ l ∈ (t.core m).dcache, ¬ (l.coh = 0 ∧ l.part = part ∧ l.line = ia / 64)))) ∧
  (∀ s : State, let n := s.cur.args.core
    (s.core n).placed = false ∨ s.engineHolds (s.core n).part s.cur.args.addr = true → Runs .directoryRequest s (· = s)) ∧
  (∀ (s : State) (lo hi : DirEntry), let a := s.cur.args
    let l := s.slice a.index
    let quiet := fun (e : DirEntry) => e.qt + s.service.quiet ≤ s.clk
    let same := lo.st = hi.st ∧ lo.ovf = hi.ovf ∧ lo.rdie = hi.rdie ∧ (∀ h, h ∈ lo.holders ↔ h ∈ hi.holders)
    let idle := fun (e : DirEntry) => e.st = 0 ∧ e.rdie = 0
    let may := lo.span < 16 ∧ lo.base % 2 ^ (lo.span + 1) = 0 ∧ quiet lo ∧ quiet hi ∧ (idle lo ∨ idle hi ∨ same)
    let asked := lo.asked = s.clk ∨ hi.asked = s.clk
    l.find? (fun e => e.part == a.part && e.base == a.addr) = some lo →
    l.find? (fun e => e.part == a.part && e.base == lo.base + 2 ^ lo.span && e.span == lo.span) = some hi →
      (¬ may → Runs .directoryMerge s (· = s)) ∧
      (may → asked → Runs .directoryMerge s (fun t => { t with dirs := s.dirs } = s ∧
        t.slice a.index = l.map (fun e => if e = lo ∨ e = hi then { e with qt := s.clk } else e))) ∧
      (may → ¬ asked → Runs .directoryMerge s (fun t => { t with dirs := s.dirs } = s ∧ ∃ m,
        m = { (if idle lo then hi else lo) with span := lo.span + 1, base := lo.base, qt := max lo.qt hi.qt, asked := max lo.asked hi.asked } ∧
        t.slice a.index = l.filterMap (fun e => if e = lo then some m else if e = hi then none else some e)))) ∧
  (∀ s : State, let a := s.cur.args
    let at_ := fun base => (s.slice a.index).find? (fun e => e.part == a.part && e.base == base)
    (at_ a.addr = none → Runs .directoryMerge s (· = s)) ∧
    ∀ lo, at_ a.addr = some lo → (∀ e ∈ s.slice a.index, ¬ (e.part = a.part ∧ e.base = lo.base + 2 ^ lo.span ∧ e.span = lo.span)) →
      Runs .directoryMerge s (· = s)) ∧
  (∀ s : State, let n := s.cur.args.index
    let after := fun (p : CacheLine → Bool) (t : State) => t.core n = { s.core n with dcache := (s.core n).dcache.filter p } ∧
      Table.find t.asleep n = none ∧ ∀ m, m ≠ n → t.core m = s.core m
    (Table.find s.asleep n = none → Runs .arrayWake s (· = s)) ∧
    ∀ slept, n < 8192 → Table.find s.asleep n = some slept → let wraps := s.tagsIssued / 4096 - slept / 4096
      (wraps = 0 → Runs .arrayWake s (· = { s with asleep := s.asleep.filter (fun e => e.1 != n) })) ∧
      (wraps = 1 → Runs .arrayWake s (fun t => ∃ p, after p t ∧ ∀ l, p l = false ↔
        ∃ k, slept + 1025 ≤ k ∧ k ≤ s.tagsIssued + 1024 ∧ l.tag = BitVec.ofNat 12 k ∧ l.era = BitVec.ofNat 1 (k / 4096))) ∧
      (1 < wraps → Runs .arrayWake s (after (fun _ => false))))

namespace Sys2Proof.Machine

/-- The state after reset holds what the spec states for it: nothing placed, nothing pending, and each register block at its reset
values. SBOK and EVW there are the model's choice (log 5, DESIGN CHOICE): Tables 25-1 and 1-7 give them no reset value. -/
structure ResetValues (s : State) : Prop where
  nothing : s.cores = [] ∧ s.gangs = [] ∧ s.tasks = [] ∧ s.posts = [] ∧ s.records = [] ∧ s.dirs = [] ∧ s.attrCache = [] ∧ s.hostXlat = [] ∧
    s.packets = [] ∧ s.failed = [] ∧ s.l2 = [] ∧ s.errs = [] ∧ s.bad = [] ∧ s.completions = [] ∧ s.placement = none
  queues : ∀ q, q < 64 → (s.queue q).en = false ∧ (s.queue q).cls = 3 ∧ (s.queue q).log2n = 6 ∧ (s.queue q).head = 0 ∧ (s.queue q).tail = 0 ∧
    (s.queue q).err = false ∧ (s.queue q).pending = []
  parts : ∀ q, q < 16 → let p := s.part q
    p.owner = 0 ∧ p.st = 0 ∧ p.drain = 2000 ∧ p.savecap = 0 ∧ p.wtmax = 0xFFFFFFFF ∧ p.go = false ∧ p.pinto = 1000 ∧ p.mth = 1024 ∧ p.next = 1 ∧
      p.lastFlip = 0 ∧ p.lastAbort = 0 ∧ p.cells = [] ∧ p.events = Vector.replicate 4 0
  service : s.service.pst = 0 ∧ s.service.mhz = 1050 ∧ s.service.quiet = 1048576 ∧ s.service.resume = 1048576 ∧ s.service.trip = false ∧ s.service.sbok = true ∧ s.service.act = 0 ∧ s.service.dlen = 0 ∧
    s.service.ret = Vector.replicate 4 0
  cores : ∀ n, let c := s.core n
    c.placed = false ∧ c.waitth = 50000 ∧ c.bto = 1000000 ∧ c.fpmode = 0 ∧ c.fpflags = 0 ∧ c.trappc = 0 ∧ c.k = Vector.replicate 8 0 ∧
      c.v = Vector.replicate 32 VReg.zero ∧ c.t = Vector.replicate 8 0 ∧ c.tshp = Vector.replicate 8 0x00082020 ∧ c.sigEn = true ∧
      c.evw = Vector.replicate 4 0 ∧ c.windows = List.replicate 16 (0, 0, 0) ∧ ∀ x r, x < 12 → (c.ctx x).sa r = 0 ∧ (c.ctx x).live = false

/-- Some words that the spec works out, and the instructions that they stand for (Tables 3-15, 4-6, 5-5, 6-9, 7-4, 8-7, 10-5, 12-4, 15-3,
17-4, 23-3). -/
def workedWords : List (IWord × Instr) :=
  [(0x0490040400000000FFFFFFFF, .addi { g := 2, gn := 0, var := 0, d := 4, a := 4, b := 0, t1 := 0, t2 := 0, sh := 0, imm := 0xFFFFFFFF }),
   (0x1141090000000002FFFFFFFD, .loop { g := 0, gn := 0, var := 1, c := 9, cc := 0, l := 0, tslot := 2, dline := 0xFFFFFFFD }),
   (0x11C000050000360300000008, .chk { g := 0, gn := 0, var := 0, d := 0, a := 5, b := 0, t1 := 3, t2 := 6, sh := 3, imm := 8 }),
   (0x23C039434400820000000000, .vcmp { g := 0, gn := 0, var := 0, d := 57, a := 67, b := 68, c := 0, t1 := 8, t2 := 2, rm := 0, sat := 0,
                                        na := 0, nc := 0, imm := 0 }),
   (0x40000422050C006000000010, .ld { g := 0, gn := 0, var := 0, v := 4, base := 34, idx := 5, am := 0, w := 3, col := 0, scp := 0, vw := 0,
                                      ch := 0, shx := 3, disp := 16 }),
   (0x59C062606100998000000000, .tmma { g := 0, gn := 0, var := 0, d := 98, a := 96, b := 97, ta := 9, tb := 9, tc := 8, kb := 0 }),
   (0x738000212204110000000005, .cpy { g := 0, gn := 0, var := 0, d := 0, a := 33, b := 34, c := 4, sub := 0x11, flg := 0, imm := 5 }),
   (0x72C800030000000000000005, .xsend { g := 1, gn := 0, var := 0, d := 0, a := 3, b := 0, c := 0, sub := 0, flg := 0, imm := 5 }),
   (0x79C001052200000000000000, .cellPut { g := 0, gn := 0, var := 0, d := 1, a := 5, b := 34, c := 0, sub := 0, flg := 0, imm := 0 })]

end Sys2Proof.Machine

/-- R50, R60 to R70: the words that the spec works out decode to the instructions that it gives them, and an empty cell of the map and a
zero word decode to none. -/
def Obligations.WorkedWordsDecode : Prop :=
  (∀ e ∈ workedWords, decode e.1 = .ok e.2 ∧ decodeBytes (bytesOfNat 12 e.1.toNat) = .ok (e.2, [])) ∧
  decode 0 = .error .noInstruction ∧ decode (0x005#10 ++ 0#86) = .error .noInstruction

/-- R17, R60 to R71: decoding and encoding agree, bit for bit: what an instruction with well-formed fields encodes to decodes to it, and
an instruction that a word decodes to is well formed and encodes to that word, so no two words are one instruction. -/
def Obligations.DecodingAndEncodingAgree : Prop :=
  (∀ (i : Instr) (w : IWord), encode i = some w → i.wf = true → decode w = .ok i) ∧
  (∀ (w : IWord) (i : Instr), decode w = .ok i → encode i = some w ∧ i.wf = true)

/-- R52 to R55, R61, R206: a step whose turn is a context's runs the instruction that its fetch line holds at the PC: the word of the slot,
decoded; around it stand only the fetch unit's line, the line and the leaf that its fetch brings in, the check of a transfer's target,
the clock, the windows and the cell buffer it issues with, the block checker's feed and what the core forwards to its stream; a precise fault that an
earlier instruction's completion holds back leaves the state as it was.
The model's readings in it: logs 1, 13, 43. -/
def Obligations.AStepRunsTheDecodedInstruction : Prop :=
  (∀ (s : State) (n : Nat) (x : Fin 12) (ts : List Turn) (i : Instr) (t : State), s.agenda = .issue n x :: ts →
    { s with agenda := ts }.prepare n x = .run i t → step s = (match exec i t with
      | .next u => .next (if u.deferred t then { s with agenda := ts } else u.finish t i)
      | .fault f => .fault f
      | .refused r => .refused r)) ∧
  (∀ (s : State) (n : Nat) (x : Fin 12) (ts : List Turn) (i : Instr) (t u : State), s.agenda = .issue n x :: ts →
    { s with agenda := ts }.prepare n x = .raised i t u →
      step s = .next (if u.deferred t then { s with agenda := ts } else u.finish t i)) ∧
  (∀ (s : State) (n : Nat) (x : Fin 12) (i : Instr) (w : IWord) (lw : BitVec 32) (p : Place) (line : BitVec 512),
    let u := s.turnTo n x none
    let core := fun (t : State) => t.core n
    let my := (s.core n).ctx x.val
    s.mayIssue n x.val = true → (∀ k, my.wait = some k → ∀ ia, k.kind ≠ .declined ia) →
    (x.val = 0 → s.leader n = none ∧ (u.fetched.core n).heldBack i = false ∧
      (my.issued = true ∨ u.fetched.withheld n i = false)) → (x.val ≠ 0 → my.awaits i = false) → (x.val = 11 → (s.core n).resil = false) →
    my.afterGissue = false → Intact s →
    u.fetch n x.val u.my.pc u.my.entryCheck = .ok i w lw p line → ∃ t, s.prepare n x = .run i t ∧
      { t with cores := u.cores, attrCache := u.attrCache, memXlat := u.memXlat, parts := u.parts, l2 := u.l2 } = u ∧
      (∀ q, { t.part q with stats := (s.part q).stats } = s.part q) ∧ (∀ m, m ≠ n → t.core m = s.core m) ∧
      { core t with ctxs := (s.core n).ctxs, lines := (s.core n).lines, checker := (s.core n).checker } = s.core n ∧
      (∀ y, y < 12 → y ≠ x.val → (core t).ctx y = (s.core n).ctx y) ∧
      (my.wait.isSome = true → my.issued = true → (core t).ctx x.val = { my with entryCheck := false }) ∧
      (my.wait = none ∨ my.issued = false → ∃ sel, (core t).ctx x.val = { my with
        entryCheck := false, wait := none, began := s.clk, held := (s.core n).seenWindows s.clk x.val, cellSel := sel }) ∧
      (x.val ≠ 0 → (core t).checker = (s.core n).checker)) ∧
  (∀ (s : State) (n x : Nat) (pc : Word) (check : Bool) (i : Instr) (w : IWord) (lw : BitVec 32) (p : Place) (line : BitVec 512),
    s.fetch n x pc check = .ok i w lw p line → let slot := (pc &&& 7).toNat
    okPc pc = true ∧ decode w = .ok i ∧ w = line.extractLsb' (96 * slot) 96 ∧ lw = line.extractLsb' 480 32 ∧
      (check = true → lw.getLsbD (22 + slot) = true) ∧
      s.placeByte n x { am := 0, need := { x := true } } 0 (pc &&& ~~~63) = .ok p ∧
      ((∀ l ∈ (s.core n).lines, l.1 ≠ BitVec.ofNat 64 p.loc) → line = BitVec.ofNat 512 (s.mem.readNat p.loc 64))) ∧
  (∀ (s : State) (i : Instr) (a : EventArgs) (ts : List Turn), s.agenda = .event i a :: ts → encode i = none → s.admits i = true →
    step s = exec i { s with agenda := ts, cur := { s.cur with args := a } })

/-- R6, R127 (log 7): every step keeps the memory in its canonical form, so that equal memories are equal data. -/
def Obligations.EveryStepKeepsTheMemory : Prop := ∀ s t : State, s.Kept → step s = .next t → t.Kept

/-- R16, R17, R23, R28, R267, R276, R290, R328, R339, R372, R375: the machine right after reset is well kept and holds the values that the
spec states; in every state s0 reads zero and p0 true, whatever is written to them. SBOK and EVW at reset are the model's choice
(log 5, DESIGN CHOICE), and no rule's. -/
def Obligations.ResetAndHardWiredRegisters : Prop :=
  State.reset.Kept ∧ ResetValues State.reset ∧
  (∀ (s : State) (r : BitVec 8) (v : Word) (b : Bool), s.sa 0 = 0 ∧ s.preg 48 = true ∧ s.setSA 0 v = s.setSA 0 0 ∧ (s.setSA 0 v).my = s.my ∧
    (s.setPreg 48 b).my = s.my ∧ (okSA r = true → r ≠ 0 → (s.setSA r v).sa r = v))
end

