-- ==== Sys2Proof/Laws/Dispatch.lean ====
section
/-! SUPPORT. The arms of exec, one by one: which meaning each instruction has. -/

namespace Sys2Proof.Machine

@[simp] theorem exec_nop (f : FQ) (s : State) : exec (.nop f) s = execNop f s := (rfl)
@[simp] theorem exec_add (f : FQ) (s : State) : exec (.add f) s = execAdd f s := (rfl)
@[simp] theorem exec_sub (f : FQ) (s : State) : exec (.sub f) s = execSub f s := (rfl)
@[simp] theorem exec_addi (f : FI) (s : State) : exec (.addi f) s = execAddi f s := (rfl)
@[simp] theorem exec_mul (f : FQ) (s : State) : exec (.mul f) s = execMul f s := (rfl)
@[simp] theorem exec_mulh (f : FQ) (s : State) : exec (.mulh f) s = execMulh f s := (rfl)
@[simp] theorem exec_mulhu (f : FQ) (s : State) : exec (.mulhu f) s = execMulhu f s := (rfl)
@[simp] theorem exec_div (f : FQ) (s : State) : exec (.div f) s = execDiv f s := (rfl)
@[simp] theorem exec_divu (f : FQ) (s : State) : exec (.divu f) s = execDivu f s := (rfl)
@[simp] theorem exec_rem (f : FQ) (s : State) : exec (.rem f) s = execRem f s := (rfl)
@[simp] theorem exec_remu (f : FQ) (s : State) : exec (.remu f) s = execRemu f s := (rfl)
@[simp] theorem exec_and (f : FQ) (s : State) : exec (.and f) s = execAnd f s := (rfl)
@[simp] theorem exec_or (f : FQ) (s : State) : exec (.or f) s = execOr f s := (rfl)
@[simp] theorem exec_xor (f : FQ) (s : State) : exec (.xor f) s = execXor f s := (rfl)
@[simp] theorem exec_andn (f : FQ) (s : State) : exec (.andn f) s = execAndn f s := (rfl)
@[simp] theorem exec_andi (f : FI) (s : State) : exec (.andi f) s = execAndi f s := (rfl)
@[simp] theorem exec_ori (f : FI) (s : State) : exec (.ori f) s = execOri f s := (rfl)
@[simp] theorem exec_xori (f : FI) (s : State) : exec (.xori f) s = execXori f s := (rfl)
@[simp] theorem exec_shl (f : FQ) (s : State) : exec (.shl f) s = execShl f s := (rfl)
@[simp] theorem exec_shr (f : FQ) (s : State) : exec (.shr f) s = execShr f s := (rfl)
@[simp] theorem exec_sra (f : FQ) (s : State) : exec (.sra f) s = execSra f s := (rfl)
@[simp] theorem exec_shli (f : FI) (s : State) : exec (.shli f) s = execShli f s := (rfl)
@[simp] theorem exec_shri (f : FI) (s : State) : exec (.shri f) s = execShri f s := (rfl)
@[simp] theorem exec_srai (f : FI) (s : State) : exec (.srai f) s = execSrai f s := (rfl)
@[simp] theorem exec_rol (f : FQ) (s : State) : exec (.rol f) s = execRol f s := (rfl)
@[simp] theorem exec_roli (f : FI) (s : State) : exec (.roli f) s = execRoli f s := (rfl)
@[simp] theorem exec_clz (f : FQ) (s : State) : exec (.clz f) s = execClz f s := (rfl)
@[simp] theorem exec_ctz (f : FQ) (s : State) : exec (.ctz f) s = execCtz f s := (rfl)
@[simp] theorem exec_popc (f : FQ) (s : State) : exec (.popc f) s = execPopc f s := (rfl)
@[simp] theorem exec_min (f : FQ) (s : State) : exec (.min f) s = execMin f s := (rfl)
@[simp] theorem exec_max (f : FQ) (s : State) : exec (.max f) s = execMax f s := (rfl)
@[simp] theorem exec_minu (f : FQ) (s : State) : exec (.minu f) s = execMinu f s := (rfl)
@[simp] theorem exec_maxu (f : FQ) (s : State) : exec (.maxu f) s = execMaxu f s := (rfl)
@[simp] theorem exec_sext (f : FI) (s : State) : exec (.sext f) s = execSext f s := (rfl)
@[simp] theorem exec_zext (f : FI) (s : State) : exec (.zext f) s = execZext f s := (rfl)
@[simp] theorem exec_bfx (f : FI) (s : State) : exec (.bfx f) s = execBfx f s := (rfl)
@[simp] theorem exec_bfxSx (f : FI) (s : State) : exec (.bfxSx f) s = execBfxSx f s := (rfl)
@[simp] theorem exec_bfi (f : FI) (s : State) : exec (.bfi f) s = execBfi f s := (rfl)
@[simp] theorem exec_sel (f : FQ) (s : State) : exec (.sel f) s = execSel f s := (rfl)
@[simp] theorem exec_cmp (f : FQ) (s : State) : exec (.cmp f) s = execCmp f s := (rfl)
@[simp] theorem exec_cmpi (f : FI) (s : State) : exec (.cmpi f) s = execCmpi f s := (rfl)
@[simp] theorem exec_li (f : FI) (s : State) : exec (.li f) s = execLi f s := (rfl)
@[simp] theorem exec_lih (f : FI) (s : State) : exec (.lih f) s = execLih f s := (rfl)
@[simp] theorem exec_mov (f : FQ) (s : State) : exec (.mov f) s = execMov f s := (rfl)
@[simp] theorem exec_aadd (f : FQ) (s : State) : exec (.aadd f) s = execAadd f s := (rfl)
@[simp] theorem exec_aaddi (f : FI) (s : State) : exec (.aaddi f) s = execAaddi f s := (rfl)
@[simp] theorem exec_mfc (f : FI) (s : State) : exec (.mfc f) s = execMfc f s := (rfl)
@[simp] theorem exec_mtc (f : FI) (s : State) : exec (.mtc f) s = execMtc f s := (rfl)
@[simp] theorem exec_pand (f : FQ) (s : State) : exec (.pand f) s = execPand f s := (rfl)
@[simp] theorem exec_por (f : FQ) (s : State) : exec (.por f) s = execPor f s := (rfl)
@[simp] theorem exec_pxor (f : FQ) (s : State) : exec (.pxor f) s = execPxor f s := (rfl)
@[simp] theorem exec_pnot (f : FQ) (s : State) : exec (.pnot f) s = execPnot f s := (rfl)
@[simp] theorem exec_br (f : FB) (s : State) : exec (.br f) s = execBr f s := (rfl)
@[simp] theorem exec_j (f : FB) (s : State) : exec (.j f) s = execJ f s := (rfl)
@[simp] theorem exec_jr (f : FQ) (s : State) : exec (.jr f) s = execJr f s := (rfl)
@[simp] theorem exec_loop (f : FB) (s : State) : exec (.loop f) s = execLoop f s := (rfl)
@[simp] theorem exec_trap (f : FI) (s : State) : exec (.trap f) s = execTrap f s := (rfl)
@[simp] theorem exec_chk (f : FI) (s : State) : exec (.chk f) s = execChk f s := (rfl)
@[simp] theorem exec_sysc (f : FI) (s : State) : exec (.sysc f) s = execSysc f s := (rfl)
@[simp] theorem exec_tret (f : FI) (s : State) : exec (.tret f) s = execTret f s := (rfl)
@[simp] theorem exec_halt (f : FI) (s : State) : exec (.halt f) s = execHalt f s := (rfl)
@[simp] theorem exec_fenceI (f : FI) (s : State) : exec (.fenceI f) s = execFenceI f s := (rfl)
@[simp] theorem exec_yield (f : FI) (s : State) : exec (.yield f) s = execYield f s := (rfl)
@[simp] theorem exec_vadd (f : FV) (s : State) : exec (.vadd f) s = execVadd f s := (rfl)
@[simp] theorem exec_vsub (f : FV) (s : State) : exec (.vsub f) s = execVsub f s := (rfl)
@[simp] theorem exec_vmul (f : FV) (s : State) : exec (.vmul f) s = execVmul f s := (rfl)
@[simp] theorem exec_vfma (f : FV) (s : State) : exec (.vfma f) s = execVfma f s := (rfl)
@[simp] theorem exec_vfms (f : FV) (s : State) : exec (.vfms f) s = execVfms f s := (rfl)
@[simp] theorem exec_vdiv (f : FV) (s : State) : exec (.vdiv f) s = execVdiv f s := (rfl)
@[simp] theorem exec_vsqrt (f : FV) (s : State) : exec (.vsqrt f) s = execVsqrt f s := (rfl)
@[simp] theorem exec_vrcpe (f : FV) (s : State) : exec (.vrcpe f) s = execVrcpe f s := (rfl)
@[simp] theorem exec_vrsqe (f : FV) (s : State) : exec (.vrsqe f) s = execVrsqe f s := (rfl)
@[simp] theorem exec_vexp2 (f : FV) (s : State) : exec (.vexp2 f) s = execVexp2 f s := (rfl)
@[simp] theorem exec_vlog2 (f : FV) (s : State) : exec (.vlog2 f) s = execVlog2 f s := (rfl)
@[simp] theorem exec_vmin (f : FV) (s : State) : exec (.vmin f) s = execVmin f s := (rfl)
@[simp] theorem exec_vmax (f : FV) (s : State) : exec (.vmax f) s = execVmax f s := (rfl)
@[simp] theorem exec_vabs (f : FV) (s : State) : exec (.vabs f) s = execVabs f s := (rfl)
@[simp] theorem exec_vneg (f : FV) (s : State) : exec (.vneg f) s = execVneg f s := (rfl)
@[simp] theorem exec_vcmp (f : FV) (s : State) : exec (.vcmp f) s = execVcmp f s := (rfl)
@[simp] theorem exec_vsel (f : FV) (s : State) : exec (.vsel f) s = execVsel f s := (rfl)
@[simp] theorem exec_vcvt (f : FV) (s : State) : exec (.vcvt f) s = execVcvt f s := (rfl)
@[simp] theorem exec_viadd (f : FV) (s : State) : exec (.viadd f) s = execViadd f s := (rfl)
@[simp] theorem exec_visub (f : FV) (s : State) : exec (.visub f) s = execVisub f s := (rfl)
@[simp] theorem exec_vimul (f : FV) (s : State) : exec (.vimul f) s = execVimul f s := (rfl)
@[simp] theorem exec_vimad (f : FV) (s : State) : exec (.vimad f) s = execVimad f s := (rfl)
@[simp] theorem exec_vimin (f : FV) (s : State) : exec (.vimin f) s = execVimin f s := (rfl)
@[simp] theorem exec_vimax (f : FV) (s : State) : exec (.vimax f) s = execVimax f s := (rfl)
@[simp] theorem exec_vand (f : FV) (s : State) : exec (.vand f) s = execVand f s := (rfl)
@[simp] theorem exec_vor (f : FV) (s : State) : exec (.vor f) s = execVor f s := (rfl)
@[simp] theorem exec_vxor (f : FV) (s : State) : exec (.vxor f) s = execVxor f s := (rfl)
@[simp] theorem exec_vshl (f : FV) (s : State) : exec (.vshl f) s = execVshl f s := (rfl)
@[simp] theorem exec_vshr (f : FV) (s : State) : exec (.vshr f) s = execVshr f s := (rfl)
@[simp] theorem exec_vsra (f : FV) (s : State) : exec (.vsra f) s = execVsra f s := (rfl)
@[simp] theorem exec_vclass (f : FV) (s : State) : exec (.vclass f) s = execVclass f s := (rfl)
@[simp] theorem exec_vmovv (f : FV) (s : State) : exec (.vmovv f) s = execVmovv f s := (rfl)
@[simp] theorem exec_vrsum (f : FV) (s : State) : exec (.vrsum f) s = execVrsum f s := (rfl)
@[simp] theorem exec_vrmax (f : FV) (s : State) : exec (.vrmax f) s = execVrmax f s := (rfl)
@[simp] theorem exec_vrmin (f : FV) (s : State) : exec (.vrmin f) s = execVrmin f s := (rfl)
@[simp] theorem exec_vscan (f : FV) (s : State) : exec (.vscan f) s = execVscan f s := (rfl)
@[simp] theorem exec_vbcast (f : FV) (s : State) : exec (.vbcast f) s = execVbcast f s := (rfl)
@[simp] theorem exec_vperm (f : FV) (s : State) : exec (.vperm f) s = execVperm f s := (rfl)
@[simp] theorem exec_vslide (f : FV) (s : State) : exec (.vslide f) s = execVslide f s := (rfl)
@[simp] theorem exec_vcomp (f : FV) (s : State) : exec (.vcomp f) s = execVcomp f s := (rfl)
@[simp] theorem exec_vexpd (f : FV) (s : State) : exec (.vexpd f) s = execVexpd f s := (rfl)
@[simp] theorem exec_viota (f : FV) (s : State) : exec (.viota f) s = execViota f s := (rfl)
@[simp] theorem exec_vgetl (f : FV) (s : State) : exec (.vgetl f) s = execVgetl f s := (rfl)
@[simp] theorem exec_vsetl (f : FV) (s : State) : exec (.vsetl f) s = execVsetl f s := (rfl)
@[simp] theorem exec_kpopc (f : FV) (s : State) : exec (.kpopc f) s = execKpopc f s := (rfl)
@[simp] theorem exec_kfirst (f : FV) (s : State) : exec (.kfirst f) s = execKfirst f s := (rfl)
@[simp] theorem exec_kand (f : FV) (s : State) : exec (.kand f) s = execKand f s := (rfl)
@[simp] theorem exec_kor (f : FV) (s : State) : exec (.kor f) s = execKor f s := (rfl)
@[simp] theorem exec_kxor (f : FV) (s : State) : exec (.kxor f) s = execKxor f s := (rfl)
@[simp] theorem exec_knot (f : FV) (s : State) : exec (.knot f) s = execKnot f s := (rfl)
@[simp] theorem exec_kmov (f : FV) (s : State) : exec (.kmov f) s = execKmov f s := (rfl)
@[simp] theorem exec_vnsend (f : FV) (s : State) : exec (.vnsend f) s = execVnsend f s := (rfl)
@[simp] theorem exec_vnrecv (f : FV) (s : State) : exec (.vnrecv f) s = execVnrecv f s := (rfl)
@[simp] theorem exec_vlmul (f : FV) (s : State) : exec (.vlmul f) s = execVlmul f s := (rfl)
@[simp] theorem exec_vlsum (f : FV) (s : State) : exec (.vlsum f) s = execVlsum f s := (rfl)
@[simp] theorem exec_vlpack (f : FV) (s : State) : exec (.vlpack f) s = execVlpack f s := (rfl)
@[simp] theorem exec_vlunpk (f : FV) (s : State) : exec (.vlunpk f) s = execVlunpk f s := (rfl)
@[simp] theorem exec_ld (f : FM) (s : State) : exec (.ld f) s = execLd f s := (rfl)
@[simp] theorem exec_st (f : FM) (s : State) : exec (.st f) s = execSt f s := (rfl)
@[simp] theorem exec_ldv (f : FM) (s : State) : exec (.ldv f) s = execLdv f s := (rfl)
@[simp] theorem exec_stv (f : FM) (s : State) : exec (.stv f) s = execStv f s := (rfl)
@[simp] theorem exec_ldvs (f : FM) (s : State) : exec (.ldvs f) s = execLdvs f s := (rfl)
@[simp] theorem exec_stvs (f : FM) (s : State) : exec (.stvs f) s = execStvs f s := (rfl)
@[simp] theorem exec_ldvx (f : FM) (s : State) : exec (.ldvx f) s = execLdvx f s := (rfl)
@[simp] theorem exec_stvx (f : FM) (s : State) : exec (.stvx f) s = execStvx f s := (rfl)
@[simp] theorem exec_ldk (f : FM) (s : State) : exec (.ldk f) s = execLdk f s := (rfl)
@[simp] theorem exec_stk (f : FM) (s : State) : exec (.stk f) s = execStk f s := (rfl)
@[simp] theorem exec_lda (f : FM) (s : State) : exec (.lda f) s = execLda f s := (rfl)
@[simp] theorem exec_strl (f : FM) (s : State) : exec (.strl f) s = execStrl f s := (rfl)
@[simp] theorem exec_pref (f : FM) (s : State) : exec (.pref f) s = execPref f s := (rfl)
@[simp] theorem exec_amoadd (f : FM) (s : State) : exec (.amoadd f) s = execAmoadd f s := (rfl)
@[simp] theorem exec_amomin (f : FM) (s : State) : exec (.amomin f) s = execAmomin f s := (rfl)
@[simp] theorem exec_amomax (f : FM) (s : State) : exec (.amomax f) s = execAmomax f s := (rfl)
@[simp] theorem exec_amominu (f : FM) (s : State) : exec (.amominu f) s = execAmominu f s := (rfl)
@[simp] theorem exec_amomaxu (f : FM) (s : State) : exec (.amomaxu f) s = execAmomaxu f s := (rfl)
@[simp] theorem exec_amoand (f : FM) (s : State) : exec (.amoand f) s = execAmoand f s := (rfl)
@[simp] theorem exec_amoor (f : FM) (s : State) : exec (.amoor f) s = execAmoor f s := (rfl)
@[simp] theorem exec_amoxor (f : FM) (s : State) : exec (.amoxor f) s = execAmoxor f s := (rfl)
@[simp] theorem exec_amoswp (f : FM) (s : State) : exec (.amoswp f) s = execAmoswp f s := (rfl)
@[simp] theorem exec_amocas (f : FM) (s : State) : exec (.amocas f) s = execAmocas f s := (rfl)
@[simp] theorem exec_amofadd (f : FM) (s : State) : exec (.amofadd f) s = execAmofadd f s := (rfl)
@[simp] theorem exec_fence (f : FI) (s : State) : exec (.fence f) s = execFence f s := (rfl)
@[simp] theorem exec_fenceSs (f : FI) (s : State) : exec (.fenceSs f) s = execFenceSs f s := (rfl)
@[simp] theorem exec_fenceLl (f : FI) (s : State) : exec (.fenceLl f) s = execFenceLl f s := (rfl)
@[simp] theorem exec_fenceS (f : FI) (s : State) : exec (.fenceS f) s = execFenceS f s := (rfl)
@[simp] theorem exec_cmoClean (f : FM) (s : State) : exec (.cmoClean f) s = execCmoClean f s := (rfl)
@[simp] theorem exec_cmoInval (f : FM) (s : State) : exec (.cmoInval f) s = execCmoInval f s := (rfl)
@[simp] theorem exec_cmoFlush (f : FM) (s : State) : exec (.cmoFlush f) s = execCmoFlush f s := (rfl)
@[simp] theorem exec_cmoZero (f : FM) (s : State) : exec (.cmoZero f) s = execCmoZero f s := (rfl)
@[simp] theorem exec_waitm (f : FM) (s : State) : exec (.waitm f) s = execWaitm f s := (rfl)
@[simp] theorem exec_waitmCmp (f : FM) (s : State) : exec (.waitmCmp f) s = execWaitmCmp f s := (rfl)
@[simp] theorem exec_ldsec (f : FM) (s : State) : exec (.ldsec f) s = execLdsec f s := (rfl)
@[simp] theorem exec_stsec (f : FM) (s : State) : exec (.stsec f) s = execStsec f s := (rfl)
@[simp] theorem exec_tset (f : FI) (s : State) : exec (.tset f) s = execTset f s := (rfl)
@[simp] theorem exec_tget (f : FI) (s : State) : exec (.tget f) s = execTget f s := (rfl)
@[simp] theorem exec_tld (f : FM) (s : State) : exec (.tld f) s = execTld f s := (rfl)
@[simp] theorem exec_tst (f : FM) (s : State) : exec (.tst f) s = execTst f s := (rfl)
@[simp] theorem exec_tzero (f : FT) (s : State) : exec (.tzero f) s = execTzero f s := (rfl)
@[simp] theorem exec_tmov (f : FT) (s : State) : exec (.tmov f) s = execTmov f s := (rfl)
@[simp] theorem exec_gissue (f : FE) (s : State) : exec (.gissue f) s = execGissue f s := (rfl)
@[simp] theorem exec_tmma (f : FT) (s : State) : exec (.tmma f) s = execTmma f s := (rfl)
@[simp] theorem exec_tmmal (f : FT) (s : State) : exec (.tmmal f) s = execTmmal f s := (rfl)
@[simp] theorem exec_tscale (f : FT) (s : State) : exec (.tscale f) s = execTscale f s := (rfl)
@[simp] theorem exec_tadd (f : FT) (s : State) : exec (.tadd f) s = execTadd f s := (rfl)
@[simp] theorem exec_tmul (f : FT) (s : State) : exec (.tmul f) s = execTmul f s := (rfl)
@[simp] theorem exec_tcvt (f : FT) (s : State) : exec (.tcvt f) s = execTcvt f s := (rfl)
@[simp] theorem exec_ttrans (f : FT) (s : State) : exec (.ttrans f) s = execTtrans f s := (rfl)
@[simp] theorem exec_trsum (f : FT) (s : State) : exec (.trsum f) s = execTrsum f s := (rfl)
@[simp] theorem exec_trmax (f : FT) (s : State) : exec (.trmax f) s = execTrmax f s := (rfl)
@[simp] theorem exec_tv2t (f : FT) (s : State) : exec (.tv2t f) s = execTv2t f s := (rfl)
@[simp] theorem exec_tt2v (f : FT) (s : State) : exec (.tt2v f) s = execTt2v f s := (rfl)
@[simp] theorem exec_tbcst (f : FT) (s : State) : exec (.tbcst f) s = execTbcst f s := (rfl)
@[simp] theorem exec_tstat (f : FI) (s : State) : exec (.tstat f) s = execTstat f s := (rfl)
@[simp] theorem exec_hstart (f : FE) (s : State) : exec (.hstart f) s = execHstart f s := (rfl)
@[simp] theorem exec_hend (f : FE) (s : State) : exec (.hend f) s = execHend f s := (rfl)
@[simp] theorem exec_hjoin (f : FE) (s : State) : exec (.hjoin f) s = execHjoin f s := (rfl)
@[simp] theorem exec_hstat (f : FE) (s : State) : exec (.hstat f) s = execHstat f s := (rfl)
@[simp] theorem exec_gdetach (f : FE) (s : State) : exec (.gdetach f) s = execGdetach f s := (rfl)
@[simp] theorem exec_gdetachJoin (f : FE) (s : State) : exec (.gdetachJoin f) s = execGdetachJoin f s := (rfl)
@[simp] theorem exec_gattach (f : FE) (s : State) : exec (.gattach f) s = execGattach f s := (rfl)
@[simp] theorem exec_gmerge (f : FE) (s : State) : exec (.gmerge f) s = execGmerge f s := (rfl)
@[simp] theorem exec_barw (f : FE) (s : State) : exec (.barw f) s = execBarw f s := (rfl)
@[simp] theorem exec_bara (f : FE) (s : State) : exec (.bara f) s = execBara f s := (rfl)
@[simp] theorem exec_barq (f : FE) (s : State) : exec (.barq f) s = execBarq f s := (rfl)
@[simp] theorem exec_barqTest (f : FE) (s : State) : exec (.barqTest f) s = execBarqTest f s := (rfl)
@[simp] theorem exec_xph (f : FE) (s : State) : exec (.xph f) s = execXph f s := (rfl)
@[simp] theorem exec_xsend (f : FE) (s : State) : exec (.xsend f) s = execXsend f s := (rfl)
@[simp] theorem exec_xmux (f : FE) (s : State) : exec (.xmux f) s = execXmux f s := (rfl)
@[simp] theorem exec_xend (f : FE) (s : State) : exec (.xend f) s = execXend f s := (rfl)
@[simp] theorem exec_cpy (f : FE) (s : State) : exec (.cpy f) s = execCpy f s := (rfl)
@[simp] theorem exec_cpyn (f : FE) (s : State) : exec (.cpyn f) s = execCpyn f s := (rfl)
@[simp] theorem exec_cpyc (f : FE) (s : State) : exec (.cpyc f) s = execCpyc f s := (rfl)
@[simp] theorem exec_cpyr (f : FE) (s : State) : exec (.cpyr f) s = execCpyr f s := (rfl)
@[simp] theorem exec_cpycmb (f : FE) (s : State) : exec (.cpycmb f) s = execCpycmb f s := (rfl)
@[simp] theorem exec_wmset (f : FE) (s : State) : exec (.wmset f) s = execWmset f s := (rfl)
@[simp] theorem exec_wmclr (f : FE) (s : State) : exec (.wmclr f) s = execWmclr f s := (rfl)
@[simp] theorem exec_wmrd (f : FE) (s : State) : exec (.wmrd f) s = execWmrd f s := (rfl)
@[simp] theorem exec_wmrdAddr (f : FE) (s : State) : exec (.wmrdAddr f) s = execWmrdAddr f s := (rfl)
@[simp] theorem exec_crwait (f : FE) (s : State) : exec (.crwait f) s = execCrwait f s := (rfl)
@[simp] theorem exec_crpop (f : FE) (s : State) : exec (.crpop f) s = execCrpop f s := (rfl)
@[simp] theorem exec_cbinit (f : FE) (s : State) : exec (.cbinit f) s = execCbinit f s := (rfl)
@[simp] theorem exec_cbacqRd (f : FE) (s : State) : exec (.cbacqRd f) s = execCbacqRd f s := (rfl)
@[simp] theorem exec_cbacqWr (f : FE) (s : State) : exec (.cbacqWr f) s = execCbacqWr f s := (rfl)
@[simp] theorem exec_cbrelRd (f : FE) (s : State) : exec (.cbrelRd f) s = execCbrelRd f s := (rfl)
@[simp] theorem exec_cbrelWr (f : FE) (s : State) : exec (.cbrelWr f) s = execCbrelWr f s := (rfl)
@[simp] theorem exec_gather (f : FE) (s : State) : exec (.gather f) s = execGather f s := (rfl)
@[simp] theorem exec_evset (f : FE) (s : State) : exec (.evset f) s = execEvset f s := (rfl)
@[simp] theorem exec_evclr (f : FE) (s : State) : exec (.evclr f) s = execEvclr f s := (rfl)
@[simp] theorem exec_evwaitAny (f : FE) (s : State) : exec (.evwaitAny f) s = execEvwaitAny f s := (rfl)
@[simp] theorem exec_evwaitAll (f : FE) (s : State) : exec (.evwaitAll f) s = execEvwaitAll f s := (rfl)
@[simp] theorem exec_mpost (f : FE) (s : State) : exec (.mpost f) s = execMpost f s := (rfl)
@[simp] theorem exec_mrecv (f : FE) (s : State) : exec (.mrecv f) s = execMrecv f s := (rfl)
@[simp] theorem exec_mrecvTest (f : FE) (s : State) : exec (.mrecvTest f) s = execMrecvTest f s := (rfl)
@[simp] theorem exec_waitt (f : FE) (s : State) : exec (.waitt f) s = execWaitt f s := (rfl)
@[simp] theorem exec_waittAbs (f : FE) (s : State) : exec (.waittAbs f) s = execWaittAbs f s := (rfl)
@[simp] theorem exec_tqput (f : FE) (s : State) : exec (.tqput f) s = execTqput f s := (rfl)
@[simp] theorem exec_hodq (f : FE) (s : State) : exec (.hodq f) s = execHodq f s := (rfl)
@[simp] theorem exec_hodr (f : FE) (s : State) : exec (.hodr f) s = execHodr f s := (rfl)
@[simp] theorem exec_hodrTest (f : FE) (s : State) : exec (.hodrTest f) s = execHodrTest f s := (rfl)
@[simp] theorem exec_cellDef (f : FE) (s : State) : exec (.cellDef f) s = execCellDef f s := (rfl)
@[simp] theorem exec_cellBind (f : FE) (s : State) : exec (.cellBind f) s = execCellBind f s := (rfl)
@[simp] theorem exec_cellPut (f : FE) (s : State) : exec (.cellPut f) s = execCellPut f s := (rfl)
@[simp] theorem exec_cellGet (f : FE) (s : State) : exec (.cellGet f) s = execCellGet f s := (rfl)
@[simp] theorem exec_cellCommit (f : FE) (s : State) : exec (.cellCommit f) s = execCellCommit f s := (rfl)
@[simp] theorem exec_cellState (f : FE) (s : State) : exec (.cellState f) s = execCellState f s := (rfl)
@[simp] theorem exec_cellStateFlip (f : FE) (s : State) : exec (.cellStateFlip f) s = execCellStateFlip f s := (rfl)
@[simp] theorem exec_cellStateAbort (f : FE) (s : State) : exec (.cellStateAbort f) s = execCellStateAbort f s := (rfl)
@[simp] theorem exec_cellDrop (f : FE) (s : State) : exec (.cellDrop f) s = execCellDrop f s := (rfl)
@[simp] theorem exec_registerWrite (s : State) : exec .registerWrite s = execRegisterWrite s := (rfl)
@[simp] theorem exec_queueDoorbell (s : State) : exec .queueDoorbell s = execQueueDoorbell s := (rfl)
@[simp] theorem exec_queueEnable (s : State) : exec .queueEnable s = execQueueEnable s := (rfl)
@[simp] theorem exec_dispatch (s : State) : exec .dispatch s = execDispatch s := (rfl)
@[simp] theorem exec_cmoRangeClean (s : State) : exec .cmoRangeClean s = execCmoRangeClean s := (rfl)
@[simp] theorem exec_cmoRangeInval (s : State) : exec .cmoRangeInval s = execCmoRangeInval s := (rfl)
@[simp] theorem exec_cmoRangeFlush (s : State) : exec .cmoRangeFlush s = execCmoRangeFlush s := (rfl)
@[simp] theorem exec_cmoRangeAttr (s : State) : exec .cmoRangeAttr s = execCmoRangeAttr s := (rfl)
@[simp] theorem exec_eventSet (s : State) : exec .eventSet s = execEventSet s := (rfl)
@[simp] theorem exec_eventWait (s : State) : exec .eventWait s = execEventWait s := (rfl)
@[simp] theorem exec_indirect (s : State) : exec .indirect s = execIndirect s := (rfl)
@[simp] theorem exec_timestamp (s : State) : exec .timestamp s = execTimestamp s := (rfl)
@[simp] theorem exec_cellWave (s : State) : exec .cellWave s = execCellWave s := (rfl)
@[simp] theorem exec_power (s : State) : exec .power s = execPower s := (rfl)
@[simp] theorem exec_launchPlacement (s : State) : exec .launchPlacement s = execLaunchPlacement s := (rfl)
@[simp] theorem exec_startTimeReached (s : State) : exec .startTimeReached s = execStartTimeReached s := (rfl)
@[simp] theorem exec_gangEnd (s : State) : exec .gangEnd s = execGangEnd s := (rfl)
@[simp] theorem exec_preemptionRequest (s : State) : exec .preemptionRequest s = execPreemptionRequest s := (rfl)
@[simp] theorem exec_drainExpiry (s : State) : exec .drainExpiry s = execDrainExpiry s := (rfl)
@[simp] theorem exec_saveComplete (s : State) : exec .saveComplete s = execSaveComplete s := (rfl)
@[simp] theorem exec_gangRestore (s : State) : exec .gangRestore s = execGangRestore s := (rfl)
@[simp] theorem exec_longWaitSwap (s : State) : exec .longWaitSwap s = execLongWaitSwap s := (rfl)
@[simp] theorem exec_resumeIntervalExpiry (s : State) : exec .resumeIntervalExpiry s = execResumeIntervalExpiry s := (rfl)
@[simp] theorem exec_swapWake (s : State) : exec .swapWake s = execSwapWake s := (rfl)
@[simp] theorem exec_btoExpiry (s : State) : exec .btoExpiry s = execBtoExpiry s := (rfl)
@[simp] theorem exec_barrierCompletion (s : State) : exec .barrierCompletion s = execBarrierCompletion s := (rfl)
@[simp] theorem exec_joinCompletion (s : State) : exec .joinCompletion s = execJoinCompletion s := (rfl)
@[simp] theorem exec_sequencerStep (s : State) : exec .sequencerStep s = execSequencerStep s := (rfl)
@[simp] theorem exec_streamConditionReport (s : State) : exec .streamConditionReport s = execStreamConditionReport s := (rfl)
@[simp] theorem exec_memoryReply (s : State) : exec .memoryReply s = execMemoryReply s := (rfl)
@[simp] theorem exec_channelArrival (s : State) : exec .channelArrival s = execChannelArrival s := (rfl)
@[simp] theorem exec_xmuxCapture (s : State) : exec .xmuxCapture s = execXmuxCapture s := (rfl)
@[simp] theorem exec_xcollideSense (s : State) : exec .xcollideSense s = execXcollideSense s := (rfl)
@[simp] theorem exec_holdRaise (s : State) : exec .holdRaise s = execHoldRaise s := (rfl)
@[simp] theorem exec_holdRelease (s : State) : exec .holdRelease s = execHoldRelease s := (rfl)
@[simp] theorem exec_throttleChange (s : State) : exec .throttleChange s = execThrottleChange s := (rfl)
@[simp] theorem exec_throttleLimitExpiry (s : State) : exec .throttleLimitExpiry s = execThrottleLimitExpiry s := (rfl)
@[simp] theorem exec_copyLanding (s : State) : exec .copyLanding s = execCopyLanding s := (rfl)
@[simp] theorem exec_copyComplete (s : State) : exec .copyComplete s = execCopyComplete s := (rfl)
@[simp] theorem exec_copyFault (s : State) : exec .copyFault s = execCopyFault s := (rfl)
@[simp] theorem exec_combinePacketArrival (s : State) : exec .combinePacketArrival s = execCombinePacketArrival s := (rfl)
@[simp] theorem exec_combineEntryTimeout (s : State) : exec .combineEntryTimeout s = execCombineEntryTimeout s := (rfl)
@[simp] theorem exec_gatherReply (s : State) : exec .gatherReply s = execGatherReply s := (rfl)
@[simp] theorem exec_taskDispatch (s : State) : exec .taskDispatch s = execTaskDispatch s := (rfl)
@[simp] theorem exec_footprintComplete (s : State) : exec .footprintComplete s = execFootprintComplete s := (rfl)
@[simp] theorem exec_pintoExpiry (s : State) : exec .pintoExpiry s = execPintoExpiry s := (rfl)
@[simp] theorem exec_pageGroupResponse (s : State) : exec .pageGroupResponse s = execPageGroupResponse s := (rfl)
@[simp] theorem exec_atsInvalidationRequest (s : State) : exec .atsInvalidationRequest s = execAtsInvalidationRequest s := (rfl)
@[simp] theorem exec_translationCompletion (s : State) : exec .translationCompletion s = execTranslationCompletion s := (rfl)
@[simp] theorem exec_shootdownDrop (s : State) : exec .shootdownDrop s = execShootdownDrop s := (rfl)
@[simp] theorem exec_shootdownUnmap (s : State) : exec .shootdownUnmap s = execShootdownUnmap s := (rfl)
@[simp] theorem exec_shootdownMove (s : State) : exec .shootdownMove s = execShootdownMove s := (rfl)
@[simp] theorem exec_migrationTrigger (s : State) : exec .migrationTrigger s = execMigrationTrigger s := (rfl)
@[simp] theorem exec_settledExpiry (s : State) : exec .settledExpiry s = execSettledExpiry s := (rfl)
@[simp] theorem exec_helperReturnMessage (s : State) : exec .helperReturnMessage s = execHelperReturnMessage s := (rfl)
@[simp] theorem exec_directoryRequest (s : State) : exec .directoryRequest s = execDirectoryRequest s := (rfl)
@[simp] theorem exec_directoryMerge (s : State) : exec .directoryMerge s = execDirectoryMerge s := (rfl)
@[simp] theorem exec_arrayWake (s : State) : exec .arrayWake s = execArrayWake s := (rfl)
@[simp] theorem exec_hostAccess (s : State) : exec .hostAccess s = execHostAccess s := (rfl)
@[simp] theorem exec_eventDelivery (s : State) : exec .eventDelivery s = execEventDelivery s := (rfl)
@[simp] theorem exec_messageDelivery (s : State) : exec .messageDelivery s = execMessageDelivery s := (rfl)
@[simp] theorem exec_handlerStart (s : State) : exec .handlerStart s = execHandlerStart s := (rfl)
@[simp] theorem exec_tretActionArrival (s : State) : exec .tretActionArrival s = execTretActionArrival s := (rfl)
@[simp] theorem exec_monitorWake (s : State) : exec .monitorWake s = execMonitorWake s := (rfl)
@[simp] theorem exec_syscReply (s : State) : exec .syscReply s = execSyscReply s := (rfl)
@[simp] theorem exec_waittExpiry (s : State) : exec .waittExpiry s = execWaittExpiry s := (rfl)
@[simp] theorem exec_formulaTaskPlacement (s : State) : exec .formulaTaskPlacement s = execFormulaTaskPlacement s := (rfl)
@[simp] theorem exec_formulaTaskEnd (s : State) : exec .formulaTaskEnd s = execFormulaTaskEnd s := (rfl)
@[simp] theorem exec_waveFlip (s : State) : exec .waveFlip s = execWaveFlip s := (rfl)
@[simp] theorem exec_waveAbort (s : State) : exec .waveAbort s = execWaveAbort s := (rfl)
@[simp] theorem exec_signatureCheck (s : State) : exec .signatureCheck s = execSignatureCheck s := (rfl)
@[simp] theorem exec_rollback (s : State) : exec .rollback s = execRollback s := (rfl)
@[simp] theorem exec_inFieldTest (s : State) : exec .inFieldTest s = execInFieldTest s := (rfl)
@[simp] theorem exec_fatalError (s : State) : exec .fatalError s = execFatalError s := (rfl)
@[simp] theorem exec_watchdogTakeover (s : State) : exec .watchdogTakeover s = execWatchdogTakeover s := (rfl)
@[simp] theorem exec_liveUpdate (s : State) : exec .liveUpdate s = execLiveUpdate s := (rfl)
@[simp] theorem exec_powerStateWrite (s : State) : exec .powerStateWrite s = execPowerStateWrite s := (rfl)
@[simp] theorem exec_capWindow (s : State) : exec .capWindow s = execCapWindow s := (rfl)
@[simp] theorem exec_thermalTrip (s : State) : exec .thermalTrip s = execThermalTrip s := (rfl)
@[simp] theorem exec_energySample (s : State) : exec .energySample s = execEnergySample s := (rfl)
@[simp] theorem exec_energyCheckpoint (s : State) : exec .energyCheckpoint s = execEnergyCheckpoint s := (rfl)
@[simp] theorem exec_signedReading (s : State) : exec .signedReading s = execSignedReading s := (rfl)
@[simp] theorem exec_attestationReport (s : State) : exec .attestationReport s = execAttestationReport s := (rfl)
@[simp] theorem exec_partitionOwnerWrite (s : State) : exec .partitionOwnerWrite s = execPartitionOwnerWrite s := (rfl)
@[simp] theorem exec_partitionClusterWrite (s : State) : exec .partitionClusterWrite s = execPartitionClusterWrite s := (rfl)
@[simp] theorem exec_deviceReset (s : State) : exec .deviceReset s = execDeviceReset s := (rfl)
@[simp] theorem exec_fetchFault (s : State) : exec .fetchFault s = execFetchFault s := (rfl)
@[simp] theorem exec_failedSubChannelMark (s : State) : exec .failedSubChannelMark s = execFailedSubChannelMark s := (rfl)
@[simp] theorem exec_tbaseDiscipline (s : State) : exec .tbaseDiscipline s = execTbaseDiscipline s := (rfl)

end Sys2Proof.Machine
end

