-- ==== Sys2Proof/Laws/Encoding.lean ====
section
/-! SUPPORT. Encoding: what each format's word gives back when its fields are read, and the encoding equation of each
constructor. A proof about decoding cites these and unfolds neither `encode` nor `legal`. -/

namespace Sys2Proof

/-- A field above the last piece of a word lies in the pieces before it. -/
theorem extract_above {v w : Nat} (x : BitVec v) (y : BitVec w) (n l : Nat) (h : w ≤ n) :
    (x ++ y).extractLsb' n l = x.extractLsb' (n - w) l := by
  ext i hi
  simp only [BitVec.getElem_extractLsb', BitVec.getLsbD_append, if_neg (show ¬ n + i < w by omega)]
  congr 1; omega

/-- A field within the last piece of a word is read from it. -/
theorem extract_within {v w : Nat} (x : BitVec v) (y : BitVec w) (n l : Nat) (h : n + l ≤ w) :
    (x ++ y).extractLsb' n l = y.extractLsb' n l := by
  ext i hi
  simp only [BitVec.getElem_extractLsb', BitVec.getLsbD_append, if_pos (show n + i < w by omega)]

/-- A format Q word carries its opcode. -/
theorem FQ.wOpc_word (f : FQ) (opc : BitVec 10) : wOpc (f.word opc) = opc := by
  simp (disch := omega) only [wOpc, FQ.word, extract_above, Nat.reduceSub, BitVec.extractLsb'_eq_self]
/-- A format Q word carries its variant. -/
theorem FQ.wVar_word (f : FQ) (opc : BitVec 10) : wVar (f.word opc) = f.var := by
  simp (disch := omega) only [wVar, FQ.word, extract_above, extract_within, Nat.reduceSub, BitVec.extractLsb'_eq_self]
/-- A format Q word gives back the fields it was made of. -/
theorem FQ.of_word (f : FQ) (opc : BitVec 10) : FQ.of (f.word opc) = some f := by
  simp (disch := omega) only [FQ.of, FQ.wVar_word]
  simp (disch := omega) only [FQ.word, extract_above, extract_within, Nat.reduceSub, BitVec.extractLsb'_eq_self]
  rfl

/-- A format V word carries its opcode. -/
theorem FV.wOpc_word (f : FV) (opc : BitVec 10) : wOpc (f.word opc) = opc := by
  simp (disch := omega) only [wOpc, FV.word, extract_above, Nat.reduceSub, BitVec.extractLsb'_eq_self]
/-- A format V word carries its variant. -/
theorem FV.wVar_word (f : FV) (opc : BitVec 10) : wVar (f.word opc) = f.var := by
  simp (disch := omega) only [wVar, FV.word, extract_above, extract_within, Nat.reduceSub, BitVec.extractLsb'_eq_self]
/-- A format V word gives back the fields it was made of. -/
theorem FV.of_word (f : FV) (opc : BitVec 10) : FV.of (f.word opc) = some f := by
  simp (disch := omega) only [FV.of, FV.wVar_word]
  simp (disch := omega) only [FV.word, extract_above, extract_within, Nat.reduceSub, BitVec.extractLsb'_eq_self]
  rfl

/-- A format I word carries its opcode. -/
theorem FI.wOpc_word (f : FI) (opc : BitVec 10) : wOpc (f.word opc) = opc := by
  simp (disch := omega) only [wOpc, FI.word, extract_above, Nat.reduceSub, BitVec.extractLsb'_eq_self]
/-- A format I word carries its variant. -/
theorem FI.wVar_word (f : FI) (opc : BitVec 10) : wVar (f.word opc) = f.var := by
  simp (disch := omega) only [wVar, FI.word, extract_above, extract_within, Nat.reduceSub, BitVec.extractLsb'_eq_self]
/-- A format I word gives back the fields it was made of. -/
theorem FI.of_word (f : FI) (opc : BitVec 10) : FI.of (f.word opc) = some f := by
  simp (disch := omega) only [FI.of, FI.wVar_word]
  simp (disch := omega) only [FI.word, extract_above, extract_within, Nat.reduceSub, BitVec.extractLsb'_eq_self]
  rfl

/-- A format T word carries its opcode. -/
theorem FT.wOpc_word (f : FT) (opc : BitVec 10) : wOpc (f.word opc) = opc := by
  simp (disch := omega) only [wOpc, FT.word, extract_above, Nat.reduceSub, BitVec.extractLsb'_eq_self]
/-- A format T word carries its variant. -/
theorem FT.wVar_word (f : FT) (opc : BitVec 10) : wVar (f.word opc) = f.var := by
  simp (disch := omega) only [wVar, FT.word, extract_above, extract_within, Nat.reduceSub, BitVec.extractLsb'_eq_self]
/-- A format T word gives back the fields it was made of. -/
theorem FT.of_word (f : FT) (opc : BitVec 10) : FT.of (f.word opc) = some f := by
  simp (disch := omega) only [FT.of, FT.wVar_word]
  simp (disch := omega) only [FT.word, extract_above, extract_within, Nat.reduceSub, BitVec.extractLsb'_eq_self]
  rfl

/-- A format E word carries its opcode. -/
theorem FE.wOpc_word (f : FE) (opc : BitVec 10) : wOpc (f.word opc) = opc := by
  simp (disch := omega) only [wOpc, FE.word, extract_above, Nat.reduceSub, BitVec.extractLsb'_eq_self]
/-- A format E word carries its variant. -/
theorem FE.wVar_word (f : FE) (opc : BitVec 10) : wVar (f.word opc) = f.var := by
  simp (disch := omega) only [wVar, FE.word, extract_above, extract_within, Nat.reduceSub, BitVec.extractLsb'_eq_self]
/-- A format E word gives back the fields it was made of. -/
theorem FE.of_word (f : FE) (opc : BitVec 10) : FE.of (f.word opc) = some f := by
  simp (disch := omega) only [FE.of, FE.wVar_word]
  simp (disch := omega) only [FE.word, extract_above, extract_within, Nat.reduceSub, BitVec.extractLsb'_eq_self]

/-- A format M word carries its opcode. -/
theorem FM.wOpc_word (f : FM) (opc : BitVec 10) : wOpc (f.word opc) = opc := by
  simp (disch := omega) only [wOpc, FM.word, extract_above, Nat.reduceSub, BitVec.extractLsb'_eq_self]
/-- A format M word carries its variant. -/
theorem FM.wVar_word (f : FM) (opc : BitVec 10) : wVar (f.word opc) = f.var := by
  simp (disch := omega) only [wVar, FM.word, extract_above, extract_within, Nat.reduceSub, BitVec.extractLsb'_eq_self]
/-- A format M word gives back the fields it was made of. -/
theorem FM.of_word (f : FM) (opc : BitVec 10) : FM.of (f.word opc) = some f := by
  simp (disch := omega) only [FM.of, FM.wVar_word]
  simp (disch := omega) only [FM.word, extract_above, extract_within, Nat.reduceSub, BitVec.extractLsb'_eq_self]
  rfl

/-- A format B word carries its opcode. -/
theorem FB.wOpc_word (f : FB) (opc : BitVec 10) : wOpc (f.word opc) = opc := by
  simp (disch := omega) only [wOpc, FB.word, extract_above, Nat.reduceSub, BitVec.extractLsb'_eq_self]
/-- A format B word carries its variant. -/
theorem FB.wVar_word (f : FB) (opc : BitVec 10) : wVar (f.word opc) = f.var := by
  simp (disch := omega) only [wVar, FB.word, extract_above, extract_within, Nat.reduceSub, BitVec.extractLsb'_eq_self]
/-- A format B word gives back the fields it was made of. -/
theorem FB.of_word (f : FB) (opc : BitVec 10) : FB.of (f.word opc) = some f := by
  simp (disch := omega) only [FB.of, FB.wVar_word]
  simp (disch := omega) only [FB.word, extract_above, extract_within, Nat.reduceSub, BitVec.extractLsb'_eq_self]
  rfl

/-! The word of each constructor: none for an event row. -/

theorem encode_nop (f : FQ) : encode (.nop f) = some (f.word 0x001) := (rfl)
theorem encode_add (f : FQ) : encode (.add f) = some (f.word 0x010) := (rfl)
theorem encode_sub (f : FQ) : encode (.sub f) = some (f.word 0x011) := (rfl)
theorem encode_addi (f : FI) : encode (.addi f) = some (f.word 0x012) := (rfl)
theorem encode_mul (f : FQ) : encode (.mul f) = some (f.word 0x013) := (rfl)
theorem encode_mulh (f : FQ) : encode (.mulh f) = some (f.word 0x014) := (rfl)
theorem encode_mulhu (f : FQ) : encode (.mulhu f) = some (f.word 0x015) := (rfl)
theorem encode_div (f : FQ) : encode (.div f) = some (f.word 0x016) := (rfl)
theorem encode_divu (f : FQ) : encode (.divu f) = some (f.word 0x017) := (rfl)
theorem encode_rem (f : FQ) : encode (.rem f) = some (f.word 0x018) := (rfl)
theorem encode_remu (f : FQ) : encode (.remu f) = some (f.word 0x019) := (rfl)
theorem encode_and (f : FQ) : encode (.and f) = some (f.word 0x01A) := (rfl)
theorem encode_or (f : FQ) : encode (.or f) = some (f.word 0x01B) := (rfl)
theorem encode_xor (f : FQ) : encode (.xor f) = some (f.word 0x01C) := (rfl)
theorem encode_andn (f : FQ) : encode (.andn f) = some (f.word 0x01D) := (rfl)
theorem encode_andi (f : FI) : encode (.andi f) = some (f.word 0x01E) := (rfl)
theorem encode_ori (f : FI) : encode (.ori f) = some (f.word 0x01F) := (rfl)
theorem encode_xori (f : FI) : encode (.xori f) = some (f.word 0x020) := (rfl)
theorem encode_shl (f : FQ) : encode (.shl f) = some (f.word 0x021) := (rfl)
theorem encode_shr (f : FQ) : encode (.shr f) = some (f.word 0x022) := (rfl)
theorem encode_sra (f : FQ) : encode (.sra f) = some (f.word 0x023) := (rfl)
theorem encode_shli (f : FI) : encode (.shli f) = some (f.word 0x024) := (rfl)
theorem encode_shri (f : FI) : encode (.shri f) = some (f.word 0x025) := (rfl)
theorem encode_srai (f : FI) : encode (.srai f) = some (f.word 0x026) := (rfl)
theorem encode_rol (f : FQ) : encode (.rol f) = some (f.word 0x027) := (rfl)
theorem encode_roli (f : FI) : encode (.roli f) = some (f.word 0x028) := (rfl)
theorem encode_clz (f : FQ) : encode (.clz f) = some (f.word 0x029) := (rfl)
theorem encode_ctz (f : FQ) : encode (.ctz f) = some (f.word 0x02A) := (rfl)
theorem encode_popc (f : FQ) : encode (.popc f) = some (f.word 0x02B) := (rfl)
theorem encode_min (f : FQ) : encode (.min f) = some (f.word 0x02C) := (rfl)
theorem encode_max (f : FQ) : encode (.max f) = some (f.word 0x02D) := (rfl)
theorem encode_minu (f : FQ) : encode (.minu f) = some (f.word 0x02E) := (rfl)
theorem encode_maxu (f : FQ) : encode (.maxu f) = some (f.word 0x02F) := (rfl)
theorem encode_sext (f : FI) : encode (.sext f) = some (f.word 0x030) := (rfl)
theorem encode_zext (f : FI) : encode (.zext f) = some (f.word 0x031) := (rfl)
theorem encode_bfx (f : FI) : encode (.bfx f) = some (f.word 0x032) := (rfl)
theorem encode_bfxSx (f : FI) : encode (.bfxSx f) = some (f.word 0x032) := (rfl)
theorem encode_bfi (f : FI) : encode (.bfi f) = some (f.word 0x033) := (rfl)
theorem encode_sel (f : FQ) : encode (.sel f) = some (f.word 0x034) := (rfl)
theorem encode_cmp (f : FQ) : encode (.cmp f) = some (f.word 0x035) := (rfl)
theorem encode_cmpi (f : FI) : encode (.cmpi f) = some (f.word 0x036) := (rfl)
theorem encode_li (f : FI) : encode (.li f) = some (f.word 0x037) := (rfl)
theorem encode_lih (f : FI) : encode (.lih f) = some (f.word 0x038) := (rfl)
theorem encode_mov (f : FQ) : encode (.mov f) = some (f.word 0x039) := (rfl)
theorem encode_aadd (f : FQ) : encode (.aadd f) = some (f.word 0x03A) := (rfl)
theorem encode_aaddi (f : FI) : encode (.aaddi f) = some (f.word 0x03B) := (rfl)
theorem encode_mfc (f : FI) : encode (.mfc f) = some (f.word 0x03C) := (rfl)
theorem encode_mtc (f : FI) : encode (.mtc f) = some (f.word 0x03D) := (rfl)
theorem encode_pand (f : FQ) : encode (.pand f) = some (f.word 0x03E) := (rfl)
theorem encode_por (f : FQ) : encode (.por f) = some (f.word 0x03F) := (rfl)
theorem encode_pxor (f : FQ) : encode (.pxor f) = some (f.word 0x040) := (rfl)
theorem encode_pnot (f : FQ) : encode (.pnot f) = some (f.word 0x041) := (rfl)
theorem encode_br (f : FB) : encode (.br f) = some (f.word 0x042) := (rfl)
theorem encode_j (f : FB) : encode (.j f) = some (f.word 0x043) := (rfl)
theorem encode_jr (f : FQ) : encode (.jr f) = some (f.word 0x044) := (rfl)
theorem encode_loop (f : FB) : encode (.loop f) = some (f.word 0x045) := (rfl)
theorem encode_trap (f : FI) : encode (.trap f) = some (f.word 0x046) := (rfl)
theorem encode_chk (f : FI) : encode (.chk f) = some (f.word 0x047) := (rfl)
theorem encode_sysc (f : FI) : encode (.sysc f) = some (f.word 0x048) := (rfl)
theorem encode_tret (f : FI) : encode (.tret f) = some (f.word 0x049) := (rfl)
theorem encode_halt (f : FI) : encode (.halt f) = some (f.word 0x04A) := (rfl)
theorem encode_fenceI (f : FI) : encode (.fenceI f) = some (f.word 0x04B) := (rfl)
theorem encode_yield (f : FI) : encode (.yield f) = some (f.word 0x04C) := (rfl)
theorem encode_vadd (f : FV) : encode (.vadd f) = some (f.word 0x080) := (rfl)
theorem encode_vsub (f : FV) : encode (.vsub f) = some (f.word 0x081) := (rfl)
theorem encode_vmul (f : FV) : encode (.vmul f) = some (f.word 0x082) := (rfl)
theorem encode_vfma (f : FV) : encode (.vfma f) = some (f.word 0x083) := (rfl)
theorem encode_vfms (f : FV) : encode (.vfms f) = some (f.word 0x084) := (rfl)
theorem encode_vdiv (f : FV) : encode (.vdiv f) = some (f.word 0x085) := (rfl)
theorem encode_vsqrt (f : FV) : encode (.vsqrt f) = some (f.word 0x086) := (rfl)
theorem encode_vrcpe (f : FV) : encode (.vrcpe f) = some (f.word 0x087) := (rfl)
theorem encode_vrsqe (f : FV) : encode (.vrsqe f) = some (f.word 0x088) := (rfl)
theorem encode_vexp2 (f : FV) : encode (.vexp2 f) = some (f.word 0x089) := (rfl)
theorem encode_vlog2 (f : FV) : encode (.vlog2 f) = some (f.word 0x08A) := (rfl)
theorem encode_vmin (f : FV) : encode (.vmin f) = some (f.word 0x08B) := (rfl)
theorem encode_vmax (f : FV) : encode (.vmax f) = some (f.word 0x08C) := (rfl)
theorem encode_vabs (f : FV) : encode (.vabs f) = some (f.word 0x08D) := (rfl)
theorem encode_vneg (f : FV) : encode (.vneg f) = some (f.word 0x08E) := (rfl)
theorem encode_vcmp (f : FV) : encode (.vcmp f) = some (f.word 0x08F) := (rfl)
theorem encode_vsel (f : FV) : encode (.vsel f) = some (f.word 0x090) := (rfl)
theorem encode_vcvt (f : FV) : encode (.vcvt f) = some (f.word 0x091) := (rfl)
theorem encode_viadd (f : FV) : encode (.viadd f) = some (f.word 0x092) := (rfl)
theorem encode_visub (f : FV) : encode (.visub f) = some (f.word 0x093) := (rfl)
theorem encode_vimul (f : FV) : encode (.vimul f) = some (f.word 0x094) := (rfl)
theorem encode_vimad (f : FV) : encode (.vimad f) = some (f.word 0x095) := (rfl)
theorem encode_vimin (f : FV) : encode (.vimin f) = some (f.word 0x096) := (rfl)
theorem encode_vimax (f : FV) : encode (.vimax f) = some (f.word 0x097) := (rfl)
theorem encode_vand (f : FV) : encode (.vand f) = some (f.word 0x098) := (rfl)
theorem encode_vor (f : FV) : encode (.vor f) = some (f.word 0x099) := (rfl)
theorem encode_vxor (f : FV) : encode (.vxor f) = some (f.word 0x09A) := (rfl)
theorem encode_vshl (f : FV) : encode (.vshl f) = some (f.word 0x09B) := (rfl)
theorem encode_vshr (f : FV) : encode (.vshr f) = some (f.word 0x09C) := (rfl)
theorem encode_vsra (f : FV) : encode (.vsra f) = some (f.word 0x09D) := (rfl)
theorem encode_vclass (f : FV) : encode (.vclass f) = some (f.word 0x09E) := (rfl)
theorem encode_vmovv (f : FV) : encode (.vmovv f) = some (f.word 0x09F) := (rfl)
theorem encode_vrsum (f : FV) : encode (.vrsum f) = some (f.word 0x0A0) := (rfl)
theorem encode_vrmax (f : FV) : encode (.vrmax f) = some (f.word 0x0A1) := (rfl)
theorem encode_vrmin (f : FV) : encode (.vrmin f) = some (f.word 0x0A2) := (rfl)
theorem encode_vscan (f : FV) : encode (.vscan f) = some (f.word 0x0A3) := (rfl)
theorem encode_vbcast (f : FV) : encode (.vbcast f) = some (f.word 0x0A4) := (rfl)
theorem encode_vperm (f : FV) : encode (.vperm f) = some (f.word 0x0A5) := (rfl)
theorem encode_vslide (f : FV) : encode (.vslide f) = some (f.word 0x0A6) := (rfl)
theorem encode_vcomp (f : FV) : encode (.vcomp f) = some (f.word 0x0A7) := (rfl)
theorem encode_vexpd (f : FV) : encode (.vexpd f) = some (f.word 0x0A8) := (rfl)
theorem encode_viota (f : FV) : encode (.viota f) = some (f.word 0x0A9) := (rfl)
theorem encode_vgetl (f : FV) : encode (.vgetl f) = some (f.word 0x0AA) := (rfl)
theorem encode_vsetl (f : FV) : encode (.vsetl f) = some (f.word 0x0AB) := (rfl)
theorem encode_kpopc (f : FV) : encode (.kpopc f) = some (f.word 0x0AC) := (rfl)
theorem encode_kfirst (f : FV) : encode (.kfirst f) = some (f.word 0x0AD) := (rfl)
theorem encode_kand (f : FV) : encode (.kand f) = some (f.word 0x0AE) := (rfl)
theorem encode_kor (f : FV) : encode (.kor f) = some (f.word 0x0AF) := (rfl)
theorem encode_kxor (f : FV) : encode (.kxor f) = some (f.word 0x0B0) := (rfl)
theorem encode_knot (f : FV) : encode (.knot f) = some (f.word 0x0B1) := (rfl)
theorem encode_kmov (f : FV) : encode (.kmov f) = some (f.word 0x0B2) := (rfl)
theorem encode_vnsend (f : FV) : encode (.vnsend f) = some (f.word 0x0B3) := (rfl)
theorem encode_vnrecv (f : FV) : encode (.vnrecv f) = some (f.word 0x0B4) := (rfl)
theorem encode_vlmul (f : FV) : encode (.vlmul f) = some (f.word 0x0B5) := (rfl)
theorem encode_vlsum (f : FV) : encode (.vlsum f) = some (f.word 0x0B6) := (rfl)
theorem encode_vlpack (f : FV) : encode (.vlpack f) = some (f.word 0x0B7) := (rfl)
theorem encode_vlunpk (f : FV) : encode (.vlunpk f) = some (f.word 0x0B8) := (rfl)
theorem encode_ld (f : FM) : encode (.ld f) = some (f.word 0x100) := (rfl)
theorem encode_st (f : FM) : encode (.st f) = some (f.word 0x101) := (rfl)
theorem encode_ldv (f : FM) : encode (.ldv f) = some (f.word 0x102) := (rfl)
theorem encode_stv (f : FM) : encode (.stv f) = some (f.word 0x103) := (rfl)
theorem encode_ldvs (f : FM) : encode (.ldvs f) = some (f.word 0x104) := (rfl)
theorem encode_stvs (f : FM) : encode (.stvs f) = some (f.word 0x105) := (rfl)
theorem encode_ldvx (f : FM) : encode (.ldvx f) = some (f.word 0x106) := (rfl)
theorem encode_stvx (f : FM) : encode (.stvx f) = some (f.word 0x107) := (rfl)
theorem encode_ldk (f : FM) : encode (.ldk f) = some (f.word 0x108) := (rfl)
theorem encode_stk (f : FM) : encode (.stk f) = some (f.word 0x109) := (rfl)
theorem encode_lda (f : FM) : encode (.lda f) = some (f.word 0x10A) := (rfl)
theorem encode_strl (f : FM) : encode (.strl f) = some (f.word 0x10B) := (rfl)
theorem encode_pref (f : FM) : encode (.pref f) = some (f.word 0x10C) := (rfl)
theorem encode_amoadd (f : FM) : encode (.amoadd f) = some (f.word 0x10D) := (rfl)
theorem encode_amomin (f : FM) : encode (.amomin f) = some (f.word 0x10E) := (rfl)
theorem encode_amomax (f : FM) : encode (.amomax f) = some (f.word 0x10F) := (rfl)
theorem encode_amominu (f : FM) : encode (.amominu f) = some (f.word 0x110) := (rfl)
theorem encode_amomaxu (f : FM) : encode (.amomaxu f) = some (f.word 0x111) := (rfl)
theorem encode_amoand (f : FM) : encode (.amoand f) = some (f.word 0x112) := (rfl)
theorem encode_amoor (f : FM) : encode (.amoor f) = some (f.word 0x113) := (rfl)
theorem encode_amoxor (f : FM) : encode (.amoxor f) = some (f.word 0x114) := (rfl)
theorem encode_amoswp (f : FM) : encode (.amoswp f) = some (f.word 0x115) := (rfl)
theorem encode_amocas (f : FM) : encode (.amocas f) = some (f.word 0x116) := (rfl)
theorem encode_amofadd (f : FM) : encode (.amofadd f) = some (f.word 0x117) := (rfl)
theorem encode_fence (f : FI) : encode (.fence f) = some (f.word 0x118) := (rfl)
theorem encode_fenceSs (f : FI) : encode (.fenceSs f) = some (f.word 0x118) := (rfl)
theorem encode_fenceLl (f : FI) : encode (.fenceLl f) = some (f.word 0x118) := (rfl)
theorem encode_fenceS (f : FI) : encode (.fenceS f) = some (f.word 0x119) := (rfl)
theorem encode_cmoClean (f : FM) : encode (.cmoClean f) = some (f.word 0x11A) := (rfl)
theorem encode_cmoInval (f : FM) : encode (.cmoInval f) = some (f.word 0x11A) := (rfl)
theorem encode_cmoFlush (f : FM) : encode (.cmoFlush f) = some (f.word 0x11A) := (rfl)
theorem encode_cmoZero (f : FM) : encode (.cmoZero f) = some (f.word 0x11A) := (rfl)
theorem encode_waitm (f : FM) : encode (.waitm f) = some (f.word 0x11B) := (rfl)
theorem encode_waitmCmp (f : FM) : encode (.waitmCmp f) = some (f.word 0x11B) := (rfl)
theorem encode_ldsec (f : FM) : encode (.ldsec f) = some (f.word 0x11C) := (rfl)
theorem encode_stsec (f : FM) : encode (.stsec f) = some (f.word 0x11D) := (rfl)
theorem encode_tset (f : FI) : encode (.tset f) = some (f.word 0x160) := (rfl)
theorem encode_tget (f : FI) : encode (.tget f) = some (f.word 0x161) := (rfl)
theorem encode_tld (f : FM) : encode (.tld f) = some (f.word 0x162) := (rfl)
theorem encode_tst (f : FM) : encode (.tst f) = some (f.word 0x163) := (rfl)
theorem encode_tzero (f : FT) : encode (.tzero f) = some (f.word 0x164) := (rfl)
theorem encode_tmov (f : FT) : encode (.tmov f) = some (f.word 0x165) := (rfl)
theorem encode_gissue (f : FE) : encode (.gissue f) = some (f.word 0x166) := (rfl)
theorem encode_tmma (f : FT) : encode (.tmma f) = some (f.word 0x167) := (rfl)
theorem encode_tmmal (f : FT) : encode (.tmmal f) = some (f.word 0x168) := (rfl)
theorem encode_tscale (f : FT) : encode (.tscale f) = some (f.word 0x169) := (rfl)
theorem encode_tadd (f : FT) : encode (.tadd f) = some (f.word 0x16A) := (rfl)
theorem encode_tmul (f : FT) : encode (.tmul f) = some (f.word 0x16B) := (rfl)
theorem encode_tcvt (f : FT) : encode (.tcvt f) = some (f.word 0x16C) := (rfl)
theorem encode_ttrans (f : FT) : encode (.ttrans f) = some (f.word 0x16D) := (rfl)
theorem encode_trsum (f : FT) : encode (.trsum f) = some (f.word 0x16E) := (rfl)
theorem encode_trmax (f : FT) : encode (.trmax f) = some (f.word 0x16F) := (rfl)
theorem encode_tv2t (f : FT) : encode (.tv2t f) = some (f.word 0x170) := (rfl)
theorem encode_tt2v (f : FT) : encode (.tt2v f) = some (f.word 0x171) := (rfl)
theorem encode_tbcst (f : FT) : encode (.tbcst f) = some (f.word 0x172) := (rfl)
theorem encode_tstat (f : FI) : encode (.tstat f) = some (f.word 0x173) := (rfl)
theorem encode_hstart (f : FE) : encode (.hstart f) = some (f.word 0x1C0) := (rfl)
theorem encode_hend (f : FE) : encode (.hend f) = some (f.word 0x1C1) := (rfl)
theorem encode_hjoin (f : FE) : encode (.hjoin f) = some (f.word 0x1C2) := (rfl)
theorem encode_hstat (f : FE) : encode (.hstat f) = some (f.word 0x1C3) := (rfl)
theorem encode_gdetach (f : FE) : encode (.gdetach f) = some (f.word 0x1C4) := (rfl)
theorem encode_gdetachJoin (f : FE) : encode (.gdetachJoin f) = some (f.word 0x1C4) := (rfl)
theorem encode_gattach (f : FE) : encode (.gattach f) = some (f.word 0x1C5) := (rfl)
theorem encode_gmerge (f : FE) : encode (.gmerge f) = some (f.word 0x1C6) := (rfl)
theorem encode_barw (f : FE) : encode (.barw f) = some (f.word 0x1C7) := (rfl)
theorem encode_bara (f : FE) : encode (.bara f) = some (f.word 0x1C8) := (rfl)
theorem encode_barq (f : FE) : encode (.barq f) = some (f.word 0x1C9) := (rfl)
theorem encode_barqTest (f : FE) : encode (.barqTest f) = some (f.word 0x1C9) := (rfl)
theorem encode_xph (f : FE) : encode (.xph f) = some (f.word 0x1CA) := (rfl)
theorem encode_xsend (f : FE) : encode (.xsend f) = some (f.word 0x1CB) := (rfl)
theorem encode_xmux (f : FE) : encode (.xmux f) = some (f.word 0x1CC) := (rfl)
theorem encode_xend (f : FE) : encode (.xend f) = some (f.word 0x1CD) := (rfl)
theorem encode_cpy (f : FE) : encode (.cpy f) = some (f.word 0x1CE) := (rfl)
theorem encode_cpyn (f : FE) : encode (.cpyn f) = some (f.word 0x1CF) := (rfl)
theorem encode_cpyc (f : FE) : encode (.cpyc f) = some (f.word 0x1D0) := (rfl)
theorem encode_cpyr (f : FE) : encode (.cpyr f) = some (f.word 0x1D1) := (rfl)
theorem encode_cpycmb (f : FE) : encode (.cpycmb f) = some (f.word 0x1D2) := (rfl)
theorem encode_wmset (f : FE) : encode (.wmset f) = some (f.word 0x1D3) := (rfl)
theorem encode_wmclr (f : FE) : encode (.wmclr f) = some (f.word 0x1D4) := (rfl)
theorem encode_wmrd (f : FE) : encode (.wmrd f) = some (f.word 0x1D5) := (rfl)
theorem encode_wmrdAddr (f : FE) : encode (.wmrdAddr f) = some (f.word 0x1D5) := (rfl)
theorem encode_crwait (f : FE) : encode (.crwait f) = some (f.word 0x1D6) := (rfl)
theorem encode_crpop (f : FE) : encode (.crpop f) = some (f.word 0x1D7) := (rfl)
theorem encode_cbinit (f : FE) : encode (.cbinit f) = some (f.word 0x1D8) := (rfl)
theorem encode_cbacqRd (f : FE) : encode (.cbacqRd f) = some (f.word 0x1D9) := (rfl)
theorem encode_cbacqWr (f : FE) : encode (.cbacqWr f) = some (f.word 0x1D9) := (rfl)
theorem encode_cbrelRd (f : FE) : encode (.cbrelRd f) = some (f.word 0x1DA) := (rfl)
theorem encode_cbrelWr (f : FE) : encode (.cbrelWr f) = some (f.word 0x1DA) := (rfl)
theorem encode_gather (f : FE) : encode (.gather f) = some (f.word 0x1DB) := (rfl)
theorem encode_evset (f : FE) : encode (.evset f) = some (f.word 0x1DC) := (rfl)
theorem encode_evclr (f : FE) : encode (.evclr f) = some (f.word 0x1DD) := (rfl)
theorem encode_evwaitAny (f : FE) : encode (.evwaitAny f) = some (f.word 0x1DE) := (rfl)
theorem encode_evwaitAll (f : FE) : encode (.evwaitAll f) = some (f.word 0x1DE) := (rfl)
theorem encode_mpost (f : FE) : encode (.mpost f) = some (f.word 0x1DF) := (rfl)
theorem encode_mrecv (f : FE) : encode (.mrecv f) = some (f.word 0x1E0) := (rfl)
theorem encode_mrecvTest (f : FE) : encode (.mrecvTest f) = some (f.word 0x1E0) := (rfl)
theorem encode_waitt (f : FE) : encode (.waitt f) = some (f.word 0x1E1) := (rfl)
theorem encode_waittAbs (f : FE) : encode (.waittAbs f) = some (f.word 0x1E1) := (rfl)
theorem encode_tqput (f : FE) : encode (.tqput f) = some (f.word 0x1E2) := (rfl)
theorem encode_hodq (f : FE) : encode (.hodq f) = some (f.word 0x1E3) := (rfl)
theorem encode_hodr (f : FE) : encode (.hodr f) = some (f.word 0x1E4) := (rfl)
theorem encode_hodrTest (f : FE) : encode (.hodrTest f) = some (f.word 0x1E4) := (rfl)
theorem encode_cellDef (f : FE) : encode (.cellDef f) = some (f.word 0x1E5) := (rfl)
theorem encode_cellBind (f : FE) : encode (.cellBind f) = some (f.word 0x1E6) := (rfl)
theorem encode_cellPut (f : FE) : encode (.cellPut f) = some (f.word 0x1E7) := (rfl)
theorem encode_cellGet (f : FE) : encode (.cellGet f) = some (f.word 0x1E8) := (rfl)
theorem encode_cellCommit (f : FE) : encode (.cellCommit f) = some (f.word 0x1E9) := (rfl)
theorem encode_cellState (f : FE) : encode (.cellState f) = some (f.word 0x1EA) := (rfl)
theorem encode_cellStateFlip (f : FE) : encode (.cellStateFlip f) = some (f.word 0x1EA) := (rfl)
theorem encode_cellStateAbort (f : FE) : encode (.cellStateAbort f) = some (f.word 0x1EA) := (rfl)
theorem encode_cellDrop (f : FE) : encode (.cellDrop f) = some (f.word 0x1EB) := (rfl)
theorem encode_registerWrite : encode .registerWrite = none := (rfl)
theorem encode_queueDoorbell : encode .queueDoorbell = none := (rfl)
theorem encode_queueEnable : encode .queueEnable = none := (rfl)
theorem encode_dispatch : encode .dispatch = none := (rfl)
theorem encode_cmoRangeClean : encode .cmoRangeClean = none := (rfl)
theorem encode_cmoRangeInval : encode .cmoRangeInval = none := (rfl)
theorem encode_cmoRangeFlush : encode .cmoRangeFlush = none := (rfl)
theorem encode_cmoRangeAttr : encode .cmoRangeAttr = none := (rfl)
theorem encode_eventSet : encode .eventSet = none := (rfl)
theorem encode_eventWait : encode .eventWait = none := (rfl)
theorem encode_indirect : encode .indirect = none := (rfl)
theorem encode_timestamp : encode .timestamp = none := (rfl)
theorem encode_cellWave : encode .cellWave = none := (rfl)
theorem encode_power : encode .power = none := (rfl)
theorem encode_launchPlacement : encode .launchPlacement = none := (rfl)
theorem encode_startTimeReached : encode .startTimeReached = none := (rfl)
theorem encode_gangEnd : encode .gangEnd = none := (rfl)
theorem encode_preemptionRequest : encode .preemptionRequest = none := (rfl)
theorem encode_drainExpiry : encode .drainExpiry = none := (rfl)
theorem encode_saveComplete : encode .saveComplete = none := (rfl)
theorem encode_gangRestore : encode .gangRestore = none := (rfl)
theorem encode_longWaitSwap : encode .longWaitSwap = none := (rfl)
theorem encode_resumeIntervalExpiry : encode .resumeIntervalExpiry = none := (rfl)
theorem encode_swapWake : encode .swapWake = none := (rfl)
theorem encode_btoExpiry : encode .btoExpiry = none := (rfl)
theorem encode_barrierCompletion : encode .barrierCompletion = none := (rfl)
theorem encode_joinCompletion : encode .joinCompletion = none := (rfl)
theorem encode_sequencerStep : encode .sequencerStep = none := (rfl)
theorem encode_streamConditionReport : encode .streamConditionReport = none := (rfl)
theorem encode_memoryReply : encode .memoryReply = none := (rfl)
theorem encode_channelArrival : encode .channelArrival = none := (rfl)
theorem encode_xmuxCapture : encode .xmuxCapture = none := (rfl)
theorem encode_xcollideSense : encode .xcollideSense = none := (rfl)
theorem encode_holdRaise : encode .holdRaise = none := (rfl)
theorem encode_holdRelease : encode .holdRelease = none := (rfl)
theorem encode_throttleChange : encode .throttleChange = none := (rfl)
theorem encode_throttleLimitExpiry : encode .throttleLimitExpiry = none := (rfl)
theorem encode_copyLanding : encode .copyLanding = none := (rfl)
theorem encode_copyComplete : encode .copyComplete = none := (rfl)
theorem encode_copyFault : encode .copyFault = none := (rfl)
theorem encode_combinePacketArrival : encode .combinePacketArrival = none := (rfl)
theorem encode_combineEntryTimeout : encode .combineEntryTimeout = none := (rfl)
theorem encode_gatherReply : encode .gatherReply = none := (rfl)
theorem encode_taskDispatch : encode .taskDispatch = none := (rfl)
theorem encode_footprintComplete : encode .footprintComplete = none := (rfl)
theorem encode_pintoExpiry : encode .pintoExpiry = none := (rfl)
theorem encode_pageGroupResponse : encode .pageGroupResponse = none := (rfl)
theorem encode_atsInvalidationRequest : encode .atsInvalidationRequest = none := (rfl)
theorem encode_translationCompletion : encode .translationCompletion = none := (rfl)
theorem encode_shootdownDrop : encode .shootdownDrop = none := (rfl)
theorem encode_shootdownUnmap : encode .shootdownUnmap = none := (rfl)
theorem encode_shootdownMove : encode .shootdownMove = none := (rfl)
theorem encode_migrationTrigger : encode .migrationTrigger = none := (rfl)
theorem encode_settledExpiry : encode .settledExpiry = none := (rfl)
theorem encode_helperReturnMessage : encode .helperReturnMessage = none := (rfl)
theorem encode_directoryRequest : encode .directoryRequest = none := (rfl)
theorem encode_directoryMerge : encode .directoryMerge = none := (rfl)
theorem encode_arrayWake : encode .arrayWake = none := (rfl)
theorem encode_hostAccess : encode .hostAccess = none := (rfl)
theorem encode_eventDelivery : encode .eventDelivery = none := (rfl)
theorem encode_messageDelivery : encode .messageDelivery = none := (rfl)
theorem encode_handlerStart : encode .handlerStart = none := (rfl)
theorem encode_tretActionArrival : encode .tretActionArrival = none := (rfl)
theorem encode_monitorWake : encode .monitorWake = none := (rfl)
theorem encode_syscReply : encode .syscReply = none := (rfl)
theorem encode_waittExpiry : encode .waittExpiry = none := (rfl)
theorem encode_formulaTaskPlacement : encode .formulaTaskPlacement = none := (rfl)
theorem encode_formulaTaskEnd : encode .formulaTaskEnd = none := (rfl)
theorem encode_waveFlip : encode .waveFlip = none := (rfl)
theorem encode_waveAbort : encode .waveAbort = none := (rfl)
theorem encode_signatureCheck : encode .signatureCheck = none := (rfl)
theorem encode_rollback : encode .rollback = none := (rfl)
theorem encode_inFieldTest : encode .inFieldTest = none := (rfl)
theorem encode_fatalError : encode .fatalError = none := (rfl)
theorem encode_watchdogTakeover : encode .watchdogTakeover = none := (rfl)
theorem encode_liveUpdate : encode .liveUpdate = none := (rfl)
theorem encode_powerStateWrite : encode .powerStateWrite = none := (rfl)
theorem encode_capWindow : encode .capWindow = none := (rfl)
theorem encode_thermalTrip : encode .thermalTrip = none := (rfl)
theorem encode_energySample : encode .energySample = none := (rfl)
theorem encode_energyCheckpoint : encode .energyCheckpoint = none := (rfl)
theorem encode_signedReading : encode .signedReading = none := (rfl)
theorem encode_attestationReport : encode .attestationReport = none := (rfl)
theorem encode_partitionOwnerWrite : encode .partitionOwnerWrite = none := (rfl)
theorem encode_partitionClusterWrite : encode .partitionClusterWrite = none := (rfl)
theorem encode_deviceReset : encode .deviceReset = none := (rfl)
theorem encode_fetchFault : encode .fetchFault = none := (rfl)
theorem encode_failedSubChannelMark : encode .failedSubChannelMark = none := (rfl)
theorem encode_tbaseDiscipline : encode .tbaseDiscipline = none := (rfl)

/-! The field rule of each constructor. -/

theorem legal_nop (f : FQ) : legal (.nop f) = (legalNop f) := (rfl)
theorem legal_add (f : FQ) : legal (.add f) = (legalAdd f) := (rfl)
theorem legal_sub (f : FQ) : legal (.sub f) = (legalAdd f) := (rfl)
theorem legal_addi (f : FI) : legal (.addi f) = (legalAddi f) := (rfl)
theorem legal_mul (f : FQ) : legal (.mul f) = (legalAdd f) := (rfl)
theorem legal_mulh (f : FQ) : legal (.mulh f) = (legalMulh f) := (rfl)
theorem legal_mulhu (f : FQ) : legal (.mulhu f) = (legalMulh f) := (rfl)
theorem legal_div (f : FQ) : legal (.div f) = (legalMulh f) := (rfl)
theorem legal_divu (f : FQ) : legal (.divu f) = (legalMulh f) := (rfl)
theorem legal_rem (f : FQ) : legal (.rem f) = (legalMulh f) := (rfl)
theorem legal_remu (f : FQ) : legal (.remu f) = (legalMulh f) := (rfl)
theorem legal_and (f : FQ) : legal (.and f) = (legalMulh f) := (rfl)
theorem legal_or (f : FQ) : legal (.or f) = (legalMulh f) := (rfl)
theorem legal_xor (f : FQ) : legal (.xor f) = (legalMulh f) := (rfl)
theorem legal_andn (f : FQ) : legal (.andn f) = (legalMulh f) := (rfl)
theorem legal_andi (f : FI) : legal (.andi f) = (legalAndi f) := (rfl)
theorem legal_ori (f : FI) : legal (.ori f) = (legalAndi f) := (rfl)
theorem legal_xori (f : FI) : legal (.xori f) = (legalAndi f) := (rfl)
theorem legal_shl (f : FQ) : legal (.shl f) = (legalMulh f) := (rfl)
theorem legal_shr (f : FQ) : legal (.shr f) = (legalMulh f) := (rfl)
theorem legal_sra (f : FQ) : legal (.sra f) = (legalMulh f) := (rfl)
theorem legal_shli (f : FI) : legal (.shli f) = (legalShli f) := (rfl)
theorem legal_shri (f : FI) : legal (.shri f) = (legalShli f) := (rfl)
theorem legal_srai (f : FI) : legal (.srai f) = (legalShli f) := (rfl)
theorem legal_rol (f : FQ) : legal (.rol f) = (legalMulh f) := (rfl)
theorem legal_roli (f : FI) : legal (.roli f) = (legalShli f) := (rfl)
theorem legal_clz (f : FQ) : legal (.clz f) = (legalClz f) := (rfl)
theorem legal_ctz (f : FQ) : legal (.ctz f) = (legalClz f) := (rfl)
theorem legal_popc (f : FQ) : legal (.popc f) = (legalClz f) := (rfl)
theorem legal_min (f : FQ) : legal (.min f) = (legalMulh f) := (rfl)
theorem legal_max (f : FQ) : legal (.max f) = (legalMulh f) := (rfl)
theorem legal_minu (f : FQ) : legal (.minu f) = (legalMulh f) := (rfl)
theorem legal_maxu (f : FQ) : legal (.maxu f) = (legalMulh f) := (rfl)
theorem legal_sext (f : FI) : legal (.sext f) = (legalShli f) := (rfl)
theorem legal_zext (f : FI) : legal (.zext f) = (legalShli f) := (rfl)
theorem legal_bfx (f : FI) : legal (.bfx f) = (f.var == 0 && legalBfx f) := (rfl)
theorem legal_bfxSx (f : FI) : legal (.bfxSx f) = (f.var == 1 && legalBfx f) := (rfl)
theorem legal_bfi (f : FI) : legal (.bfi f) = (legalBfi f) := (rfl)
theorem legal_sel (f : FQ) : legal (.sel f) = (legalSel f) := (rfl)
theorem legal_cmp (f : FQ) : legal (.cmp f) = (legalCmp f) := (rfl)
theorem legal_cmpi (f : FI) : legal (.cmpi f) = (legalCmpi f) := (rfl)
theorem legal_li (f : FI) : legal (.li f) = (legalLi f) := (rfl)
theorem legal_lih (f : FI) : legal (.lih f) = (legalLi f) := (rfl)
theorem legal_mov (f : FQ) : legal (.mov f) = (legalMov f) := (rfl)
theorem legal_aadd (f : FQ) : legal (.aadd f) = (legalAadd f) := (rfl)
theorem legal_aaddi (f : FI) : legal (.aaddi f) = (legalAaddi f) := (rfl)
theorem legal_mfc (f : FI) : legal (.mfc f) = (legalMfc f) := (rfl)
theorem legal_mtc (f : FI) : legal (.mtc f) = (legalMtc f) := (rfl)
theorem legal_pand (f : FQ) : legal (.pand f) = (legalPand f) := (rfl)
theorem legal_por (f : FQ) : legal (.por f) = (legalPand f) := (rfl)
theorem legal_pxor (f : FQ) : legal (.pxor f) = (legalPand f) := (rfl)
theorem legal_pnot (f : FQ) : legal (.pnot f) = (legalPnot f) := (rfl)
theorem legal_br (f : FB) : legal (.br f) = (legalBr f) := (rfl)
theorem legal_j (f : FB) : legal (.j f) = (legalJ f) := (rfl)
theorem legal_jr (f : FQ) : legal (.jr f) = (legalJr f) := (rfl)
theorem legal_loop (f : FB) : legal (.loop f) = (legalLoop f) := (rfl)
theorem legal_trap (f : FI) : legal (.trap f) = (legalTrap f) := (rfl)
theorem legal_chk (f : FI) : legal (.chk f) = (legalChk f) := (rfl)
theorem legal_sysc (f : FI) : legal (.sysc f) = (legalSysc f) := (rfl)
theorem legal_tret (f : FI) : legal (.tret f) = (legalTret f) := (rfl)
theorem legal_halt (f : FI) : legal (.halt f) = (legalSysc f) := (rfl)
theorem legal_fenceI (f : FI) : legal (.fenceI f) = (legalFencei f) := (rfl)
theorem legal_yield (f : FI) : legal (.yield f) = (legalSysc f) := (rfl)
theorem legal_vadd (f : FV) : legal (.vadd f) = (legalVadd f) := (rfl)
theorem legal_vsub (f : FV) : legal (.vsub f) = (legalVadd f) := (rfl)
theorem legal_vmul (f : FV) : legal (.vmul f) = (legalVadd f) := (rfl)
theorem legal_vfma (f : FV) : legal (.vfma f) = (legalVfma f) := (rfl)
theorem legal_vfms (f : FV) : legal (.vfms f) = (legalVfma f) := (rfl)
theorem legal_vdiv (f : FV) : legal (.vdiv f) = (legalVadd f) := (rfl)
theorem legal_vsqrt (f : FV) : legal (.vsqrt f) = (legalVsqrt f) := (rfl)
theorem legal_vrcpe (f : FV) : legal (.vrcpe f) = (legalVsqrt f) := (rfl)
theorem legal_vrsqe (f : FV) : legal (.vrsqe f) = (legalVsqrt f) := (rfl)
theorem legal_vexp2 (f : FV) : legal (.vexp2 f) = (legalVsqrt f) := (rfl)
theorem legal_vlog2 (f : FV) : legal (.vlog2 f) = (legalVsqrt f) := (rfl)
theorem legal_vmin (f : FV) : legal (.vmin f) = (legalVmin f) := (rfl)
theorem legal_vmax (f : FV) : legal (.vmax f) = (legalVmin f) := (rfl)
theorem legal_vabs (f : FV) : legal (.vabs f) = (legalVabs f) := (rfl)
theorem legal_vneg (f : FV) : legal (.vneg f) = (legalVabs f) := (rfl)
theorem legal_vcmp (f : FV) : legal (.vcmp f) = (legalVcmp f) := (rfl)
theorem legal_vsel (f : FV) : legal (.vsel f) = (legalVsel f) := (rfl)
theorem legal_vcvt (f : FV) : legal (.vcvt f) = (legalVcvt f) := (rfl)
theorem legal_viadd (f : FV) : legal (.viadd f) = (legalViadd f) := (rfl)
theorem legal_visub (f : FV) : legal (.visub f) = (legalViadd f) := (rfl)
theorem legal_vimul (f : FV) : legal (.vimul f) = (legalViadd f) := (rfl)
theorem legal_vimad (f : FV) : legal (.vimad f) = (legalVimad f) := (rfl)
theorem legal_vimin (f : FV) : legal (.vimin f) = (legalVimin f) := (rfl)
theorem legal_vimax (f : FV) : legal (.vimax f) = (legalVimin f) := (rfl)
theorem legal_vand (f : FV) : legal (.vand f) = (legalVand f) := (rfl)
theorem legal_vor (f : FV) : legal (.vor f) = (legalVand f) := (rfl)
theorem legal_vxor (f : FV) : legal (.vxor f) = (legalVand f) := (rfl)
theorem legal_vshl (f : FV) : legal (.vshl f) = (legalVimin f) := (rfl)
theorem legal_vshr (f : FV) : legal (.vshr f) = (legalVimin f) := (rfl)
theorem legal_vsra (f : FV) : legal (.vsra f) = (legalVsra f) := (rfl)
theorem legal_vclass (f : FV) : legal (.vclass f) = (legalVclass f) := (rfl)
theorem legal_vmovv (f : FV) : legal (.vmovv f) = (legalVmovv f) := (rfl)
theorem legal_vrsum (f : FV) : legal (.vrsum f) = (legalVrsum f) := (rfl)
theorem legal_vrmax (f : FV) : legal (.vrmax f) = (legalVrsum f) := (rfl)
theorem legal_vrmin (f : FV) : legal (.vrmin f) = (legalVrsum f) := (rfl)
theorem legal_vscan (f : FV) : legal (.vscan f) = (legalVscan f) := (rfl)
theorem legal_vbcast (f : FV) : legal (.vbcast f) = (legalVbcast f) := (rfl)
theorem legal_vperm (f : FV) : legal (.vperm f) = (legalVand f) := (rfl)
theorem legal_vslide (f : FV) : legal (.vslide f) = (legalVbcast f) := (rfl)
theorem legal_vcomp (f : FV) : legal (.vcomp f) = (legalVcomp f) := (rfl)
theorem legal_vexpd (f : FV) : legal (.vexpd f) = (legalVcomp f) := (rfl)
theorem legal_viota (f : FV) : legal (.viota f) = (legalViota f) := (rfl)
theorem legal_vgetl (f : FV) : legal (.vgetl f) = (legalVgetl f) := (rfl)
theorem legal_vsetl (f : FV) : legal (.vsetl f) = (legalVsetl f) := (rfl)
theorem legal_kpopc (f : FV) : legal (.kpopc f) = (legalKpopc f) := (rfl)
theorem legal_kfirst (f : FV) : legal (.kfirst f) = (legalKpopc f) := (rfl)
theorem legal_kand (f : FV) : legal (.kand f) = (legalKand f) := (rfl)
theorem legal_kor (f : FV) : legal (.kor f) = (legalKand f) := (rfl)
theorem legal_kxor (f : FV) : legal (.kxor f) = (legalKand f) := (rfl)
theorem legal_knot (f : FV) : legal (.knot f) = (legalKnot f) := (rfl)
theorem legal_kmov (f : FV) : legal (.kmov f) = (legalKmov f) := (rfl)
theorem legal_vnsend (f : FV) : legal (.vnsend f) = (legalVnsend f) := (rfl)
theorem legal_vnrecv (f : FV) : legal (.vnrecv f) = (legalVnrecv f) := (rfl)
theorem legal_vlmul (f : FV) : legal (.vlmul f) = (legalVlmul f) := (rfl)
theorem legal_vlsum (f : FV) : legal (.vlsum f) = (legalVlsum f) := (rfl)
theorem legal_vlpack (f : FV) : legal (.vlpack f) = (legalVlpack f) := (rfl)
theorem legal_vlunpk (f : FV) : legal (.vlunpk f) = (legalVlpack f) := (rfl)
theorem legal_ld (f : FM) : legal (.ld f) = (legalLd f) := (rfl)
theorem legal_st (f : FM) : legal (.st f) = (legalSt f) := (rfl)
theorem legal_ldv (f : FM) : legal (.ldv f) = (legalLdv f) := (rfl)
theorem legal_stv (f : FM) : legal (.stv f) = (legalStv f) := (rfl)
theorem legal_ldvs (f : FM) : legal (.ldvs f) = (legalLdvs f) := (rfl)
theorem legal_stvs (f : FM) : legal (.stvs f) = (legalStvs f) := (rfl)
theorem legal_ldvx (f : FM) : legal (.ldvx f) = (legalLdvx f) := (rfl)
theorem legal_stvx (f : FM) : legal (.stvx f) = (legalStvx f) := (rfl)
theorem legal_ldk (f : FM) : legal (.ldk f) = (legalLdk f) := (rfl)
theorem legal_stk (f : FM) : legal (.stk f) = (legalStk f) := (rfl)
theorem legal_lda (f : FM) : legal (.lda f) = (legalLda f) := (rfl)
theorem legal_strl (f : FM) : legal (.strl f) = (legalStrl f) := (rfl)
theorem legal_pref (f : FM) : legal (.pref f) = (legalPref f) := (rfl)
theorem legal_amoadd (f : FM) : legal (.amoadd f) = (legalAmoadd f) := (rfl)
theorem legal_amomin (f : FM) : legal (.amomin f) = (legalAmoadd f) := (rfl)
theorem legal_amomax (f : FM) : legal (.amomax f) = (legalAmoadd f) := (rfl)
theorem legal_amominu (f : FM) : legal (.amominu f) = (legalAmoadd f) := (rfl)
theorem legal_amomaxu (f : FM) : legal (.amomaxu f) = (legalAmoadd f) := (rfl)
theorem legal_amoand (f : FM) : legal (.amoand f) = (legalAmoadd f) := (rfl)
theorem legal_amoor (f : FM) : legal (.amoor f) = (legalAmoadd f) := (rfl)
theorem legal_amoxor (f : FM) : legal (.amoxor f) = (legalAmoadd f) := (rfl)
theorem legal_amoswp (f : FM) : legal (.amoswp f) = (legalAmoadd f) := (rfl)
theorem legal_amocas (f : FM) : legal (.amocas f) = (legalAmoadd f) := (rfl)
theorem legal_amofadd (f : FM) : legal (.amofadd f) = (legalAmofadd f) := (rfl)
theorem legal_fence (f : FI) : legal (.fence f) = (f.var == 0 && legalFence f) := (rfl)
theorem legal_fenceSs (f : FI) : legal (.fenceSs f) = (f.var == 1 && legalFence f) := (rfl)
theorem legal_fenceLl (f : FI) : legal (.fenceLl f) = (f.var == 2 && legalFence f) := (rfl)
theorem legal_fenceS (f : FI) : legal (.fenceS f) = (legalFencei f) := (rfl)
theorem legal_cmoClean (f : FM) : legal (.cmoClean f) = (f.var == 0 && legalCmo f) := (rfl)
theorem legal_cmoInval (f : FM) : legal (.cmoInval f) = (f.var == 1 && legalCmo f) := (rfl)
theorem legal_cmoFlush (f : FM) : legal (.cmoFlush f) = (f.var == 2 && legalCmo f) := (rfl)
theorem legal_cmoZero (f : FM) : legal (.cmoZero f) = (f.var == 3 && legalCmo f) := (rfl)
theorem legal_waitm (f : FM) : legal (.waitm f) = (f.var == 0 && legalWaitm f) := (rfl)
theorem legal_waitmCmp (f : FM) : legal (.waitmCmp f) = (f.var == 1 && legalWaitm f) := (rfl)
theorem legal_ldsec (f : FM) : legal (.ldsec f) = (legalLdsec f) := (rfl)
theorem legal_stsec (f : FM) : legal (.stsec f) = (legalStsec f) := (rfl)
theorem legal_tset (f : FI) : legal (.tset f) = (legalTset f) := (rfl)
theorem legal_tget (f : FI) : legal (.tget f) = (legalTget f) := (rfl)
theorem legal_tld (f : FM) : legal (.tld f) = (legalTld f) := (rfl)
theorem legal_tst (f : FM) : legal (.tst f) = (legalTst f) := (rfl)
theorem legal_tzero (f : FT) : legal (.tzero f) = (legalTzero f) := (rfl)
theorem legal_tmov (f : FT) : legal (.tmov f) = (legalTmov f) := (rfl)
theorem legal_gissue (f : FE) : legal (.gissue f) = (legalGissue f) := (rfl)
theorem legal_tmma (f : FT) : legal (.tmma f) = (legalTmma f) := (rfl)
theorem legal_tmmal (f : FT) : legal (.tmmal f) = (legalTmmal f) := (rfl)
theorem legal_tscale (f : FT) : legal (.tscale f) = (legalTscale f) := (rfl)
theorem legal_tadd (f : FT) : legal (.tadd f) = (legalTadd f) := (rfl)
theorem legal_tmul (f : FT) : legal (.tmul f) = (legalTadd f) := (rfl)
theorem legal_tcvt (f : FT) : legal (.tcvt f) = (legalTcvt f) := (rfl)
theorem legal_ttrans (f : FT) : legal (.ttrans f) = (legalTtrans f) := (rfl)
theorem legal_trsum (f : FT) : legal (.trsum f) = (legalTrsum f) := (rfl)
theorem legal_trmax (f : FT) : legal (.trmax f) = (legalTrsum f) := (rfl)
theorem legal_tv2t (f : FT) : legal (.tv2t f) = (legalTv2t f) := (rfl)
theorem legal_tt2v (f : FT) : legal (.tt2v f) = (legalTt2v f) := (rfl)
theorem legal_tbcst (f : FT) : legal (.tbcst f) = (legalTbcst f) := (rfl)
theorem legal_tstat (f : FI) : legal (.tstat f) = (legalTstat f) := (rfl)
theorem legal_hstart (f : FE) : legal (.hstart f) = (legalHstart f) := (rfl)
theorem legal_hend (f : FE) : legal (.hend f) = (legalGissue f) := (rfl)
theorem legal_hjoin (f : FE) : legal (.hjoin f) = (legalHjoin f) := (rfl)
theorem legal_hstat (f : FE) : legal (.hstat f) = (legalHstat f) := (rfl)
theorem legal_gdetach (f : FE) : legal (.gdetach f) = (f.var == 0 && legalGdetach f) := (rfl)
theorem legal_gdetachJoin (f : FE) : legal (.gdetachJoin f) = (f.var == 1 && legalGdetach f) := (rfl)
theorem legal_gattach (f : FE) : legal (.gattach f) = (legalGattach f) := (rfl)
theorem legal_gmerge (f : FE) : legal (.gmerge f) = (legalGmerge f) := (rfl)
theorem legal_barw (f : FE) : legal (.barw f) = (legalBarw f) := (rfl)
theorem legal_bara (f : FE) : legal (.bara f) = (legalBarw f) := (rfl)
theorem legal_barq (f : FE) : legal (.barq f) = (f.var == 0 && legalBarq f) := (rfl)
theorem legal_barqTest (f : FE) : legal (.barqTest f) = (f.var == 1 && legalBarq f) := (rfl)
theorem legal_xph (f : FE) : legal (.xph f) = (legalGmerge f) := (rfl)
theorem legal_xsend (f : FE) : legal (.xsend f) = (legalXsend f) := (rfl)
theorem legal_xmux (f : FE) : legal (.xmux f) = (legalXmux f) := (rfl)
theorem legal_xend (f : FE) : legal (.xend f) = (legalGissue f) := (rfl)
theorem legal_cpy (f : FE) : legal (.cpy f) = (legalCpy f) := (rfl)
theorem legal_cpyn (f : FE) : legal (.cpyn f) = (legalCpyn f) := (rfl)
theorem legal_cpyc (f : FE) : legal (.cpyc f) = (legalCpyc f) := (rfl)
theorem legal_cpyr (f : FE) : legal (.cpyr f) = (legalCpyc f) := (rfl)
theorem legal_cpycmb (f : FE) : legal (.cpycmb f) = (legalCpycmb f) := (rfl)
theorem legal_wmset (f : FE) : legal (.wmset f) = (legalWmset f) := (rfl)
theorem legal_wmclr (f : FE) : legal (.wmclr f) = (legalWmclr f) := (rfl)
theorem legal_wmrd (f : FE) : legal (.wmrd f) = (f.var == 0 && legalWmrd f) := (rfl)
theorem legal_wmrdAddr (f : FE) : legal (.wmrdAddr f) = (f.var == 1 && legalWmrd f) := (rfl)
theorem legal_crwait (f : FE) : legal (.crwait f) = (legalCrwait f) := (rfl)
theorem legal_crpop (f : FE) : legal (.crpop f) = (legalCrpop f) := (rfl)
theorem legal_cbinit (f : FE) : legal (.cbinit f) = (legalCbinit f) := (rfl)
theorem legal_cbacqRd (f : FE) : legal (.cbacqRd f) = (f.var == 0 && legalCbacq f) := (rfl)
theorem legal_cbacqWr (f : FE) : legal (.cbacqWr f) = (f.var == 1 && legalCbacq f) := (rfl)
theorem legal_cbrelRd (f : FE) : legal (.cbrelRd f) = (f.var == 0 && legalCbrel f) := (rfl)
theorem legal_cbrelWr (f : FE) : legal (.cbrelWr f) = (f.var == 1 && legalCbrel f) := (rfl)
theorem legal_gather (f : FE) : legal (.gather f) = (legalGather f) := (rfl)
theorem legal_evset (f : FE) : legal (.evset f) = (legalEvset f) := (rfl)
theorem legal_evclr (f : FE) : legal (.evclr f) = (legalEvset f) := (rfl)
theorem legal_evwaitAny (f : FE) : legal (.evwaitAny f) = (f.var == 0 && legalEvwait f) := (rfl)
theorem legal_evwaitAll (f : FE) : legal (.evwaitAll f) = (f.var == 1 && legalEvwait f) := (rfl)
theorem legal_mpost (f : FE) : legal (.mpost f) = (legalMpost f) := (rfl)
theorem legal_mrecv (f : FE) : legal (.mrecv f) = (f.var == 0 && legalMrecv f) := (rfl)
theorem legal_mrecvTest (f : FE) : legal (.mrecvTest f) = (f.var == 1 && legalMrecv f) := (rfl)
theorem legal_waitt (f : FE) : legal (.waitt f) = (f.var == 0 && legalWaitt f) := (rfl)
theorem legal_waittAbs (f : FE) : legal (.waittAbs f) = (f.var == 1 && legalWaitt f) := (rfl)
theorem legal_tqput (f : FE) : legal (.tqput f) = (legalCrwait f) := (rfl)
theorem legal_hodq (f : FE) : legal (.hodq f) = (legalHodq f) := (rfl)
theorem legal_hodr (f : FE) : legal (.hodr f) = (f.var == 0 && legalMrecv f) := (rfl)
theorem legal_hodrTest (f : FE) : legal (.hodrTest f) = (f.var == 1 && legalMrecv f) := (rfl)
theorem legal_cellDef (f : FE) : legal (.cellDef f) = (legalHodq f) := (rfl)
theorem legal_cellBind (f : FE) : legal (.cellBind f) = (legalCellbind f) := (rfl)
theorem legal_cellPut (f : FE) : legal (.cellPut f) = (legalCellbind f) := (rfl)
theorem legal_cellGet (f : FE) : legal (.cellGet f) = (legalCellget f) := (rfl)
theorem legal_cellCommit (f : FE) : legal (.cellCommit f) = (legalCellcommit f) := (rfl)
theorem legal_cellState (f : FE) : legal (.cellState f) = (f.var == 0 && legalCellstate f) := (rfl)
theorem legal_cellStateFlip (f : FE) : legal (.cellStateFlip f) = (f.var == 1 && legalCellstate f) := (rfl)
theorem legal_cellStateAbort (f : FE) : legal (.cellStateAbort f) = (f.var == 2 && legalCellstate f) := (rfl)
theorem legal_cellDrop (f : FE) : legal (.cellDrop f) = (legalCelldrop f) := (rfl)
theorem legal_registerWrite : legal .registerWrite = false := (rfl)
theorem legal_queueDoorbell : legal .queueDoorbell = false := (rfl)
theorem legal_queueEnable : legal .queueEnable = false := (rfl)
theorem legal_dispatch : legal .dispatch = false := (rfl)
theorem legal_cmoRangeClean : legal .cmoRangeClean = false := (rfl)
theorem legal_cmoRangeInval : legal .cmoRangeInval = false := (rfl)
theorem legal_cmoRangeFlush : legal .cmoRangeFlush = false := (rfl)
theorem legal_cmoRangeAttr : legal .cmoRangeAttr = false := (rfl)
theorem legal_eventSet : legal .eventSet = false := (rfl)
theorem legal_eventWait : legal .eventWait = false := (rfl)
theorem legal_indirect : legal .indirect = false := (rfl)
theorem legal_timestamp : legal .timestamp = false := (rfl)
theorem legal_cellWave : legal .cellWave = false := (rfl)
theorem legal_power : legal .power = false := (rfl)
theorem legal_launchPlacement : legal .launchPlacement = false := (rfl)
theorem legal_startTimeReached : legal .startTimeReached = false := (rfl)
theorem legal_gangEnd : legal .gangEnd = false := (rfl)
theorem legal_preemptionRequest : legal .preemptionRequest = false := (rfl)
theorem legal_drainExpiry : legal .drainExpiry = false := (rfl)
theorem legal_saveComplete : legal .saveComplete = false := (rfl)
theorem legal_gangRestore : legal .gangRestore = false := (rfl)
theorem legal_longWaitSwap : legal .longWaitSwap = false := (rfl)
theorem legal_resumeIntervalExpiry : legal .resumeIntervalExpiry = false := (rfl)
theorem legal_swapWake : legal .swapWake = false := (rfl)
theorem legal_btoExpiry : legal .btoExpiry = false := (rfl)
theorem legal_barrierCompletion : legal .barrierCompletion = false := (rfl)
theorem legal_joinCompletion : legal .joinCompletion = false := (rfl)
theorem legal_sequencerStep : legal .sequencerStep = false := (rfl)
theorem legal_streamConditionReport : legal .streamConditionReport = false := (rfl)
theorem legal_memoryReply : legal .memoryReply = false := (rfl)
theorem legal_channelArrival : legal .channelArrival = false := (rfl)
theorem legal_xmuxCapture : legal .xmuxCapture = false := (rfl)
theorem legal_xcollideSense : legal .xcollideSense = false := (rfl)
theorem legal_holdRaise : legal .holdRaise = false := (rfl)
theorem legal_holdRelease : legal .holdRelease = false := (rfl)
theorem legal_throttleChange : legal .throttleChange = false := (rfl)
theorem legal_throttleLimitExpiry : legal .throttleLimitExpiry = false := (rfl)
theorem legal_copyLanding : legal .copyLanding = false := (rfl)
theorem legal_copyComplete : legal .copyComplete = false := (rfl)
theorem legal_copyFault : legal .copyFault = false := (rfl)
theorem legal_combinePacketArrival : legal .combinePacketArrival = false := (rfl)
theorem legal_combineEntryTimeout : legal .combineEntryTimeout = false := (rfl)
theorem legal_gatherReply : legal .gatherReply = false := (rfl)
theorem legal_taskDispatch : legal .taskDispatch = false := (rfl)
theorem legal_footprintComplete : legal .footprintComplete = false := (rfl)
theorem legal_pintoExpiry : legal .pintoExpiry = false := (rfl)
theorem legal_pageGroupResponse : legal .pageGroupResponse = false := (rfl)
theorem legal_atsInvalidationRequest : legal .atsInvalidationRequest = false := (rfl)
theorem legal_translationCompletion : legal .translationCompletion = false := (rfl)
theorem legal_shootdownDrop : legal .shootdownDrop = false := (rfl)
theorem legal_shootdownUnmap : legal .shootdownUnmap = false := (rfl)
theorem legal_shootdownMove : legal .shootdownMove = false := (rfl)
theorem legal_migrationTrigger : legal .migrationTrigger = false := (rfl)
theorem legal_settledExpiry : legal .settledExpiry = false := (rfl)
theorem legal_helperReturnMessage : legal .helperReturnMessage = false := (rfl)
theorem legal_directoryRequest : legal .directoryRequest = false := (rfl)
theorem legal_directoryMerge : legal .directoryMerge = false := (rfl)
theorem legal_arrayWake : legal .arrayWake = false := (rfl)
theorem legal_hostAccess : legal .hostAccess = false := (rfl)
theorem legal_eventDelivery : legal .eventDelivery = false := (rfl)
theorem legal_messageDelivery : legal .messageDelivery = false := (rfl)
theorem legal_handlerStart : legal .handlerStart = false := (rfl)
theorem legal_tretActionArrival : legal .tretActionArrival = false := (rfl)
theorem legal_monitorWake : legal .monitorWake = false := (rfl)
theorem legal_syscReply : legal .syscReply = false := (rfl)
theorem legal_waittExpiry : legal .waittExpiry = false := (rfl)
theorem legal_formulaTaskPlacement : legal .formulaTaskPlacement = false := (rfl)
theorem legal_formulaTaskEnd : legal .formulaTaskEnd = false := (rfl)
theorem legal_waveFlip : legal .waveFlip = false := (rfl)
theorem legal_waveAbort : legal .waveAbort = false := (rfl)
theorem legal_signatureCheck : legal .signatureCheck = false := (rfl)
theorem legal_rollback : legal .rollback = false := (rfl)
theorem legal_inFieldTest : legal .inFieldTest = false := (rfl)
theorem legal_fatalError : legal .fatalError = false := (rfl)
theorem legal_watchdogTakeover : legal .watchdogTakeover = false := (rfl)
theorem legal_liveUpdate : legal .liveUpdate = false := (rfl)
theorem legal_powerStateWrite : legal .powerStateWrite = false := (rfl)
theorem legal_capWindow : legal .capWindow = false := (rfl)
theorem legal_thermalTrip : legal .thermalTrip = false := (rfl)
theorem legal_energySample : legal .energySample = false := (rfl)
theorem legal_energyCheckpoint : legal .energyCheckpoint = false := (rfl)
theorem legal_signedReading : legal .signedReading = false := (rfl)
theorem legal_attestationReport : legal .attestationReport = false := (rfl)
theorem legal_partitionOwnerWrite : legal .partitionOwnerWrite = false := (rfl)
theorem legal_partitionClusterWrite : legal .partitionClusterWrite = false := (rfl)
theorem legal_deviceReset : legal .deviceReset = false := (rfl)
theorem legal_fetchFault : legal .fetchFault = false := (rfl)
theorem legal_failedSubChannelMark : legal .failedSubChannelMark = false := (rfl)
theorem legal_tbaseDiscipline : legal .tbaseDiscipline = false := (rfl)

end Sys2Proof
end

