-- ==== Sys2Proof/Laws/Memory.lean ====
section
/-! SUPPORT. Laws of the sparse tables and of memory: what a read finds after a write, and that every operation keeps
the canonical form (log 6). -/

namespace Sys2Proof.Machine

/-! Tables. -/

@[simp] theorem Table.find_nil {α : Type} (n : Nat) : Table.find ([] : Table α) n = none := rfl

/-- The entry that has been set is found. -/
@[simp] theorem Table.find_set_same {α : Type} (m : Table α) (n : Nat) (x : α) :
    Table.find (Table.set m n x) n = some x := by
  induction m with
  | nil => simp [Table.set, Table.find]
  | cons e m ih =>
    obtain ⟨k, y⟩ := e
    simp only [Table.set]
    split
    · simp [Table.find]
    · split
      · simp [Table.find]
      · simp [Table.find, *]

/-- The other entries stay. -/
theorem Table.find_set_ne {α : Type} (m : Table α) {n k : Nat} (x : α) (h : k ≠ n) :
    Table.find (Table.set m n x) k = Table.find m k := by
  induction m with
  | nil => simp [Table.set, Table.find, Ne.symm h]
  | cons e m ih =>
    obtain ⟨j, y⟩ := e
    simp only [Table.set]
    split
    · simp [Table.find, Ne.symm h]
    · split
      · subst_vars
        simp [Table.find, Ne.symm h]
      · simp [Table.find, ih]

/-- Setting an entry twice is setting it once. -/
@[simp] theorem Table.set_set {α : Type} (m : Table α) (n : Nat) (x y : α) :
    Table.set (Table.set m n x) n y = Table.set m n y := by
  induction m with
  | nil => simp [Table.set]
  | cons e m ih =>
    obtain ⟨k, z⟩ := e
    by_cases h1 : n < k
    · simp [Table.set, h1]
    · by_cases h2 : k = n
      · subst h2; simp [Table.set]
      · simp [Table.set, h1, h2, ih]

/-! One byte of memory. -/

@[simp] theorem Memory.read_nil (a : Nat) : Memory.read [] a = Memory.unlisted := rfl

/-- A location below every listed one reads as unlisted. -/
theorem Memory.read_of_lt (m : Memory) (a : Nat) (h : ∀ c ∈ m, a < c.1) : m.read a = Memory.unlisted := by
  induction m with
  | nil => rfl
  | cons c m ih =>
    obtain ⟨k, x⟩ := c
    have hk : a < k := h (k, x) (by simp)
    simp only [Memory.read]
    rw [if_neg (by omega)]
    exact ih (fun c hc => h c (by simp [hc]))

/-- The canonical form of a memory with a first cell. -/
theorem Memory.wf_cons (k : Nat) (x : Byte) (m : Memory) :
    Memory.wf ((k, x) :: m) = true ↔ (∀ c ∈ m, k < c.1) ∧ x ≠ Memory.unlisted ∧ Memory.wf m = true := by
  simp only [Memory.wf, Bool.and_eq_true, decide_eq_true_eq, List.pairwise_cons, List.all_cons, bne_iff_ne]
  tauto

/-- A read of the location just written gives the byte written. -/
theorem Memory.read_write_same (m : Memory) (a : Nat) (b : Byte) (h : Memory.wf m = true) :
    (m.write a b).read a = b := by
  induction m with
  | nil => by_cases hb : b = 0#8 <;> simp [Memory.write, Memory.read, hb]
  | cons c m ih =>
    obtain ⟨k, x⟩ := c
    obtain ⟨h1, h2, h3⟩ := (Memory.wf_cons k x m).1 h
    simp only [Memory.write]
    split
    · rename_i hk
      split
      · rename_i hb
        subst hb
        apply Memory.read_of_lt
        intro c hc
        rcases List.mem_cons.1 hc with rfl | hc
        · exact hk
        · exact lt_trans hk (h1 c hc)
      · simp [Memory.read]
    · split
      · rename_i hk
        subst hk
        split
        · rename_i hb
          subst hb
          exact Memory.read_of_lt _ _ h1
        · simp [Memory.read]
      · rename_i hk
        simp [Memory.read, hk, ih h3]

/-- A write leaves every other location alone. -/
theorem Memory.read_write_ne (m : Memory) {a k : Nat} (b : Byte) (h : k ≠ a) : (m.write a b).read k = m.read k := by
  induction m with
  | nil => by_cases hb : b = 0#8 <;> simp [Memory.write, Memory.read, hb, Ne.symm h]
  | cons c m ih =>
    obtain ⟨j, x⟩ := c
    simp only [Memory.write]
    split
    · split <;> simp [Memory.read, Ne.symm h]
    · split
      · subst_vars
        split <;> simp [Memory.read, Ne.symm h]
      · simp [Memory.read, ih]

/-- The locations listed after a write: those listed before, and the one written. -/
theorem Memory.mem_write (m : Memory) (a : Nat) (b : Byte) : ∀ c ∈ m.write a b, c ∈ m ∨ c.1 = a := by
  induction m with
  | nil => intro c; by_cases hb : b = 0#8 <;> simp_all [Memory.write]
  | cons e m ih =>
    obtain ⟨k, x⟩ := e
    intro c
    simp only [Memory.write]
    split
    · split
      · exact fun h => .inl h
      · intro h; rcases List.mem_cons.1 h with rfl | h
        · exact .inr rfl
        · exact .inl h
    · split
      · split
        · exact fun h => .inl (List.mem_cons_of_mem _ h)
        · intro h; rcases List.mem_cons.1 h with rfl | h
          · exact .inr rfl
          · exact .inl (List.mem_cons_of_mem _ h)
      · intro h; rcases List.mem_cons.1 h with rfl | h
        · exact .inl (by simp)
        · rcases ih c h with h | h
          · exact .inl (List.mem_cons_of_mem _ h)
          · exact .inr h

/-- A write of one byte keeps the canonical form. -/
theorem Memory.wf_write (m : Memory) (a : Nat) (b : Byte) (h : Memory.wf m = true) : Memory.wf (m.write a b) = true := by
  induction m with
  | nil => by_cases hb : b = 0#8 <;> simp [Memory.write, Memory.wf, hb]
  | cons c m ih =>
    obtain ⟨k, x⟩ := c
    obtain ⟨h1, h2, h3⟩ := (Memory.wf_cons k x m).1 h
    simp only [Memory.write]
    split
    · rename_i hk
      split
      · exact h
      · rename_i hb
        refine (Memory.wf_cons _ _ _).2 ⟨?_, hb, h⟩
        intro c hc
        rcases List.mem_cons.1 hc with rfl | hc
        · exact hk
        · exact lt_trans hk (h1 c hc)
    · split
      · rename_i hk
        subst hk
        split
        · exact h3
        · rename_i hb
          exact (Memory.wf_cons _ _ _).2 ⟨h1, hb, h3⟩
      · rename_i hlt hne
        refine (Memory.wf_cons _ _ _).2 ⟨?_, h2, ih h3⟩
        intro c hc
        rcases Memory.mem_write m a b c hc with hc | hc
        · exact h1 c hc
        · omega

/-! Runs of bytes. -/

/-- A write of a run keeps the canonical form. -/
theorem Memory.wf_writeBytes (bs : List Byte) (m : Memory) (a : Nat) (h : Memory.wf m = true) :
    Memory.wf (m.writeBytes a bs) = true := by
  induction bs generalizing m a with
  | nil => exact h
  | cons b bs ih => exact ih _ _ (Memory.wf_write m a b h)

/-- A write of a run leaves every location outside it alone. -/
theorem Memory.read_writeBytes_ne (bs : List Byte) (m : Memory) (a k : Nat) (h : k < a ∨ a + bs.length ≤ k) :
    (m.writeBytes a bs).read k = m.read k := by
  induction bs generalizing m a with
  | nil => rfl
  | cons b bs ih =>
    simp only [List.length_cons] at h
    rw [Memory.writeBytes, ih _ _ (by omega), Memory.read_write_ne m b (by omega)]

/-- The run just written reads back byte by byte. -/
theorem Memory.read_writeBytes (bs : List Byte) (m : Memory) (a i : Nat) (h : Memory.wf m = true) (hi : i < bs.length) :
    (m.writeBytes a bs).read (a + i) = bs[i] := by
  induction bs generalizing m a i with
  | nil => simp at hi
  | cons b bs ih =>
    rw [Memory.writeBytes]
    cases i with
    | zero =>
      rw [Memory.read_writeBytes_ne bs _ _ _ (by omega)]
      simpa using Memory.read_write_same m a b h
    | succ i =>
      have := ih (m.write a b) (a + 1) i (Memory.wf_write m a b h) (by simpa using hi)
      rw [show a + (i + 1) = a + 1 + i by omega, this]
      simp

/-- A filter keeps the canonical form. -/
theorem Memory.wf_filter (m : Memory) (p : Host.Cell → Bool) (h : Memory.wf m = true) :
    Memory.wf (m.filter p) = true := by
  simp only [Memory.wf, Bool.and_eq_true, decide_eq_true_eq, List.all_eq_true] at h ⊢
  exact ⟨h.1.filter _, fun c hc => h.2 c (List.mem_filter.1 hc).1⟩

/-- Zeroing a run keeps the canonical form. -/
theorem Memory.wf_clear (m : Memory) (lo n : Nat) (h : Memory.wf m = true) : Memory.wf (m.clear lo n) = true :=
  Memory.wf_filter m _ h

/-- What a read finds after a run has been zeroed. -/
theorem Memory.read_clear (m : Memory) (lo n a : Nat) :
    (m.clear lo n).read a = if inRun lo n a then Memory.unlisted else m.read a := by
  induction m with
  | nil => simp [Memory.clear]
  | cons c m ih =>
    obtain ⟨k, x⟩ := c
    simp only [Memory.clear, List.filter_cons] at ih ⊢
    by_cases hk : k = a
    · subst hk
      by_cases hr : inRun lo n k = true <;> simp_all [Memory.read]
    · by_cases hr : inRun lo n k = true <;> simp_all [Memory.read]

/-- Copying a run keeps the canonical form. -/
theorem Memory.wf_copyRun (m : Memory) (src dst n : Nat) (h : Memory.wf m = true) :
    Memory.wf (m.copyRun src dst n) = true := by
  have key : ∀ (l : List (Nat × Byte)) (t : Memory), Memory.wf t = true →
      Memory.wf (l.foldl (fun (t : Memory) e => t.write (e.1 - src + dst) e.2) t) = true := by
    intro l
    induction l with
    | nil => exact fun t ht => ht
    | cons e l ih => exact fun t ht => ih _ (Memory.wf_write t _ _ ht)
  exact key _ _ (Memory.wf_clear m dst n h)

/-- Reset memory has the canonical form. -/
theorem State.reset_wf : Memory.wf State.reset.mem = true := by decide

end Sys2Proof.Machine
end

