-- ==== Sys2Proof/Laws/State.lean ====
section
/-! SUPPORT. What each update of the state leaves as it was, and what it sets: one lemma per field per update. -/

namespace Sys2Proof.Machine

/-! setCore. -/

@[simp] theorem State.setCore_clk (s : State) (n : Nat) (c : Core) : (s.setCore n c).clk = s.clk := (rfl)
@[simp] theorem State.setCore_tbase (s : State) (n : Nat) (c : Core) : (s.setCore n c).tbase = s.tbase := (rfl)
@[simp] theorem State.setCore_agenda (s : State) (n : Nat) (c : Core) : (s.setCore n c).agenda = s.agenda := (rfl)
@[simp] theorem State.setCore_cur (s : State) (n : Nat) (c : Core) : (s.setCore n c).cur = s.cur := (rfl)
@[simp] theorem State.setCore_freeCtr (s : State) (n : Nat) (c : Core) : (s.setCore n c).freeCtr = s.freeCtr := (rfl)
@[simp] theorem State.setCore_bad (s : State) (n : Nat) (c : Core) : (s.setCore n c).bad = s.bad := (rfl)
@[simp] theorem State.setCore_gangs (s : State) (n : Nat) (c : Core) : (s.setCore n c).gangs = s.gangs := (rfl)
@[simp] theorem State.setCore_parts (s : State) (n : Nat) (c : Core) : (s.setCore n c).parts = s.parts := (rfl)
@[simp] theorem State.setCore_queues (s : State) (n : Nat) (c : Core) : (s.setCore n c).queues = s.queues := (rfl)
@[simp] theorem State.setCore_orders (s : State) (n : Nat) (c : Core) : (s.setCore n c).orders = s.orders := (rfl)
@[simp] theorem State.setCore_posts (s : State) (n : Nat) (c : Core) : (s.setCore n c).posts = s.posts := (rfl)
@[simp] theorem State.setCore_tasks (s : State) (n : Nat) (c : Core) : (s.setCore n c).tasks = s.tasks := (rfl)
@[simp] theorem State.setCore_sysc (s : State) (n : Nat) (c : Core) : (s.setCore n c).sysc = s.sysc := (rfl)
@[simp] theorem State.setCore_monitors (s : State) (n : Nat) (c : Core) : (s.setCore n c).monitors = s.monitors := (rfl)
@[simp] theorem State.setCore_evictions (s : State) (n : Nat) (c : Core) : (s.setCore n c).evictions = s.evictions := (rfl)
@[simp] theorem State.setCore_pageRequests (s : State) (n : Nat) (c : Core) : (s.setCore n c).pageRequests = s.pageRequests := (rfl)
@[simp] theorem State.setCore_declined (s : State) (n : Nat) (c : Core) : (s.setCore n c).declined = s.declined := (rfl)
@[simp] theorem State.setCore_attrCache (s : State) (n : Nat) (c : Core) : (s.setCore n c).attrCache = s.attrCache := (rfl)
@[simp] theorem State.setCore_memXlat (s : State) (n : Nat) (c : Core) : (s.setCore n c).memXlat = s.memXlat := (rfl)
@[simp] theorem State.setCore_hostXlat (s : State) (n : Nat) (c : Core) : (s.setCore n c).hostXlat = s.hostXlat := (rfl)
@[simp] theorem State.setCore_hostAsked (s : State) (n : Nat) (c : Core) : (s.setCore n c).hostAsked = s.hostAsked := (rfl)
@[simp] theorem State.setCore_dirs (s : State) (n : Nat) (c : Core) : (s.setCore n c).dirs = s.dirs := (rfl)
@[simp] theorem State.setCore_rd (s : State) (n : Nat) (c : Core) : (s.setCore n c).rd = s.rd := (rfl)
@[simp] theorem State.setCore_placement (s : State) (n : Nat) (c : Core) : (s.setCore n c).placement = s.placement := (rfl)
@[simp] theorem State.setCore_completions (s : State) (n : Nat) (c : Core) : (s.setCore n c).completions = s.completions := (rfl)
@[simp] theorem State.setCore_orphans (s : State) (n : Nat) (c : Core) : (s.setCore n c).orphans = s.orphans := (rfl)
@[simp] theorem State.setCore_l2 (s : State) (n : Nat) (c : Core) : (s.setCore n c).l2 = s.l2 := (rfl)
@[simp] theorem State.setCore_errs (s : State) (n : Nat) (c : Core) : (s.setCore n c).errs = s.errs := (rfl)
@[simp] theorem State.setCore_corrections (s : State) (n : Nat) (c : Core) : (s.setCore n c).corrections = s.corrections := (rfl)
@[simp] theorem State.setCore_tagTable (s : State) (n : Nat) (c : Core) : (s.setCore n c).tagTable = s.tagTable := (rfl)
@[simp] theorem State.setCore_packets (s : State) (n : Nat) (c : Core) : (s.setCore n c).packets = s.packets := (rfl)
@[simp] theorem State.setCore_combiners (s : State) (n : Nat) (c : Core) : (s.setCore n c).combiners = s.combiners := (rfl)
@[simp] theorem State.setCore_asleep (s : State) (n : Nat) (c : Core) : (s.setCore n c).asleep = s.asleep := (rfl)
@[simp] theorem State.setCore_tagsIssued (s : State) (n : Nat) (c : Core) : (s.setCore n c).tagsIssued = s.tagsIssued := (rfl)
@[simp] theorem State.setCore_failed (s : State) (n : Nat) (c : Core) : (s.setCore n c).failed = s.failed := (rfl)
@[simp] theorem State.setCore_records (s : State) (n : Nat) (c : Core) : (s.setCore n c).records = s.records := (rfl)
@[simp] theorem State.setCore_notices (s : State) (n : Nat) (c : Core) : (s.setCore n c).notices = s.notices := (rfl)
@[simp] theorem State.setCore_service (s : State) (n : Nat) (c : Core) : (s.setCore n c).service = s.service := (rfl)

/-! modCore. -/

@[simp] theorem State.modCore_clk (s : State) (n : Nat) (f : Core → Core) : (s.modCore n f).clk = s.clk := (rfl)
@[simp] theorem State.modCore_tbase (s : State) (n : Nat) (f : Core → Core) : (s.modCore n f).tbase = s.tbase := (rfl)
@[simp] theorem State.modCore_agenda (s : State) (n : Nat) (f : Core → Core) : (s.modCore n f).agenda = s.agenda := (rfl)
@[simp] theorem State.modCore_cur (s : State) (n : Nat) (f : Core → Core) : (s.modCore n f).cur = s.cur := (rfl)
@[simp] theorem State.modCore_freeCtr (s : State) (n : Nat) (f : Core → Core) : (s.modCore n f).freeCtr = s.freeCtr := (rfl)
@[simp] theorem State.modCore_bad (s : State) (n : Nat) (f : Core → Core) : (s.modCore n f).bad = s.bad := (rfl)
@[simp] theorem State.modCore_gangs (s : State) (n : Nat) (f : Core → Core) : (s.modCore n f).gangs = s.gangs := (rfl)
@[simp] theorem State.modCore_parts (s : State) (n : Nat) (f : Core → Core) : (s.modCore n f).parts = s.parts := (rfl)
@[simp] theorem State.modCore_queues (s : State) (n : Nat) (f : Core → Core) : (s.modCore n f).queues = s.queues := (rfl)
@[simp] theorem State.modCore_orders (s : State) (n : Nat) (f : Core → Core) : (s.modCore n f).orders = s.orders := (rfl)
@[simp] theorem State.modCore_posts (s : State) (n : Nat) (f : Core → Core) : (s.modCore n f).posts = s.posts := (rfl)
@[simp] theorem State.modCore_tasks (s : State) (n : Nat) (f : Core → Core) : (s.modCore n f).tasks = s.tasks := (rfl)
@[simp] theorem State.modCore_sysc (s : State) (n : Nat) (f : Core → Core) : (s.modCore n f).sysc = s.sysc := (rfl)
@[simp] theorem State.modCore_monitors (s : State) (n : Nat) (f : Core → Core) : (s.modCore n f).monitors = s.monitors := (rfl)
@[simp] theorem State.modCore_evictions (s : State) (n : Nat) (f : Core → Core) : (s.modCore n f).evictions = s.evictions := (rfl)
@[simp] theorem State.modCore_pageRequests (s : State) (n : Nat) (f : Core → Core) : (s.modCore n f).pageRequests = s.pageRequests := (rfl)
@[simp] theorem State.modCore_declined (s : State) (n : Nat) (f : Core → Core) : (s.modCore n f).declined = s.declined := (rfl)
@[simp] theorem State.modCore_attrCache (s : State) (n : Nat) (f : Core → Core) : (s.modCore n f).attrCache = s.attrCache := (rfl)
@[simp] theorem State.modCore_memXlat (s : State) (n : Nat) (f : Core → Core) : (s.modCore n f).memXlat = s.memXlat := (rfl)
@[simp] theorem State.modCore_hostXlat (s : State) (n : Nat) (f : Core → Core) : (s.modCore n f).hostXlat = s.hostXlat := (rfl)
@[simp] theorem State.modCore_hostAsked (s : State) (n : Nat) (f : Core → Core) : (s.modCore n f).hostAsked = s.hostAsked := (rfl)
@[simp] theorem State.modCore_dirs (s : State) (n : Nat) (f : Core → Core) : (s.modCore n f).dirs = s.dirs := (rfl)
@[simp] theorem State.modCore_rd (s : State) (n : Nat) (f : Core → Core) : (s.modCore n f).rd = s.rd := (rfl)
@[simp] theorem State.modCore_placement (s : State) (n : Nat) (f : Core → Core) : (s.modCore n f).placement = s.placement := (rfl)
@[simp] theorem State.modCore_completions (s : State) (n : Nat) (f : Core → Core) : (s.modCore n f).completions = s.completions := (rfl)
@[simp] theorem State.modCore_orphans (s : State) (n : Nat) (f : Core → Core) : (s.modCore n f).orphans = s.orphans := (rfl)
@[simp] theorem State.modCore_l2 (s : State) (n : Nat) (f : Core → Core) : (s.modCore n f).l2 = s.l2 := (rfl)
@[simp] theorem State.modCore_errs (s : State) (n : Nat) (f : Core → Core) : (s.modCore n f).errs = s.errs := (rfl)
@[simp] theorem State.modCore_corrections (s : State) (n : Nat) (f : Core → Core) : (s.modCore n f).corrections = s.corrections := (rfl)
@[simp] theorem State.modCore_tagTable (s : State) (n : Nat) (f : Core → Core) : (s.modCore n f).tagTable = s.tagTable := (rfl)
@[simp] theorem State.modCore_packets (s : State) (n : Nat) (f : Core → Core) : (s.modCore n f).packets = s.packets := (rfl)
@[simp] theorem State.modCore_combiners (s : State) (n : Nat) (f : Core → Core) : (s.modCore n f).combiners = s.combiners := (rfl)
@[simp] theorem State.modCore_asleep (s : State) (n : Nat) (f : Core → Core) : (s.modCore n f).asleep = s.asleep := (rfl)
@[simp] theorem State.modCore_tagsIssued (s : State) (n : Nat) (f : Core → Core) : (s.modCore n f).tagsIssued = s.tagsIssued := (rfl)
@[simp] theorem State.modCore_failed (s : State) (n : Nat) (f : Core → Core) : (s.modCore n f).failed = s.failed := (rfl)
@[simp] theorem State.modCore_records (s : State) (n : Nat) (f : Core → Core) : (s.modCore n f).records = s.records := (rfl)
@[simp] theorem State.modCore_notices (s : State) (n : Nat) (f : Core → Core) : (s.modCore n f).notices = s.notices := (rfl)
@[simp] theorem State.modCore_service (s : State) (n : Nat) (f : Core → Core) : (s.modCore n f).service = s.service := (rfl)

/-! modCtx. -/

@[simp] theorem State.modCtx_clk (s : State) (n x : Nat) (f : Context → Context) : (s.modCtx n x f).clk = s.clk := (rfl)
@[simp] theorem State.modCtx_tbase (s : State) (n x : Nat) (f : Context → Context) : (s.modCtx n x f).tbase = s.tbase := (rfl)
@[simp] theorem State.modCtx_agenda (s : State) (n x : Nat) (f : Context → Context) : (s.modCtx n x f).agenda = s.agenda := (rfl)
@[simp] theorem State.modCtx_cur (s : State) (n x : Nat) (f : Context → Context) : (s.modCtx n x f).cur = s.cur := (rfl)
@[simp] theorem State.modCtx_freeCtr (s : State) (n x : Nat) (f : Context → Context) : (s.modCtx n x f).freeCtr = s.freeCtr := (rfl)
@[simp] theorem State.modCtx_bad (s : State) (n x : Nat) (f : Context → Context) : (s.modCtx n x f).bad = s.bad := (rfl)
@[simp] theorem State.modCtx_gangs (s : State) (n x : Nat) (f : Context → Context) : (s.modCtx n x f).gangs = s.gangs := (rfl)
@[simp] theorem State.modCtx_parts (s : State) (n x : Nat) (f : Context → Context) : (s.modCtx n x f).parts = s.parts := (rfl)
@[simp] theorem State.modCtx_queues (s : State) (n x : Nat) (f : Context → Context) : (s.modCtx n x f).queues = s.queues := (rfl)
@[simp] theorem State.modCtx_orders (s : State) (n x : Nat) (f : Context → Context) : (s.modCtx n x f).orders = s.orders := (rfl)
@[simp] theorem State.modCtx_posts (s : State) (n x : Nat) (f : Context → Context) : (s.modCtx n x f).posts = s.posts := (rfl)
@[simp] theorem State.modCtx_tasks (s : State) (n x : Nat) (f : Context → Context) : (s.modCtx n x f).tasks = s.tasks := (rfl)
@[simp] theorem State.modCtx_sysc (s : State) (n x : Nat) (f : Context → Context) : (s.modCtx n x f).sysc = s.sysc := (rfl)
@[simp] theorem State.modCtx_monitors (s : State) (n x : Nat) (f : Context → Context) : (s.modCtx n x f).monitors = s.monitors := (rfl)
@[simp] theorem State.modCtx_evictions (s : State) (n x : Nat) (f : Context → Context) : (s.modCtx n x f).evictions = s.evictions := (rfl)
@[simp] theorem State.modCtx_pageRequests (s : State) (n x : Nat) (f : Context → Context) : (s.modCtx n x f).pageRequests = s.pageRequests := (rfl)
@[simp] theorem State.modCtx_declined (s : State) (n x : Nat) (f : Context → Context) : (s.modCtx n x f).declined = s.declined := (rfl)
@[simp] theorem State.modCtx_attrCache (s : State) (n x : Nat) (f : Context → Context) : (s.modCtx n x f).attrCache = s.attrCache := (rfl)
@[simp] theorem State.modCtx_memXlat (s : State) (n x : Nat) (f : Context → Context) : (s.modCtx n x f).memXlat = s.memXlat := (rfl)
@[simp] theorem State.modCtx_hostXlat (s : State) (n x : Nat) (f : Context → Context) : (s.modCtx n x f).hostXlat = s.hostXlat := (rfl)
@[simp] theorem State.modCtx_hostAsked (s : State) (n x : Nat) (f : Context → Context) : (s.modCtx n x f).hostAsked = s.hostAsked := (rfl)
@[simp] theorem State.modCtx_dirs (s : State) (n x : Nat) (f : Context → Context) : (s.modCtx n x f).dirs = s.dirs := (rfl)
@[simp] theorem State.modCtx_rd (s : State) (n x : Nat) (f : Context → Context) : (s.modCtx n x f).rd = s.rd := (rfl)
@[simp] theorem State.modCtx_placement (s : State) (n x : Nat) (f : Context → Context) : (s.modCtx n x f).placement = s.placement := (rfl)
@[simp] theorem State.modCtx_completions (s : State) (n x : Nat) (f : Context → Context) : (s.modCtx n x f).completions = s.completions := (rfl)
@[simp] theorem State.modCtx_orphans (s : State) (n x : Nat) (f : Context → Context) : (s.modCtx n x f).orphans = s.orphans := (rfl)
@[simp] theorem State.modCtx_l2 (s : State) (n x : Nat) (f : Context → Context) : (s.modCtx n x f).l2 = s.l2 := (rfl)
@[simp] theorem State.modCtx_errs (s : State) (n x : Nat) (f : Context → Context) : (s.modCtx n x f).errs = s.errs := (rfl)
@[simp] theorem State.modCtx_corrections (s : State) (n x : Nat) (f : Context → Context) : (s.modCtx n x f).corrections = s.corrections := (rfl)
@[simp] theorem State.modCtx_tagTable (s : State) (n x : Nat) (f : Context → Context) : (s.modCtx n x f).tagTable = s.tagTable := (rfl)
@[simp] theorem State.modCtx_packets (s : State) (n x : Nat) (f : Context → Context) : (s.modCtx n x f).packets = s.packets := (rfl)
@[simp] theorem State.modCtx_combiners (s : State) (n x : Nat) (f : Context → Context) : (s.modCtx n x f).combiners = s.combiners := (rfl)
@[simp] theorem State.modCtx_asleep (s : State) (n x : Nat) (f : Context → Context) : (s.modCtx n x f).asleep = s.asleep := (rfl)
@[simp] theorem State.modCtx_tagsIssued (s : State) (n x : Nat) (f : Context → Context) : (s.modCtx n x f).tagsIssued = s.tagsIssued := (rfl)
@[simp] theorem State.modCtx_failed (s : State) (n x : Nat) (f : Context → Context) : (s.modCtx n x f).failed = s.failed := (rfl)
@[simp] theorem State.modCtx_records (s : State) (n x : Nat) (f : Context → Context) : (s.modCtx n x f).records = s.records := (rfl)
@[simp] theorem State.modCtx_notices (s : State) (n x : Nat) (f : Context → Context) : (s.modCtx n x f).notices = s.notices := (rfl)
@[simp] theorem State.modCtx_service (s : State) (n x : Nat) (f : Context → Context) : (s.modCtx n x f).service = s.service := (rfl)

/-! modMe. -/

@[simp] theorem State.modMe_clk (s : State) (f : Core → Core) : (s.modMe f).clk = s.clk := (rfl)
@[simp] theorem State.modMe_tbase (s : State) (f : Core → Core) : (s.modMe f).tbase = s.tbase := (rfl)
@[simp] theorem State.modMe_agenda (s : State) (f : Core → Core) : (s.modMe f).agenda = s.agenda := (rfl)
@[simp] theorem State.modMe_cur (s : State) (f : Core → Core) : (s.modMe f).cur = s.cur := (rfl)
@[simp] theorem State.modMe_freeCtr (s : State) (f : Core → Core) : (s.modMe f).freeCtr = s.freeCtr := (rfl)
@[simp] theorem State.modMe_bad (s : State) (f : Core → Core) : (s.modMe f).bad = s.bad := (rfl)
@[simp] theorem State.modMe_gangs (s : State) (f : Core → Core) : (s.modMe f).gangs = s.gangs := (rfl)
@[simp] theorem State.modMe_parts (s : State) (f : Core → Core) : (s.modMe f).parts = s.parts := (rfl)
@[simp] theorem State.modMe_queues (s : State) (f : Core → Core) : (s.modMe f).queues = s.queues := (rfl)
@[simp] theorem State.modMe_orders (s : State) (f : Core → Core) : (s.modMe f).orders = s.orders := (rfl)
@[simp] theorem State.modMe_posts (s : State) (f : Core → Core) : (s.modMe f).posts = s.posts := (rfl)
@[simp] theorem State.modMe_tasks (s : State) (f : Core → Core) : (s.modMe f).tasks = s.tasks := (rfl)
@[simp] theorem State.modMe_sysc (s : State) (f : Core → Core) : (s.modMe f).sysc = s.sysc := (rfl)
@[simp] theorem State.modMe_monitors (s : State) (f : Core → Core) : (s.modMe f).monitors = s.monitors := (rfl)
@[simp] theorem State.modMe_evictions (s : State) (f : Core → Core) : (s.modMe f).evictions = s.evictions := (rfl)
@[simp] theorem State.modMe_pageRequests (s : State) (f : Core → Core) : (s.modMe f).pageRequests = s.pageRequests := (rfl)
@[simp] theorem State.modMe_declined (s : State) (f : Core → Core) : (s.modMe f).declined = s.declined := (rfl)
@[simp] theorem State.modMe_attrCache (s : State) (f : Core → Core) : (s.modMe f).attrCache = s.attrCache := (rfl)
@[simp] theorem State.modMe_memXlat (s : State) (f : Core → Core) : (s.modMe f).memXlat = s.memXlat := (rfl)
@[simp] theorem State.modMe_hostXlat (s : State) (f : Core → Core) : (s.modMe f).hostXlat = s.hostXlat := (rfl)
@[simp] theorem State.modMe_hostAsked (s : State) (f : Core → Core) : (s.modMe f).hostAsked = s.hostAsked := (rfl)
@[simp] theorem State.modMe_dirs (s : State) (f : Core → Core) : (s.modMe f).dirs = s.dirs := (rfl)
@[simp] theorem State.modMe_rd (s : State) (f : Core → Core) : (s.modMe f).rd = s.rd := (rfl)
@[simp] theorem State.modMe_placement (s : State) (f : Core → Core) : (s.modMe f).placement = s.placement := (rfl)
@[simp] theorem State.modMe_completions (s : State) (f : Core → Core) : (s.modMe f).completions = s.completions := (rfl)
@[simp] theorem State.modMe_orphans (s : State) (f : Core → Core) : (s.modMe f).orphans = s.orphans := (rfl)
@[simp] theorem State.modMe_l2 (s : State) (f : Core → Core) : (s.modMe f).l2 = s.l2 := (rfl)
@[simp] theorem State.modMe_errs (s : State) (f : Core → Core) : (s.modMe f).errs = s.errs := (rfl)
@[simp] theorem State.modMe_corrections (s : State) (f : Core → Core) : (s.modMe f).corrections = s.corrections := (rfl)
@[simp] theorem State.modMe_tagTable (s : State) (f : Core → Core) : (s.modMe f).tagTable = s.tagTable := (rfl)
@[simp] theorem State.modMe_packets (s : State) (f : Core → Core) : (s.modMe f).packets = s.packets := (rfl)
@[simp] theorem State.modMe_combiners (s : State) (f : Core → Core) : (s.modMe f).combiners = s.combiners := (rfl)
@[simp] theorem State.modMe_asleep (s : State) (f : Core → Core) : (s.modMe f).asleep = s.asleep := (rfl)
@[simp] theorem State.modMe_tagsIssued (s : State) (f : Core → Core) : (s.modMe f).tagsIssued = s.tagsIssued := (rfl)
@[simp] theorem State.modMe_failed (s : State) (f : Core → Core) : (s.modMe f).failed = s.failed := (rfl)
@[simp] theorem State.modMe_records (s : State) (f : Core → Core) : (s.modMe f).records = s.records := (rfl)
@[simp] theorem State.modMe_notices (s : State) (f : Core → Core) : (s.modMe f).notices = s.notices := (rfl)
@[simp] theorem State.modMe_service (s : State) (f : Core → Core) : (s.modMe f).service = s.service := (rfl)

/-! modMy. -/

@[simp] theorem State.modMy_clk (s : State) (f : Context → Context) : (s.modMy f).clk = s.clk := (rfl)
@[simp] theorem State.modMy_tbase (s : State) (f : Context → Context) : (s.modMy f).tbase = s.tbase := (rfl)
@[simp] theorem State.modMy_agenda (s : State) (f : Context → Context) : (s.modMy f).agenda = s.agenda := (rfl)
@[simp] theorem State.modMy_cur (s : State) (f : Context → Context) : (s.modMy f).cur = s.cur := (rfl)
@[simp] theorem State.modMy_freeCtr (s : State) (f : Context → Context) : (s.modMy f).freeCtr = s.freeCtr := (rfl)
@[simp] theorem State.modMy_bad (s : State) (f : Context → Context) : (s.modMy f).bad = s.bad := (rfl)
@[simp] theorem State.modMy_gangs (s : State) (f : Context → Context) : (s.modMy f).gangs = s.gangs := (rfl)
@[simp] theorem State.modMy_parts (s : State) (f : Context → Context) : (s.modMy f).parts = s.parts := (rfl)
@[simp] theorem State.modMy_queues (s : State) (f : Context → Context) : (s.modMy f).queues = s.queues := (rfl)
@[simp] theorem State.modMy_orders (s : State) (f : Context → Context) : (s.modMy f).orders = s.orders := (rfl)
@[simp] theorem State.modMy_posts (s : State) (f : Context → Context) : (s.modMy f).posts = s.posts := (rfl)
@[simp] theorem State.modMy_tasks (s : State) (f : Context → Context) : (s.modMy f).tasks = s.tasks := (rfl)
@[simp] theorem State.modMy_sysc (s : State) (f : Context → Context) : (s.modMy f).sysc = s.sysc := (rfl)
@[simp] theorem State.modMy_monitors (s : State) (f : Context → Context) : (s.modMy f).monitors = s.monitors := (rfl)
@[simp] theorem State.modMy_evictions (s : State) (f : Context → Context) : (s.modMy f).evictions = s.evictions := (rfl)
@[simp] theorem State.modMy_pageRequests (s : State) (f : Context → Context) : (s.modMy f).pageRequests = s.pageRequests := (rfl)
@[simp] theorem State.modMy_declined (s : State) (f : Context → Context) : (s.modMy f).declined = s.declined := (rfl)
@[simp] theorem State.modMy_attrCache (s : State) (f : Context → Context) : (s.modMy f).attrCache = s.attrCache := (rfl)
@[simp] theorem State.modMy_memXlat (s : State) (f : Context → Context) : (s.modMy f).memXlat = s.memXlat := (rfl)
@[simp] theorem State.modMy_hostXlat (s : State) (f : Context → Context) : (s.modMy f).hostXlat = s.hostXlat := (rfl)
@[simp] theorem State.modMy_hostAsked (s : State) (f : Context → Context) : (s.modMy f).hostAsked = s.hostAsked := (rfl)
@[simp] theorem State.modMy_dirs (s : State) (f : Context → Context) : (s.modMy f).dirs = s.dirs := (rfl)
@[simp] theorem State.modMy_rd (s : State) (f : Context → Context) : (s.modMy f).rd = s.rd := (rfl)
@[simp] theorem State.modMy_placement (s : State) (f : Context → Context) : (s.modMy f).placement = s.placement := (rfl)
@[simp] theorem State.modMy_completions (s : State) (f : Context → Context) : (s.modMy f).completions = s.completions := (rfl)
@[simp] theorem State.modMy_orphans (s : State) (f : Context → Context) : (s.modMy f).orphans = s.orphans := (rfl)
@[simp] theorem State.modMy_l2 (s : State) (f : Context → Context) : (s.modMy f).l2 = s.l2 := (rfl)
@[simp] theorem State.modMy_errs (s : State) (f : Context → Context) : (s.modMy f).errs = s.errs := (rfl)
@[simp] theorem State.modMy_corrections (s : State) (f : Context → Context) : (s.modMy f).corrections = s.corrections := (rfl)
@[simp] theorem State.modMy_tagTable (s : State) (f : Context → Context) : (s.modMy f).tagTable = s.tagTable := (rfl)
@[simp] theorem State.modMy_packets (s : State) (f : Context → Context) : (s.modMy f).packets = s.packets := (rfl)
@[simp] theorem State.modMy_combiners (s : State) (f : Context → Context) : (s.modMy f).combiners = s.combiners := (rfl)
@[simp] theorem State.modMy_asleep (s : State) (f : Context → Context) : (s.modMy f).asleep = s.asleep := (rfl)
@[simp] theorem State.modMy_tagsIssued (s : State) (f : Context → Context) : (s.modMy f).tagsIssued = s.tagsIssued := (rfl)
@[simp] theorem State.modMy_failed (s : State) (f : Context → Context) : (s.modMy f).failed = s.failed := (rfl)
@[simp] theorem State.modMy_records (s : State) (f : Context → Context) : (s.modMy f).records = s.records := (rfl)
@[simp] theorem State.modMy_notices (s : State) (f : Context → Context) : (s.modMy f).notices = s.notices := (rfl)
@[simp] theorem State.modMy_service (s : State) (f : Context → Context) : (s.modMy f).service = s.service := (rfl)

/-! setSA. -/

@[simp] theorem State.setSA_clk (s : State) (r : BitVec 8) (v : Word) : (s.setSA r v).clk = s.clk := (rfl)
@[simp] theorem State.setSA_tbase (s : State) (r : BitVec 8) (v : Word) : (s.setSA r v).tbase = s.tbase := (rfl)
@[simp] theorem State.setSA_agenda (s : State) (r : BitVec 8) (v : Word) : (s.setSA r v).agenda = s.agenda := (rfl)
@[simp] theorem State.setSA_cur (s : State) (r : BitVec 8) (v : Word) : (s.setSA r v).cur = s.cur := (rfl)
@[simp] theorem State.setSA_freeCtr (s : State) (r : BitVec 8) (v : Word) : (s.setSA r v).freeCtr = s.freeCtr := (rfl)
@[simp] theorem State.setSA_bad (s : State) (r : BitVec 8) (v : Word) : (s.setSA r v).bad = s.bad := (rfl)
@[simp] theorem State.setSA_gangs (s : State) (r : BitVec 8) (v : Word) : (s.setSA r v).gangs = s.gangs := (rfl)
@[simp] theorem State.setSA_parts (s : State) (r : BitVec 8) (v : Word) : (s.setSA r v).parts = s.parts := (rfl)
@[simp] theorem State.setSA_queues (s : State) (r : BitVec 8) (v : Word) : (s.setSA r v).queues = s.queues := (rfl)
@[simp] theorem State.setSA_orders (s : State) (r : BitVec 8) (v : Word) : (s.setSA r v).orders = s.orders := (rfl)
@[simp] theorem State.setSA_posts (s : State) (r : BitVec 8) (v : Word) : (s.setSA r v).posts = s.posts := (rfl)
@[simp] theorem State.setSA_tasks (s : State) (r : BitVec 8) (v : Word) : (s.setSA r v).tasks = s.tasks := (rfl)
@[simp] theorem State.setSA_sysc (s : State) (r : BitVec 8) (v : Word) : (s.setSA r v).sysc = s.sysc := (rfl)
@[simp] theorem State.setSA_monitors (s : State) (r : BitVec 8) (v : Word) : (s.setSA r v).monitors = s.monitors := (rfl)
@[simp] theorem State.setSA_evictions (s : State) (r : BitVec 8) (v : Word) : (s.setSA r v).evictions = s.evictions := (rfl)
@[simp] theorem State.setSA_pageRequests (s : State) (r : BitVec 8) (v : Word) : (s.setSA r v).pageRequests = s.pageRequests := (rfl)
@[simp] theorem State.setSA_declined (s : State) (r : BitVec 8) (v : Word) : (s.setSA r v).declined = s.declined := (rfl)
@[simp] theorem State.setSA_attrCache (s : State) (r : BitVec 8) (v : Word) : (s.setSA r v).attrCache = s.attrCache := (rfl)
@[simp] theorem State.setSA_memXlat (s : State) (r : BitVec 8) (v : Word) : (s.setSA r v).memXlat = s.memXlat := (rfl)
@[simp] theorem State.setSA_hostXlat (s : State) (r : BitVec 8) (v : Word) : (s.setSA r v).hostXlat = s.hostXlat := (rfl)
@[simp] theorem State.setSA_hostAsked (s : State) (r : BitVec 8) (v : Word) : (s.setSA r v).hostAsked = s.hostAsked := (rfl)
@[simp] theorem State.setSA_dirs (s : State) (r : BitVec 8) (v : Word) : (s.setSA r v).dirs = s.dirs := (rfl)
@[simp] theorem State.setSA_rd (s : State) (r : BitVec 8) (v : Word) : (s.setSA r v).rd = s.rd := (rfl)
@[simp] theorem State.setSA_placement (s : State) (r : BitVec 8) (v : Word) : (s.setSA r v).placement = s.placement := (rfl)
@[simp] theorem State.setSA_completions (s : State) (r : BitVec 8) (v : Word) : (s.setSA r v).completions = s.completions := (rfl)
@[simp] theorem State.setSA_orphans (s : State) (r : BitVec 8) (v : Word) : (s.setSA r v).orphans = s.orphans := (rfl)
@[simp] theorem State.setSA_l2 (s : State) (r : BitVec 8) (v : Word) : (s.setSA r v).l2 = s.l2 := (rfl)
@[simp] theorem State.setSA_errs (s : State) (r : BitVec 8) (v : Word) : (s.setSA r v).errs = s.errs := (rfl)
@[simp] theorem State.setSA_corrections (s : State) (r : BitVec 8) (v : Word) : (s.setSA r v).corrections = s.corrections := (rfl)
@[simp] theorem State.setSA_tagTable (s : State) (r : BitVec 8) (v : Word) : (s.setSA r v).tagTable = s.tagTable := (rfl)
@[simp] theorem State.setSA_packets (s : State) (r : BitVec 8) (v : Word) : (s.setSA r v).packets = s.packets := (rfl)
@[simp] theorem State.setSA_combiners (s : State) (r : BitVec 8) (v : Word) : (s.setSA r v).combiners = s.combiners := (rfl)
@[simp] theorem State.setSA_asleep (s : State) (r : BitVec 8) (v : Word) : (s.setSA r v).asleep = s.asleep := (rfl)
@[simp] theorem State.setSA_tagsIssued (s : State) (r : BitVec 8) (v : Word) : (s.setSA r v).tagsIssued = s.tagsIssued := (rfl)
@[simp] theorem State.setSA_failed (s : State) (r : BitVec 8) (v : Word) : (s.setSA r v).failed = s.failed := (rfl)
@[simp] theorem State.setSA_records (s : State) (r : BitVec 8) (v : Word) : (s.setSA r v).records = s.records := (rfl)
@[simp] theorem State.setSA_notices (s : State) (r : BitVec 8) (v : Word) : (s.setSA r v).notices = s.notices := (rfl)
@[simp] theorem State.setSA_service (s : State) (r : BitVec 8) (v : Word) : (s.setSA r v).service = s.service := (rfl)

/-! setPreg. -/

@[simp] theorem State.setPreg_clk (s : State) (r : BitVec 8) (b : Bool) : (s.setPreg r b).clk = s.clk := (rfl)
@[simp] theorem State.setPreg_tbase (s : State) (r : BitVec 8) (b : Bool) : (s.setPreg r b).tbase = s.tbase := (rfl)
@[simp] theorem State.setPreg_agenda (s : State) (r : BitVec 8) (b : Bool) : (s.setPreg r b).agenda = s.agenda := (rfl)
@[simp] theorem State.setPreg_cur (s : State) (r : BitVec 8) (b : Bool) : (s.setPreg r b).cur = s.cur := (rfl)
@[simp] theorem State.setPreg_freeCtr (s : State) (r : BitVec 8) (b : Bool) : (s.setPreg r b).freeCtr = s.freeCtr := (rfl)
@[simp] theorem State.setPreg_bad (s : State) (r : BitVec 8) (b : Bool) : (s.setPreg r b).bad = s.bad := (rfl)
@[simp] theorem State.setPreg_gangs (s : State) (r : BitVec 8) (b : Bool) : (s.setPreg r b).gangs = s.gangs := (rfl)
@[simp] theorem State.setPreg_parts (s : State) (r : BitVec 8) (b : Bool) : (s.setPreg r b).parts = s.parts := (rfl)
@[simp] theorem State.setPreg_queues (s : State) (r : BitVec 8) (b : Bool) : (s.setPreg r b).queues = s.queues := (rfl)
@[simp] theorem State.setPreg_orders (s : State) (r : BitVec 8) (b : Bool) : (s.setPreg r b).orders = s.orders := (rfl)
@[simp] theorem State.setPreg_posts (s : State) (r : BitVec 8) (b : Bool) : (s.setPreg r b).posts = s.posts := (rfl)
@[simp] theorem State.setPreg_tasks (s : State) (r : BitVec 8) (b : Bool) : (s.setPreg r b).tasks = s.tasks := (rfl)
@[simp] theorem State.setPreg_sysc (s : State) (r : BitVec 8) (b : Bool) : (s.setPreg r b).sysc = s.sysc := (rfl)
@[simp] theorem State.setPreg_monitors (s : State) (r : BitVec 8) (b : Bool) : (s.setPreg r b).monitors = s.monitors := (rfl)
@[simp] theorem State.setPreg_evictions (s : State) (r : BitVec 8) (b : Bool) : (s.setPreg r b).evictions = s.evictions := (rfl)
@[simp] theorem State.setPreg_pageRequests (s : State) (r : BitVec 8) (b : Bool) : (s.setPreg r b).pageRequests = s.pageRequests := (rfl)
@[simp] theorem State.setPreg_declined (s : State) (r : BitVec 8) (b : Bool) : (s.setPreg r b).declined = s.declined := (rfl)
@[simp] theorem State.setPreg_attrCache (s : State) (r : BitVec 8) (b : Bool) : (s.setPreg r b).attrCache = s.attrCache := (rfl)
@[simp] theorem State.setPreg_memXlat (s : State) (r : BitVec 8) (b : Bool) : (s.setPreg r b).memXlat = s.memXlat := (rfl)
@[simp] theorem State.setPreg_hostXlat (s : State) (r : BitVec 8) (b : Bool) : (s.setPreg r b).hostXlat = s.hostXlat := (rfl)
@[simp] theorem State.setPreg_hostAsked (s : State) (r : BitVec 8) (b : Bool) : (s.setPreg r b).hostAsked = s.hostAsked := (rfl)
@[simp] theorem State.setPreg_dirs (s : State) (r : BitVec 8) (b : Bool) : (s.setPreg r b).dirs = s.dirs := (rfl)
@[simp] theorem State.setPreg_rd (s : State) (r : BitVec 8) (b : Bool) : (s.setPreg r b).rd = s.rd := (rfl)
@[simp] theorem State.setPreg_placement (s : State) (r : BitVec 8) (b : Bool) : (s.setPreg r b).placement = s.placement := (rfl)
@[simp] theorem State.setPreg_completions (s : State) (r : BitVec 8) (b : Bool) : (s.setPreg r b).completions = s.completions := (rfl)
@[simp] theorem State.setPreg_orphans (s : State) (r : BitVec 8) (b : Bool) : (s.setPreg r b).orphans = s.orphans := (rfl)
@[simp] theorem State.setPreg_l2 (s : State) (r : BitVec 8) (b : Bool) : (s.setPreg r b).l2 = s.l2 := (rfl)
@[simp] theorem State.setPreg_errs (s : State) (r : BitVec 8) (b : Bool) : (s.setPreg r b).errs = s.errs := (rfl)
@[simp] theorem State.setPreg_corrections (s : State) (r : BitVec 8) (b : Bool) : (s.setPreg r b).corrections = s.corrections := (rfl)
@[simp] theorem State.setPreg_tagTable (s : State) (r : BitVec 8) (b : Bool) : (s.setPreg r b).tagTable = s.tagTable := (rfl)
@[simp] theorem State.setPreg_packets (s : State) (r : BitVec 8) (b : Bool) : (s.setPreg r b).packets = s.packets := (rfl)
@[simp] theorem State.setPreg_combiners (s : State) (r : BitVec 8) (b : Bool) : (s.setPreg r b).combiners = s.combiners := (rfl)
@[simp] theorem State.setPreg_asleep (s : State) (r : BitVec 8) (b : Bool) : (s.setPreg r b).asleep = s.asleep := (rfl)
@[simp] theorem State.setPreg_tagsIssued (s : State) (r : BitVec 8) (b : Bool) : (s.setPreg r b).tagsIssued = s.tagsIssued := (rfl)
@[simp] theorem State.setPreg_failed (s : State) (r : BitVec 8) (b : Bool) : (s.setPreg r b).failed = s.failed := (rfl)
@[simp] theorem State.setPreg_records (s : State) (r : BitVec 8) (b : Bool) : (s.setPreg r b).records = s.records := (rfl)
@[simp] theorem State.setPreg_notices (s : State) (r : BitVec 8) (b : Bool) : (s.setPreg r b).notices = s.notices := (rfl)
@[simp] theorem State.setPreg_service (s : State) (r : BitVec 8) (b : Bool) : (s.setPreg r b).service = s.service := (rfl)

/-! setKreg. -/

@[simp] theorem State.setKreg_clk (s : State) (r : BitVec 8) (v : Word) : (s.setKreg r v).clk = s.clk := (rfl)
@[simp] theorem State.setKreg_tbase (s : State) (r : BitVec 8) (v : Word) : (s.setKreg r v).tbase = s.tbase := (rfl)
@[simp] theorem State.setKreg_agenda (s : State) (r : BitVec 8) (v : Word) : (s.setKreg r v).agenda = s.agenda := (rfl)
@[simp] theorem State.setKreg_cur (s : State) (r : BitVec 8) (v : Word) : (s.setKreg r v).cur = s.cur := (rfl)
@[simp] theorem State.setKreg_freeCtr (s : State) (r : BitVec 8) (v : Word) : (s.setKreg r v).freeCtr = s.freeCtr := (rfl)
@[simp] theorem State.setKreg_bad (s : State) (r : BitVec 8) (v : Word) : (s.setKreg r v).bad = s.bad := (rfl)
@[simp] theorem State.setKreg_gangs (s : State) (r : BitVec 8) (v : Word) : (s.setKreg r v).gangs = s.gangs := (rfl)
@[simp] theorem State.setKreg_parts (s : State) (r : BitVec 8) (v : Word) : (s.setKreg r v).parts = s.parts := (rfl)
@[simp] theorem State.setKreg_queues (s : State) (r : BitVec 8) (v : Word) : (s.setKreg r v).queues = s.queues := (rfl)
@[simp] theorem State.setKreg_orders (s : State) (r : BitVec 8) (v : Word) : (s.setKreg r v).orders = s.orders := (rfl)
@[simp] theorem State.setKreg_posts (s : State) (r : BitVec 8) (v : Word) : (s.setKreg r v).posts = s.posts := (rfl)
@[simp] theorem State.setKreg_tasks (s : State) (r : BitVec 8) (v : Word) : (s.setKreg r v).tasks = s.tasks := (rfl)
@[simp] theorem State.setKreg_sysc (s : State) (r : BitVec 8) (v : Word) : (s.setKreg r v).sysc = s.sysc := (rfl)
@[simp] theorem State.setKreg_monitors (s : State) (r : BitVec 8) (v : Word) : (s.setKreg r v).monitors = s.monitors := (rfl)
@[simp] theorem State.setKreg_evictions (s : State) (r : BitVec 8) (v : Word) : (s.setKreg r v).evictions = s.evictions := (rfl)
@[simp] theorem State.setKreg_pageRequests (s : State) (r : BitVec 8) (v : Word) : (s.setKreg r v).pageRequests = s.pageRequests := (rfl)
@[simp] theorem State.setKreg_declined (s : State) (r : BitVec 8) (v : Word) : (s.setKreg r v).declined = s.declined := (rfl)
@[simp] theorem State.setKreg_attrCache (s : State) (r : BitVec 8) (v : Word) : (s.setKreg r v).attrCache = s.attrCache := (rfl)
@[simp] theorem State.setKreg_memXlat (s : State) (r : BitVec 8) (v : Word) : (s.setKreg r v).memXlat = s.memXlat := (rfl)
@[simp] theorem State.setKreg_hostXlat (s : State) (r : BitVec 8) (v : Word) : (s.setKreg r v).hostXlat = s.hostXlat := (rfl)
@[simp] theorem State.setKreg_hostAsked (s : State) (r : BitVec 8) (v : Word) : (s.setKreg r v).hostAsked = s.hostAsked := (rfl)
@[simp] theorem State.setKreg_dirs (s : State) (r : BitVec 8) (v : Word) : (s.setKreg r v).dirs = s.dirs := (rfl)
@[simp] theorem State.setKreg_rd (s : State) (r : BitVec 8) (v : Word) : (s.setKreg r v).rd = s.rd := (rfl)
@[simp] theorem State.setKreg_placement (s : State) (r : BitVec 8) (v : Word) : (s.setKreg r v).placement = s.placement := (rfl)
@[simp] theorem State.setKreg_completions (s : State) (r : BitVec 8) (v : Word) : (s.setKreg r v).completions = s.completions := (rfl)
@[simp] theorem State.setKreg_orphans (s : State) (r : BitVec 8) (v : Word) : (s.setKreg r v).orphans = s.orphans := (rfl)
@[simp] theorem State.setKreg_l2 (s : State) (r : BitVec 8) (v : Word) : (s.setKreg r v).l2 = s.l2 := (rfl)
@[simp] theorem State.setKreg_errs (s : State) (r : BitVec 8) (v : Word) : (s.setKreg r v).errs = s.errs := (rfl)
@[simp] theorem State.setKreg_corrections (s : State) (r : BitVec 8) (v : Word) : (s.setKreg r v).corrections = s.corrections := (rfl)
@[simp] theorem State.setKreg_tagTable (s : State) (r : BitVec 8) (v : Word) : (s.setKreg r v).tagTable = s.tagTable := (rfl)
@[simp] theorem State.setKreg_packets (s : State) (r : BitVec 8) (v : Word) : (s.setKreg r v).packets = s.packets := (rfl)
@[simp] theorem State.setKreg_combiners (s : State) (r : BitVec 8) (v : Word) : (s.setKreg r v).combiners = s.combiners := (rfl)
@[simp] theorem State.setKreg_asleep (s : State) (r : BitVec 8) (v : Word) : (s.setKreg r v).asleep = s.asleep := (rfl)
@[simp] theorem State.setKreg_tagsIssued (s : State) (r : BitVec 8) (v : Word) : (s.setKreg r v).tagsIssued = s.tagsIssued := (rfl)
@[simp] theorem State.setKreg_failed (s : State) (r : BitVec 8) (v : Word) : (s.setKreg r v).failed = s.failed := (rfl)
@[simp] theorem State.setKreg_records (s : State) (r : BitVec 8) (v : Word) : (s.setKreg r v).records = s.records := (rfl)
@[simp] theorem State.setKreg_notices (s : State) (r : BitVec 8) (v : Word) : (s.setKreg r v).notices = s.notices := (rfl)
@[simp] theorem State.setKreg_service (s : State) (r : BitVec 8) (v : Word) : (s.setKreg r v).service = s.service := (rfl)

/-! setVreg. -/

@[simp] theorem State.setVreg_clk (s : State) (r : BitVec 8) (v : VReg) : (s.setVreg r v).clk = s.clk := (rfl)
@[simp] theorem State.setVreg_tbase (s : State) (r : BitVec 8) (v : VReg) : (s.setVreg r v).tbase = s.tbase := (rfl)
@[simp] theorem State.setVreg_agenda (s : State) (r : BitVec 8) (v : VReg) : (s.setVreg r v).agenda = s.agenda := (rfl)
@[simp] theorem State.setVreg_cur (s : State) (r : BitVec 8) (v : VReg) : (s.setVreg r v).cur = s.cur := (rfl)
@[simp] theorem State.setVreg_freeCtr (s : State) (r : BitVec 8) (v : VReg) : (s.setVreg r v).freeCtr = s.freeCtr := (rfl)
@[simp] theorem State.setVreg_bad (s : State) (r : BitVec 8) (v : VReg) : (s.setVreg r v).bad = s.bad := (rfl)
@[simp] theorem State.setVreg_gangs (s : State) (r : BitVec 8) (v : VReg) : (s.setVreg r v).gangs = s.gangs := (rfl)
@[simp] theorem State.setVreg_parts (s : State) (r : BitVec 8) (v : VReg) : (s.setVreg r v).parts = s.parts := (rfl)
@[simp] theorem State.setVreg_queues (s : State) (r : BitVec 8) (v : VReg) : (s.setVreg r v).queues = s.queues := (rfl)
@[simp] theorem State.setVreg_orders (s : State) (r : BitVec 8) (v : VReg) : (s.setVreg r v).orders = s.orders := (rfl)
@[simp] theorem State.setVreg_posts (s : State) (r : BitVec 8) (v : VReg) : (s.setVreg r v).posts = s.posts := (rfl)
@[simp] theorem State.setVreg_tasks (s : State) (r : BitVec 8) (v : VReg) : (s.setVreg r v).tasks = s.tasks := (rfl)
@[simp] theorem State.setVreg_sysc (s : State) (r : BitVec 8) (v : VReg) : (s.setVreg r v).sysc = s.sysc := (rfl)
@[simp] theorem State.setVreg_monitors (s : State) (r : BitVec 8) (v : VReg) : (s.setVreg r v).monitors = s.monitors := (rfl)
@[simp] theorem State.setVreg_evictions (s : State) (r : BitVec 8) (v : VReg) : (s.setVreg r v).evictions = s.evictions := (rfl)
@[simp] theorem State.setVreg_pageRequests (s : State) (r : BitVec 8) (v : VReg) : (s.setVreg r v).pageRequests = s.pageRequests := (rfl)
@[simp] theorem State.setVreg_declined (s : State) (r : BitVec 8) (v : VReg) : (s.setVreg r v).declined = s.declined := (rfl)
@[simp] theorem State.setVreg_attrCache (s : State) (r : BitVec 8) (v : VReg) : (s.setVreg r v).attrCache = s.attrCache := (rfl)
@[simp] theorem State.setVreg_memXlat (s : State) (r : BitVec 8) (v : VReg) : (s.setVreg r v).memXlat = s.memXlat := (rfl)
@[simp] theorem State.setVreg_hostXlat (s : State) (r : BitVec 8) (v : VReg) : (s.setVreg r v).hostXlat = s.hostXlat := (rfl)
@[simp] theorem State.setVreg_hostAsked (s : State) (r : BitVec 8) (v : VReg) : (s.setVreg r v).hostAsked = s.hostAsked := (rfl)
@[simp] theorem State.setVreg_dirs (s : State) (r : BitVec 8) (v : VReg) : (s.setVreg r v).dirs = s.dirs := (rfl)
@[simp] theorem State.setVreg_rd (s : State) (r : BitVec 8) (v : VReg) : (s.setVreg r v).rd = s.rd := (rfl)
@[simp] theorem State.setVreg_placement (s : State) (r : BitVec 8) (v : VReg) : (s.setVreg r v).placement = s.placement := (rfl)
@[simp] theorem State.setVreg_completions (s : State) (r : BitVec 8) (v : VReg) : (s.setVreg r v).completions = s.completions := (rfl)
@[simp] theorem State.setVreg_orphans (s : State) (r : BitVec 8) (v : VReg) : (s.setVreg r v).orphans = s.orphans := (rfl)
@[simp] theorem State.setVreg_l2 (s : State) (r : BitVec 8) (v : VReg) : (s.setVreg r v).l2 = s.l2 := (rfl)
@[simp] theorem State.setVreg_errs (s : State) (r : BitVec 8) (v : VReg) : (s.setVreg r v).errs = s.errs := (rfl)
@[simp] theorem State.setVreg_corrections (s : State) (r : BitVec 8) (v : VReg) : (s.setVreg r v).corrections = s.corrections := (rfl)
@[simp] theorem State.setVreg_tagTable (s : State) (r : BitVec 8) (v : VReg) : (s.setVreg r v).tagTable = s.tagTable := (rfl)
@[simp] theorem State.setVreg_packets (s : State) (r : BitVec 8) (v : VReg) : (s.setVreg r v).packets = s.packets := (rfl)
@[simp] theorem State.setVreg_combiners (s : State) (r : BitVec 8) (v : VReg) : (s.setVreg r v).combiners = s.combiners := (rfl)
@[simp] theorem State.setVreg_asleep (s : State) (r : BitVec 8) (v : VReg) : (s.setVreg r v).asleep = s.asleep := (rfl)
@[simp] theorem State.setVreg_tagsIssued (s : State) (r : BitVec 8) (v : VReg) : (s.setVreg r v).tagsIssued = s.tagsIssued := (rfl)
@[simp] theorem State.setVreg_failed (s : State) (r : BitVec 8) (v : VReg) : (s.setVreg r v).failed = s.failed := (rfl)
@[simp] theorem State.setVreg_records (s : State) (r : BitVec 8) (v : VReg) : (s.setVreg r v).records = s.records := (rfl)
@[simp] theorem State.setVreg_notices (s : State) (r : BitVec 8) (v : VReg) : (s.setVreg r v).notices = s.notices := (rfl)
@[simp] theorem State.setVreg_service (s : State) (r : BitVec 8) (v : VReg) : (s.setVreg r v).service = s.service := (rfl)

/-! setTreg. -/

@[simp] theorem State.setTreg_clk (s : State) (r : BitVec 8) (v : Tile) : (s.setTreg r v).clk = s.clk := (rfl)
@[simp] theorem State.setTreg_tbase (s : State) (r : BitVec 8) (v : Tile) : (s.setTreg r v).tbase = s.tbase := (rfl)
@[simp] theorem State.setTreg_agenda (s : State) (r : BitVec 8) (v : Tile) : (s.setTreg r v).agenda = s.agenda := (rfl)
@[simp] theorem State.setTreg_cur (s : State) (r : BitVec 8) (v : Tile) : (s.setTreg r v).cur = s.cur := (rfl)
@[simp] theorem State.setTreg_freeCtr (s : State) (r : BitVec 8) (v : Tile) : (s.setTreg r v).freeCtr = s.freeCtr := (rfl)
@[simp] theorem State.setTreg_bad (s : State) (r : BitVec 8) (v : Tile) : (s.setTreg r v).bad = s.bad := (rfl)
@[simp] theorem State.setTreg_gangs (s : State) (r : BitVec 8) (v : Tile) : (s.setTreg r v).gangs = s.gangs := (rfl)
@[simp] theorem State.setTreg_parts (s : State) (r : BitVec 8) (v : Tile) : (s.setTreg r v).parts = s.parts := (rfl)
@[simp] theorem State.setTreg_queues (s : State) (r : BitVec 8) (v : Tile) : (s.setTreg r v).queues = s.queues := (rfl)
@[simp] theorem State.setTreg_orders (s : State) (r : BitVec 8) (v : Tile) : (s.setTreg r v).orders = s.orders := (rfl)
@[simp] theorem State.setTreg_posts (s : State) (r : BitVec 8) (v : Tile) : (s.setTreg r v).posts = s.posts := (rfl)
@[simp] theorem State.setTreg_tasks (s : State) (r : BitVec 8) (v : Tile) : (s.setTreg r v).tasks = s.tasks := (rfl)
@[simp] theorem State.setTreg_sysc (s : State) (r : BitVec 8) (v : Tile) : (s.setTreg r v).sysc = s.sysc := (rfl)
@[simp] theorem State.setTreg_monitors (s : State) (r : BitVec 8) (v : Tile) : (s.setTreg r v).monitors = s.monitors := (rfl)
@[simp] theorem State.setTreg_evictions (s : State) (r : BitVec 8) (v : Tile) : (s.setTreg r v).evictions = s.evictions := (rfl)
@[simp] theorem State.setTreg_pageRequests (s : State) (r : BitVec 8) (v : Tile) : (s.setTreg r v).pageRequests = s.pageRequests := (rfl)
@[simp] theorem State.setTreg_declined (s : State) (r : BitVec 8) (v : Tile) : (s.setTreg r v).declined = s.declined := (rfl)
@[simp] theorem State.setTreg_attrCache (s : State) (r : BitVec 8) (v : Tile) : (s.setTreg r v).attrCache = s.attrCache := (rfl)
@[simp] theorem State.setTreg_memXlat (s : State) (r : BitVec 8) (v : Tile) : (s.setTreg r v).memXlat = s.memXlat := (rfl)
@[simp] theorem State.setTreg_hostXlat (s : State) (r : BitVec 8) (v : Tile) : (s.setTreg r v).hostXlat = s.hostXlat := (rfl)
@[simp] theorem State.setTreg_hostAsked (s : State) (r : BitVec 8) (v : Tile) : (s.setTreg r v).hostAsked = s.hostAsked := (rfl)
@[simp] theorem State.setTreg_dirs (s : State) (r : BitVec 8) (v : Tile) : (s.setTreg r v).dirs = s.dirs := (rfl)
@[simp] theorem State.setTreg_rd (s : State) (r : BitVec 8) (v : Tile) : (s.setTreg r v).rd = s.rd := (rfl)
@[simp] theorem State.setTreg_placement (s : State) (r : BitVec 8) (v : Tile) : (s.setTreg r v).placement = s.placement := (rfl)
@[simp] theorem State.setTreg_completions (s : State) (r : BitVec 8) (v : Tile) : (s.setTreg r v).completions = s.completions := (rfl)
@[simp] theorem State.setTreg_orphans (s : State) (r : BitVec 8) (v : Tile) : (s.setTreg r v).orphans = s.orphans := (rfl)
@[simp] theorem State.setTreg_l2 (s : State) (r : BitVec 8) (v : Tile) : (s.setTreg r v).l2 = s.l2 := (rfl)
@[simp] theorem State.setTreg_errs (s : State) (r : BitVec 8) (v : Tile) : (s.setTreg r v).errs = s.errs := (rfl)
@[simp] theorem State.setTreg_corrections (s : State) (r : BitVec 8) (v : Tile) : (s.setTreg r v).corrections = s.corrections := (rfl)
@[simp] theorem State.setTreg_tagTable (s : State) (r : BitVec 8) (v : Tile) : (s.setTreg r v).tagTable = s.tagTable := (rfl)
@[simp] theorem State.setTreg_packets (s : State) (r : BitVec 8) (v : Tile) : (s.setTreg r v).packets = s.packets := (rfl)
@[simp] theorem State.setTreg_combiners (s : State) (r : BitVec 8) (v : Tile) : (s.setTreg r v).combiners = s.combiners := (rfl)
@[simp] theorem State.setTreg_asleep (s : State) (r : BitVec 8) (v : Tile) : (s.setTreg r v).asleep = s.asleep := (rfl)
@[simp] theorem State.setTreg_tagsIssued (s : State) (r : BitVec 8) (v : Tile) : (s.setTreg r v).tagsIssued = s.tagsIssued := (rfl)
@[simp] theorem State.setTreg_failed (s : State) (r : BitVec 8) (v : Tile) : (s.setTreg r v).failed = s.failed := (rfl)
@[simp] theorem State.setTreg_records (s : State) (r : BitVec 8) (v : Tile) : (s.setTreg r v).records = s.records := (rfl)
@[simp] theorem State.setTreg_notices (s : State) (r : BitVec 8) (v : Tile) : (s.setTreg r v).notices = s.notices := (rfl)
@[simp] theorem State.setTreg_service (s : State) (r : BitVec 8) (v : Tile) : (s.setTreg r v).service = s.service := (rfl)

/-! goTo. -/

@[simp] theorem State.goTo_clk (s : State) (pc : Word) : (s.goTo pc).clk = s.clk := (rfl)
@[simp] theorem State.goTo_tbase (s : State) (pc : Word) : (s.goTo pc).tbase = s.tbase := (rfl)
@[simp] theorem State.goTo_agenda (s : State) (pc : Word) : (s.goTo pc).agenda = s.agenda := (rfl)
@[simp] theorem State.goTo_cur (s : State) (pc : Word) : (s.goTo pc).cur = s.cur := (rfl)
@[simp] theorem State.goTo_freeCtr (s : State) (pc : Word) : (s.goTo pc).freeCtr = s.freeCtr := (rfl)
@[simp] theorem State.goTo_bad (s : State) (pc : Word) : (s.goTo pc).bad = s.bad := (rfl)
@[simp] theorem State.goTo_gangs (s : State) (pc : Word) : (s.goTo pc).gangs = s.gangs := (rfl)
@[simp] theorem State.goTo_parts (s : State) (pc : Word) : (s.goTo pc).parts = s.parts := (rfl)
@[simp] theorem State.goTo_queues (s : State) (pc : Word) : (s.goTo pc).queues = s.queues := (rfl)
@[simp] theorem State.goTo_orders (s : State) (pc : Word) : (s.goTo pc).orders = s.orders := (rfl)
@[simp] theorem State.goTo_posts (s : State) (pc : Word) : (s.goTo pc).posts = s.posts := (rfl)
@[simp] theorem State.goTo_tasks (s : State) (pc : Word) : (s.goTo pc).tasks = s.tasks := (rfl)
@[simp] theorem State.goTo_sysc (s : State) (pc : Word) : (s.goTo pc).sysc = s.sysc := (rfl)
@[simp] theorem State.goTo_monitors (s : State) (pc : Word) : (s.goTo pc).monitors = s.monitors := (rfl)
@[simp] theorem State.goTo_evictions (s : State) (pc : Word) : (s.goTo pc).evictions = s.evictions := (rfl)
@[simp] theorem State.goTo_pageRequests (s : State) (pc : Word) : (s.goTo pc).pageRequests = s.pageRequests := (rfl)
@[simp] theorem State.goTo_declined (s : State) (pc : Word) : (s.goTo pc).declined = s.declined := (rfl)
@[simp] theorem State.goTo_attrCache (s : State) (pc : Word) : (s.goTo pc).attrCache = s.attrCache := (rfl)
@[simp] theorem State.goTo_memXlat (s : State) (pc : Word) : (s.goTo pc).memXlat = s.memXlat := (rfl)
@[simp] theorem State.goTo_hostXlat (s : State) (pc : Word) : (s.goTo pc).hostXlat = s.hostXlat := (rfl)
@[simp] theorem State.goTo_hostAsked (s : State) (pc : Word) : (s.goTo pc).hostAsked = s.hostAsked := (rfl)
@[simp] theorem State.goTo_dirs (s : State) (pc : Word) : (s.goTo pc).dirs = s.dirs := (rfl)
@[simp] theorem State.goTo_rd (s : State) (pc : Word) : (s.goTo pc).rd = s.rd := (rfl)
@[simp] theorem State.goTo_placement (s : State) (pc : Word) : (s.goTo pc).placement = s.placement := (rfl)
@[simp] theorem State.goTo_completions (s : State) (pc : Word) : (s.goTo pc).completions = s.completions := (rfl)
@[simp] theorem State.goTo_orphans (s : State) (pc : Word) : (s.goTo pc).orphans = s.orphans := (rfl)
@[simp] theorem State.goTo_l2 (s : State) (pc : Word) : (s.goTo pc).l2 = s.l2 := (rfl)
@[simp] theorem State.goTo_errs (s : State) (pc : Word) : (s.goTo pc).errs = s.errs := (rfl)
@[simp] theorem State.goTo_corrections (s : State) (pc : Word) : (s.goTo pc).corrections = s.corrections := (rfl)
@[simp] theorem State.goTo_tagTable (s : State) (pc : Word) : (s.goTo pc).tagTable = s.tagTable := (rfl)
@[simp] theorem State.goTo_packets (s : State) (pc : Word) : (s.goTo pc).packets = s.packets := (rfl)
@[simp] theorem State.goTo_combiners (s : State) (pc : Word) : (s.goTo pc).combiners = s.combiners := (rfl)
@[simp] theorem State.goTo_asleep (s : State) (pc : Word) : (s.goTo pc).asleep = s.asleep := (rfl)
@[simp] theorem State.goTo_tagsIssued (s : State) (pc : Word) : (s.goTo pc).tagsIssued = s.tagsIssued := (rfl)
@[simp] theorem State.goTo_failed (s : State) (pc : Word) : (s.goTo pc).failed = s.failed := (rfl)
@[simp] theorem State.goTo_records (s : State) (pc : Word) : (s.goTo pc).records = s.records := (rfl)
@[simp] theorem State.goTo_notices (s : State) (pc : Word) : (s.goTo pc).notices = s.notices := (rfl)
@[simp] theorem State.goTo_service (s : State) (pc : Word) : (s.goTo pc).service = s.service := (rfl)

/-! advance. -/

@[simp] theorem State.advance_clk (s : State) : (s.advance).clk = s.clk := (rfl)
@[simp] theorem State.advance_tbase (s : State) : (s.advance).tbase = s.tbase := (rfl)
@[simp] theorem State.advance_agenda (s : State) : (s.advance).agenda = s.agenda := (rfl)
@[simp] theorem State.advance_cur (s : State) : (s.advance).cur = s.cur := (rfl)
@[simp] theorem State.advance_freeCtr (s : State) : (s.advance).freeCtr = s.freeCtr := (rfl)
@[simp] theorem State.advance_bad (s : State) : (s.advance).bad = s.bad := (rfl)
@[simp] theorem State.advance_gangs (s : State) : (s.advance).gangs = s.gangs := (rfl)
@[simp] theorem State.advance_parts (s : State) : (s.advance).parts = s.parts := (rfl)
@[simp] theorem State.advance_queues (s : State) : (s.advance).queues = s.queues := (rfl)
@[simp] theorem State.advance_orders (s : State) : (s.advance).orders = s.orders := (rfl)
@[simp] theorem State.advance_posts (s : State) : (s.advance).posts = s.posts := (rfl)
@[simp] theorem State.advance_tasks (s : State) : (s.advance).tasks = s.tasks := (rfl)
@[simp] theorem State.advance_sysc (s : State) : (s.advance).sysc = s.sysc := (rfl)
@[simp] theorem State.advance_monitors (s : State) : (s.advance).monitors = s.monitors := (rfl)
@[simp] theorem State.advance_evictions (s : State) : (s.advance).evictions = s.evictions := (rfl)
@[simp] theorem State.advance_pageRequests (s : State) : (s.advance).pageRequests = s.pageRequests := (rfl)
@[simp] theorem State.advance_declined (s : State) : (s.advance).declined = s.declined := (rfl)
@[simp] theorem State.advance_attrCache (s : State) : (s.advance).attrCache = s.attrCache := (rfl)
@[simp] theorem State.advance_memXlat (s : State) : (s.advance).memXlat = s.memXlat := (rfl)
@[simp] theorem State.advance_hostXlat (s : State) : (s.advance).hostXlat = s.hostXlat := (rfl)
@[simp] theorem State.advance_hostAsked (s : State) : (s.advance).hostAsked = s.hostAsked := (rfl)
@[simp] theorem State.advance_dirs (s : State) : (s.advance).dirs = s.dirs := (rfl)
@[simp] theorem State.advance_rd (s : State) : (s.advance).rd = s.rd := (rfl)
@[simp] theorem State.advance_placement (s : State) : (s.advance).placement = s.placement := (rfl)
@[simp] theorem State.advance_completions (s : State) : (s.advance).completions = s.completions := (rfl)
@[simp] theorem State.advance_orphans (s : State) : (s.advance).orphans = s.orphans := (rfl)
@[simp] theorem State.advance_l2 (s : State) : (s.advance).l2 = s.l2 := (rfl)
@[simp] theorem State.advance_errs (s : State) : (s.advance).errs = s.errs := (rfl)
@[simp] theorem State.advance_corrections (s : State) : (s.advance).corrections = s.corrections := (rfl)
@[simp] theorem State.advance_tagTable (s : State) : (s.advance).tagTable = s.tagTable := (rfl)
@[simp] theorem State.advance_packets (s : State) : (s.advance).packets = s.packets := (rfl)
@[simp] theorem State.advance_combiners (s : State) : (s.advance).combiners = s.combiners := (rfl)
@[simp] theorem State.advance_asleep (s : State) : (s.advance).asleep = s.asleep := (rfl)
@[simp] theorem State.advance_tagsIssued (s : State) : (s.advance).tagsIssued = s.tagsIssued := (rfl)
@[simp] theorem State.advance_failed (s : State) : (s.advance).failed = s.failed := (rfl)
@[simp] theorem State.advance_records (s : State) : (s.advance).records = s.records := (rfl)
@[simp] theorem State.advance_notices (s : State) : (s.advance).notices = s.notices := (rfl)
@[simp] theorem State.advance_service (s : State) : (s.advance).service = s.service := (rfl)

/-! modGang. -/

@[simp] theorem State.modGang_clk (s : State) (gid : BitVec 16) (f : Gang → Gang) : (s.modGang gid f).clk = s.clk := (rfl)
@[simp] theorem State.modGang_tbase (s : State) (gid : BitVec 16) (f : Gang → Gang) : (s.modGang gid f).tbase = s.tbase := (rfl)
@[simp] theorem State.modGang_agenda (s : State) (gid : BitVec 16) (f : Gang → Gang) : (s.modGang gid f).agenda = s.agenda := (rfl)
@[simp] theorem State.modGang_cur (s : State) (gid : BitVec 16) (f : Gang → Gang) : (s.modGang gid f).cur = s.cur := (rfl)
@[simp] theorem State.modGang_freeCtr (s : State) (gid : BitVec 16) (f : Gang → Gang) : (s.modGang gid f).freeCtr = s.freeCtr := (rfl)
@[simp] theorem State.modGang_bad (s : State) (gid : BitVec 16) (f : Gang → Gang) : (s.modGang gid f).bad = s.bad := (rfl)
@[simp] theorem State.modGang_cores (s : State) (gid : BitVec 16) (f : Gang → Gang) : (s.modGang gid f).cores = s.cores := (rfl)
@[simp] theorem State.modGang_parts (s : State) (gid : BitVec 16) (f : Gang → Gang) : (s.modGang gid f).parts = s.parts := (rfl)
@[simp] theorem State.modGang_queues (s : State) (gid : BitVec 16) (f : Gang → Gang) : (s.modGang gid f).queues = s.queues := (rfl)
@[simp] theorem State.modGang_orders (s : State) (gid : BitVec 16) (f : Gang → Gang) : (s.modGang gid f).orders = s.orders := (rfl)
@[simp] theorem State.modGang_posts (s : State) (gid : BitVec 16) (f : Gang → Gang) : (s.modGang gid f).posts = s.posts := (rfl)
@[simp] theorem State.modGang_tasks (s : State) (gid : BitVec 16) (f : Gang → Gang) : (s.modGang gid f).tasks = s.tasks := (rfl)
@[simp] theorem State.modGang_sysc (s : State) (gid : BitVec 16) (f : Gang → Gang) : (s.modGang gid f).sysc = s.sysc := (rfl)
@[simp] theorem State.modGang_monitors (s : State) (gid : BitVec 16) (f : Gang → Gang) : (s.modGang gid f).monitors = s.monitors := (rfl)
@[simp] theorem State.modGang_evictions (s : State) (gid : BitVec 16) (f : Gang → Gang) : (s.modGang gid f).evictions = s.evictions := (rfl)
@[simp] theorem State.modGang_pageRequests (s : State) (gid : BitVec 16) (f : Gang → Gang) : (s.modGang gid f).pageRequests = s.pageRequests := (rfl)
@[simp] theorem State.modGang_declined (s : State) (gid : BitVec 16) (f : Gang → Gang) : (s.modGang gid f).declined = s.declined := (rfl)
@[simp] theorem State.modGang_attrCache (s : State) (gid : BitVec 16) (f : Gang → Gang) : (s.modGang gid f).attrCache = s.attrCache := (rfl)
@[simp] theorem State.modGang_memXlat (s : State) (gid : BitVec 16) (f : Gang → Gang) : (s.modGang gid f).memXlat = s.memXlat := (rfl)
@[simp] theorem State.modGang_hostXlat (s : State) (gid : BitVec 16) (f : Gang → Gang) : (s.modGang gid f).hostXlat = s.hostXlat := (rfl)
@[simp] theorem State.modGang_hostAsked (s : State) (gid : BitVec 16) (f : Gang → Gang) : (s.modGang gid f).hostAsked = s.hostAsked := (rfl)
@[simp] theorem State.modGang_dirs (s : State) (gid : BitVec 16) (f : Gang → Gang) : (s.modGang gid f).dirs = s.dirs := (rfl)
@[simp] theorem State.modGang_rd (s : State) (gid : BitVec 16) (f : Gang → Gang) : (s.modGang gid f).rd = s.rd := (rfl)
@[simp] theorem State.modGang_placement (s : State) (gid : BitVec 16) (f : Gang → Gang) : (s.modGang gid f).placement = s.placement := (rfl)
@[simp] theorem State.modGang_completions (s : State) (gid : BitVec 16) (f : Gang → Gang) : (s.modGang gid f).completions = s.completions := (rfl)
@[simp] theorem State.modGang_orphans (s : State) (gid : BitVec 16) (f : Gang → Gang) : (s.modGang gid f).orphans = s.orphans := (rfl)
@[simp] theorem State.modGang_l2 (s : State) (gid : BitVec 16) (f : Gang → Gang) : (s.modGang gid f).l2 = s.l2 := (rfl)
@[simp] theorem State.modGang_errs (s : State) (gid : BitVec 16) (f : Gang → Gang) : (s.modGang gid f).errs = s.errs := (rfl)
@[simp] theorem State.modGang_corrections (s : State) (gid : BitVec 16) (f : Gang → Gang) : (s.modGang gid f).corrections = s.corrections := (rfl)
@[simp] theorem State.modGang_tagTable (s : State) (gid : BitVec 16) (f : Gang → Gang) : (s.modGang gid f).tagTable = s.tagTable := (rfl)
@[simp] theorem State.modGang_packets (s : State) (gid : BitVec 16) (f : Gang → Gang) : (s.modGang gid f).packets = s.packets := (rfl)
@[simp] theorem State.modGang_combiners (s : State) (gid : BitVec 16) (f : Gang → Gang) : (s.modGang gid f).combiners = s.combiners := (rfl)
@[simp] theorem State.modGang_asleep (s : State) (gid : BitVec 16) (f : Gang → Gang) : (s.modGang gid f).asleep = s.asleep := (rfl)
@[simp] theorem State.modGang_tagsIssued (s : State) (gid : BitVec 16) (f : Gang → Gang) : (s.modGang gid f).tagsIssued = s.tagsIssued := (rfl)
@[simp] theorem State.modGang_failed (s : State) (gid : BitVec 16) (f : Gang → Gang) : (s.modGang gid f).failed = s.failed := (rfl)
@[simp] theorem State.modGang_records (s : State) (gid : BitVec 16) (f : Gang → Gang) : (s.modGang gid f).records = s.records := (rfl)
@[simp] theorem State.modGang_notices (s : State) (gid : BitVec 16) (f : Gang → Gang) : (s.modGang gid f).notices = s.notices := (rfl)
@[simp] theorem State.modGang_service (s : State) (gid : BitVec 16) (f : Gang → Gang) : (s.modGang gid f).service = s.service := (rfl)

/-! modPart. -/

@[simp] theorem State.modPart_clk (s : State) (q : Nat) (f : Partition → Partition) : (s.modPart q f).clk = s.clk := (rfl)
@[simp] theorem State.modPart_tbase (s : State) (q : Nat) (f : Partition → Partition) : (s.modPart q f).tbase = s.tbase := (rfl)
@[simp] theorem State.modPart_agenda (s : State) (q : Nat) (f : Partition → Partition) : (s.modPart q f).agenda = s.agenda := (rfl)
@[simp] theorem State.modPart_cur (s : State) (q : Nat) (f : Partition → Partition) : (s.modPart q f).cur = s.cur := (rfl)
@[simp] theorem State.modPart_freeCtr (s : State) (q : Nat) (f : Partition → Partition) : (s.modPart q f).freeCtr = s.freeCtr := (rfl)
@[simp] theorem State.modPart_bad (s : State) (q : Nat) (f : Partition → Partition) : (s.modPart q f).bad = s.bad := (rfl)
@[simp] theorem State.modPart_cores (s : State) (q : Nat) (f : Partition → Partition) : (s.modPart q f).cores = s.cores := (rfl)
@[simp] theorem State.modPart_gangs (s : State) (q : Nat) (f : Partition → Partition) : (s.modPart q f).gangs = s.gangs := (rfl)
@[simp] theorem State.modPart_queues (s : State) (q : Nat) (f : Partition → Partition) : (s.modPart q f).queues = s.queues := (rfl)
@[simp] theorem State.modPart_orders (s : State) (q : Nat) (f : Partition → Partition) : (s.modPart q f).orders = s.orders := (rfl)
@[simp] theorem State.modPart_posts (s : State) (q : Nat) (f : Partition → Partition) : (s.modPart q f).posts = s.posts := (rfl)
@[simp] theorem State.modPart_tasks (s : State) (q : Nat) (f : Partition → Partition) : (s.modPart q f).tasks = s.tasks := (rfl)
@[simp] theorem State.modPart_sysc (s : State) (q : Nat) (f : Partition → Partition) : (s.modPart q f).sysc = s.sysc := (rfl)
@[simp] theorem State.modPart_monitors (s : State) (q : Nat) (f : Partition → Partition) : (s.modPart q f).monitors = s.monitors := (rfl)
@[simp] theorem State.modPart_evictions (s : State) (q : Nat) (f : Partition → Partition) : (s.modPart q f).evictions = s.evictions := (rfl)
@[simp] theorem State.modPart_pageRequests (s : State) (q : Nat) (f : Partition → Partition) : (s.modPart q f).pageRequests = s.pageRequests := (rfl)
@[simp] theorem State.modPart_declined (s : State) (q : Nat) (f : Partition → Partition) : (s.modPart q f).declined = s.declined := (rfl)
@[simp] theorem State.modPart_attrCache (s : State) (q : Nat) (f : Partition → Partition) : (s.modPart q f).attrCache = s.attrCache := (rfl)
@[simp] theorem State.modPart_memXlat (s : State) (q : Nat) (f : Partition → Partition) : (s.modPart q f).memXlat = s.memXlat := (rfl)
@[simp] theorem State.modPart_hostXlat (s : State) (q : Nat) (f : Partition → Partition) : (s.modPart q f).hostXlat = s.hostXlat := (rfl)
@[simp] theorem State.modPart_hostAsked (s : State) (q : Nat) (f : Partition → Partition) : (s.modPart q f).hostAsked = s.hostAsked := (rfl)
@[simp] theorem State.modPart_dirs (s : State) (q : Nat) (f : Partition → Partition) : (s.modPart q f).dirs = s.dirs := (rfl)
@[simp] theorem State.modPart_rd (s : State) (q : Nat) (f : Partition → Partition) : (s.modPart q f).rd = s.rd := (rfl)
@[simp] theorem State.modPart_placement (s : State) (q : Nat) (f : Partition → Partition) : (s.modPart q f).placement = s.placement := (rfl)
@[simp] theorem State.modPart_completions (s : State) (q : Nat) (f : Partition → Partition) : (s.modPart q f).completions = s.completions := (rfl)
@[simp] theorem State.modPart_orphans (s : State) (q : Nat) (f : Partition → Partition) : (s.modPart q f).orphans = s.orphans := (rfl)
@[simp] theorem State.modPart_l2 (s : State) (q : Nat) (f : Partition → Partition) : (s.modPart q f).l2 = s.l2 := (rfl)
@[simp] theorem State.modPart_errs (s : State) (q : Nat) (f : Partition → Partition) : (s.modPart q f).errs = s.errs := (rfl)
@[simp] theorem State.modPart_corrections (s : State) (q : Nat) (f : Partition → Partition) : (s.modPart q f).corrections = s.corrections := (rfl)
@[simp] theorem State.modPart_tagTable (s : State) (q : Nat) (f : Partition → Partition) : (s.modPart q f).tagTable = s.tagTable := (rfl)
@[simp] theorem State.modPart_packets (s : State) (q : Nat) (f : Partition → Partition) : (s.modPart q f).packets = s.packets := (rfl)
@[simp] theorem State.modPart_combiners (s : State) (q : Nat) (f : Partition → Partition) : (s.modPart q f).combiners = s.combiners := (rfl)
@[simp] theorem State.modPart_asleep (s : State) (q : Nat) (f : Partition → Partition) : (s.modPart q f).asleep = s.asleep := (rfl)
@[simp] theorem State.modPart_tagsIssued (s : State) (q : Nat) (f : Partition → Partition) : (s.modPart q f).tagsIssued = s.tagsIssued := (rfl)
@[simp] theorem State.modPart_failed (s : State) (q : Nat) (f : Partition → Partition) : (s.modPart q f).failed = s.failed := (rfl)
@[simp] theorem State.modPart_records (s : State) (q : Nat) (f : Partition → Partition) : (s.modPart q f).records = s.records := (rfl)
@[simp] theorem State.modPart_notices (s : State) (q : Nat) (f : Partition → Partition) : (s.modPart q f).notices = s.notices := (rfl)
@[simp] theorem State.modPart_service (s : State) (q : Nat) (f : Partition → Partition) : (s.modPart q f).service = s.service := (rfl)

/-! modQueue. -/

@[simp] theorem State.modQueue_clk (s : State) (q : Nat) (f : Queue → Queue) : (s.modQueue q f).clk = s.clk := (rfl)
@[simp] theorem State.modQueue_tbase (s : State) (q : Nat) (f : Queue → Queue) : (s.modQueue q f).tbase = s.tbase := (rfl)
@[simp] theorem State.modQueue_agenda (s : State) (q : Nat) (f : Queue → Queue) : (s.modQueue q f).agenda = s.agenda := (rfl)
@[simp] theorem State.modQueue_cur (s : State) (q : Nat) (f : Queue → Queue) : (s.modQueue q f).cur = s.cur := (rfl)
@[simp] theorem State.modQueue_freeCtr (s : State) (q : Nat) (f : Queue → Queue) : (s.modQueue q f).freeCtr = s.freeCtr := (rfl)
@[simp] theorem State.modQueue_bad (s : State) (q : Nat) (f : Queue → Queue) : (s.modQueue q f).bad = s.bad := (rfl)
@[simp] theorem State.modQueue_cores (s : State) (q : Nat) (f : Queue → Queue) : (s.modQueue q f).cores = s.cores := (rfl)
@[simp] theorem State.modQueue_gangs (s : State) (q : Nat) (f : Queue → Queue) : (s.modQueue q f).gangs = s.gangs := (rfl)
@[simp] theorem State.modQueue_parts (s : State) (q : Nat) (f : Queue → Queue) : (s.modQueue q f).parts = s.parts := (rfl)
@[simp] theorem State.modQueue_orders (s : State) (q : Nat) (f : Queue → Queue) : (s.modQueue q f).orders = s.orders := (rfl)
@[simp] theorem State.modQueue_posts (s : State) (q : Nat) (f : Queue → Queue) : (s.modQueue q f).posts = s.posts := (rfl)
@[simp] theorem State.modQueue_tasks (s : State) (q : Nat) (f : Queue → Queue) : (s.modQueue q f).tasks = s.tasks := (rfl)
@[simp] theorem State.modQueue_sysc (s : State) (q : Nat) (f : Queue → Queue) : (s.modQueue q f).sysc = s.sysc := (rfl)
@[simp] theorem State.modQueue_monitors (s : State) (q : Nat) (f : Queue → Queue) : (s.modQueue q f).monitors = s.monitors := (rfl)
@[simp] theorem State.modQueue_evictions (s : State) (q : Nat) (f : Queue → Queue) : (s.modQueue q f).evictions = s.evictions := (rfl)
@[simp] theorem State.modQueue_pageRequests (s : State) (q : Nat) (f : Queue → Queue) : (s.modQueue q f).pageRequests = s.pageRequests := (rfl)
@[simp] theorem State.modQueue_declined (s : State) (q : Nat) (f : Queue → Queue) : (s.modQueue q f).declined = s.declined := (rfl)
@[simp] theorem State.modQueue_attrCache (s : State) (q : Nat) (f : Queue → Queue) : (s.modQueue q f).attrCache = s.attrCache := (rfl)
@[simp] theorem State.modQueue_memXlat (s : State) (q : Nat) (f : Queue → Queue) : (s.modQueue q f).memXlat = s.memXlat := (rfl)
@[simp] theorem State.modQueue_hostXlat (s : State) (q : Nat) (f : Queue → Queue) : (s.modQueue q f).hostXlat = s.hostXlat := (rfl)
@[simp] theorem State.modQueue_hostAsked (s : State) (q : Nat) (f : Queue → Queue) : (s.modQueue q f).hostAsked = s.hostAsked := (rfl)
@[simp] theorem State.modQueue_dirs (s : State) (q : Nat) (f : Queue → Queue) : (s.modQueue q f).dirs = s.dirs := (rfl)
@[simp] theorem State.modQueue_rd (s : State) (q : Nat) (f : Queue → Queue) : (s.modQueue q f).rd = s.rd := (rfl)
@[simp] theorem State.modQueue_placement (s : State) (q : Nat) (f : Queue → Queue) : (s.modQueue q f).placement = s.placement := (rfl)
@[simp] theorem State.modQueue_completions (s : State) (q : Nat) (f : Queue → Queue) : (s.modQueue q f).completions = s.completions := (rfl)
@[simp] theorem State.modQueue_orphans (s : State) (q : Nat) (f : Queue → Queue) : (s.modQueue q f).orphans = s.orphans := (rfl)
@[simp] theorem State.modQueue_l2 (s : State) (q : Nat) (f : Queue → Queue) : (s.modQueue q f).l2 = s.l2 := (rfl)
@[simp] theorem State.modQueue_errs (s : State) (q : Nat) (f : Queue → Queue) : (s.modQueue q f).errs = s.errs := (rfl)
@[simp] theorem State.modQueue_corrections (s : State) (q : Nat) (f : Queue → Queue) : (s.modQueue q f).corrections = s.corrections := (rfl)
@[simp] theorem State.modQueue_tagTable (s : State) (q : Nat) (f : Queue → Queue) : (s.modQueue q f).tagTable = s.tagTable := (rfl)
@[simp] theorem State.modQueue_packets (s : State) (q : Nat) (f : Queue → Queue) : (s.modQueue q f).packets = s.packets := (rfl)
@[simp] theorem State.modQueue_combiners (s : State) (q : Nat) (f : Queue → Queue) : (s.modQueue q f).combiners = s.combiners := (rfl)
@[simp] theorem State.modQueue_asleep (s : State) (q : Nat) (f : Queue → Queue) : (s.modQueue q f).asleep = s.asleep := (rfl)
@[simp] theorem State.modQueue_tagsIssued (s : State) (q : Nat) (f : Queue → Queue) : (s.modQueue q f).tagsIssued = s.tagsIssued := (rfl)
@[simp] theorem State.modQueue_failed (s : State) (q : Nat) (f : Queue → Queue) : (s.modQueue q f).failed = s.failed := (rfl)
@[simp] theorem State.modQueue_records (s : State) (q : Nat) (f : Queue → Queue) : (s.modQueue q f).records = s.records := (rfl)
@[simp] theorem State.modQueue_notices (s : State) (q : Nat) (f : Queue → Queue) : (s.modQueue q f).notices = s.notices := (rfl)
@[simp] theorem State.modQueue_service (s : State) (q : Nat) (f : Queue → Queue) : (s.modQueue q f).service = s.service := (rfl)

/-! touch. -/

@[simp] theorem State.touch_clk (s : State) (loc : Nat) : (s.touch loc).clk = s.clk := (rfl)
@[simp] theorem State.touch_tbase (s : State) (loc : Nat) : (s.touch loc).tbase = s.tbase := (rfl)
@[simp] theorem State.touch_agenda (s : State) (loc : Nat) : (s.touch loc).agenda = s.agenda := (rfl)
@[simp] theorem State.touch_cur (s : State) (loc : Nat) : (s.touch loc).cur = s.cur := (rfl)
@[simp] theorem State.touch_freeCtr (s : State) (loc : Nat) : (s.touch loc).freeCtr = s.freeCtr := (rfl)
@[simp] theorem State.touch_bad (s : State) (loc : Nat) : (s.touch loc).bad = s.bad := (rfl)
@[simp] theorem State.touch_cores (s : State) (loc : Nat) : (s.touch loc).cores = s.cores := (rfl)
@[simp] theorem State.touch_gangs (s : State) (loc : Nat) : (s.touch loc).gangs = s.gangs := (rfl)
@[simp] theorem State.touch_parts (s : State) (loc : Nat) : (s.touch loc).parts = s.parts := (rfl)
@[simp] theorem State.touch_queues (s : State) (loc : Nat) : (s.touch loc).queues = s.queues := (rfl)
@[simp] theorem State.touch_orders (s : State) (loc : Nat) : (s.touch loc).orders = s.orders := (rfl)
@[simp] theorem State.touch_posts (s : State) (loc : Nat) : (s.touch loc).posts = s.posts := (rfl)
@[simp] theorem State.touch_tasks (s : State) (loc : Nat) : (s.touch loc).tasks = s.tasks := (rfl)
@[simp] theorem State.touch_sysc (s : State) (loc : Nat) : (s.touch loc).sysc = s.sysc := (rfl)
@[simp] theorem State.touch_pageRequests (s : State) (loc : Nat) : (s.touch loc).pageRequests = s.pageRequests := (rfl)
@[simp] theorem State.touch_declined (s : State) (loc : Nat) : (s.touch loc).declined = s.declined := (rfl)
@[simp] theorem State.touch_attrCache (s : State) (loc : Nat) : (s.touch loc).attrCache = s.attrCache := (rfl)
@[simp] theorem State.touch_memXlat (s : State) (loc : Nat) : (s.touch loc).memXlat = s.memXlat := (rfl)
@[simp] theorem State.touch_hostXlat (s : State) (loc : Nat) : (s.touch loc).hostXlat = s.hostXlat := (rfl)
@[simp] theorem State.touch_hostAsked (s : State) (loc : Nat) : (s.touch loc).hostAsked = s.hostAsked := (rfl)
@[simp] theorem State.touch_dirs (s : State) (loc : Nat) : (s.touch loc).dirs = s.dirs := (rfl)
@[simp] theorem State.touch_rd (s : State) (loc : Nat) : (s.touch loc).rd = s.rd := (rfl)
@[simp] theorem State.touch_placement (s : State) (loc : Nat) : (s.touch loc).placement = s.placement := (rfl)
@[simp] theorem State.touch_completions (s : State) (loc : Nat) : (s.touch loc).completions = s.completions := (rfl)
@[simp] theorem State.touch_orphans (s : State) (loc : Nat) : (s.touch loc).orphans = s.orphans := (rfl)
@[simp] theorem State.touch_l2 (s : State) (loc : Nat) : (s.touch loc).l2 = s.l2 := (rfl)
@[simp] theorem State.touch_errs (s : State) (loc : Nat) : (s.touch loc).errs = s.errs := (rfl)
@[simp] theorem State.touch_corrections (s : State) (loc : Nat) : (s.touch loc).corrections = s.corrections := (rfl)
@[simp] theorem State.touch_tagTable (s : State) (loc : Nat) : (s.touch loc).tagTable = s.tagTable := (rfl)
@[simp] theorem State.touch_packets (s : State) (loc : Nat) : (s.touch loc).packets = s.packets := (rfl)
@[simp] theorem State.touch_combiners (s : State) (loc : Nat) : (s.touch loc).combiners = s.combiners := (rfl)
@[simp] theorem State.touch_asleep (s : State) (loc : Nat) : (s.touch loc).asleep = s.asleep := (rfl)
@[simp] theorem State.touch_tagsIssued (s : State) (loc : Nat) : (s.touch loc).tagsIssued = s.tagsIssued := (rfl)
@[simp] theorem State.touch_failed (s : State) (loc : Nat) : (s.touch loc).failed = s.failed := (rfl)
@[simp] theorem State.touch_records (s : State) (loc : Nat) : (s.touch loc).records = s.records := (rfl)
@[simp] theorem State.touch_notices (s : State) (loc : Nat) : (s.touch loc).notices = s.notices := (rfl)
@[simp] theorem State.touch_service (s : State) (loc : Nat) : (s.touch loc).service = s.service := (rfl)

/-! Core.setCtx. -/

@[simp] theorem Core.setCtx_placed (c : Core) (x : Nat) (v : Context) : (c.setCtx x v).placed = c.placed := (rfl)
@[simp] theorem Core.setCtx_gid (c : Core) (x : Nat) (v : Context) : (c.setCtx x v).gid = c.gid := (rfl)
@[simp] theorem Core.setCtx_vx (c : Core) (x : Nat) (v : Context) : (c.setCtx x v).vx = c.vx := (rfl)
@[simp] theorem Core.setCtx_vy (c : Core) (x : Nat) (v : Context) : (c.setCtx x v).vy = c.vy := (rfl)
@[simp] theorem Core.setCtx_gwm1 (c : Core) (x : Nat) (v : Context) : (c.setCtx x v).gwm1 = c.gwm1 := (rfl)
@[simp] theorem Core.setCtx_ghm1 (c : Core) (x : Nat) (v : Context) : (c.setCtx x v).ghm1 = c.ghm1 := (rfl)
@[simp] theorem Core.setCtx_part (c : Core) (x : Nat) (v : Context) : (c.setCtx x v).part = c.part := (rfl)
@[simp] theorem Core.setCtx_tag (c : Core) (x : Nat) (v : Context) : (c.setCtx x v).tag = c.tag := (rfl)
@[simp] theorem Core.setCtx_era (c : Core) (x : Nat) (v : Context) : (c.setCtx x v).era = c.era := (rfl)
@[simp] theorem Core.setCtx_k (c : Core) (x : Nat) (v : Context) : (c.setCtx x v).k = c.k := (rfl)
@[simp] theorem Core.setCtx_v (c : Core) (x : Nat) (v : Context) : (c.setCtx x v).v = c.v := (rfl)
@[simp] theorem Core.setCtx_t (c : Core) (x : Nat) (v : Context) : (c.setCtx x v).t = c.t := (rfl)
@[simp] theorem Core.setCtx_tshp (c : Core) (x : Nat) (v : Context) : (c.setCtx x v).tshp = c.tshp := (rfl)
@[simp] theorem Core.setCtx_wm (c : Core) (x : Nat) (v : Context) : (c.setCtx x v).wm = c.wm := (rfl)
@[simp] theorem Core.setCtx_waitth (c : Core) (x : Nat) (v : Context) : (c.setCtx x v).waitth = c.waitth := (rfl)
@[simp] theorem Core.setCtx_bto (c : Core) (x : Nat) (v : Context) : (c.setCtx x v).bto = c.bto := (rfl)
@[simp] theorem Core.setCtx_evw (c : Core) (x : Nat) (v : Context) : (c.setCtx x v).evw = c.evw := (rfl)
@[simp] theorem Core.setCtx_fpmode (c : Core) (x : Nat) (v : Context) : (c.setCtx x v).fpmode = c.fpmode := (rfl)
@[simp] theorem Core.setCtx_fpflags (c : Core) (x : Nat) (v : Context) : (c.setCtx x v).fpflags = c.fpflags := (rfl)
@[simp] theorem Core.setCtx_sigCnt (c : Core) (x : Nat) (v : Context) : (c.setCtx x v).sigCnt = c.sigCnt := (rfl)
@[simp] theorem Core.setCtx_sigLast (c : Core) (x : Nat) (v : Context) : (c.setCtx x v).sigLast = c.sigLast := (rfl)
@[simp] theorem Core.setCtx_sigLock (c : Core) (x : Nat) (v : Context) : (c.setCtx x v).sigLock = c.sigLock := (rfl)
@[simp] theorem Core.setCtx_sigEn (c : Core) (x : Nat) (v : Context) : (c.setCtx x v).sigEn = c.sigEn := (rfl)
@[simp] theorem Core.setCtx_trappc (c : Core) (x : Nat) (v : Context) : (c.setCtx x v).trappc = c.trappc := (rfl)
@[simp] theorem Core.setCtx_fltrec (c : Core) (x : Nat) (v : Context) : (c.setCtx x v).fltrec = c.fltrec := (rfl)
@[simp] theorem Core.setCtx_fltAt (c : Core) (x : Nat) (v : Context) : (c.setCtx x v).fltAt = c.fltAt := (rfl)
@[simp] theorem Core.setCtx_vwb (c : Core) (x : Nat) (v : Context) : (c.setCtx x v).vwb = c.vwb := (rfl)
@[simp] theorem Core.setCtx_vwl (c : Core) (x : Nat) (v : Context) : (c.setCtx x v).vwl = c.vwl := (rfl)
@[simp] theorem Core.setCtx_vwi (c : Core) (x : Nat) (v : Context) : (c.setCtx x v).vwi = c.vwi := (rfl)
@[simp] theorem Core.setCtx_chan (c : Core) (x : Nat) (v : Context) : (c.setCtx x v).chan = c.chan := (rfl)
@[simp] theorem Core.setCtx_seq (c : Core) (x : Nat) (v : Context) : (c.setCtx x v).seq = c.seq := (rfl)
@[simp] theorem Core.setCtx_tgen (c : Core) (x : Nat) (v : Context) : (c.setCtx x v).tgen = c.tgen := (rfl)
@[simp] theorem Core.setCtx_operands (c : Core) (x : Nat) (v : Context) : (c.setCtx x v).operands = c.operands := (rfl)
@[simp] theorem Core.setCtx_cbuf (c : Core) (x : Nat) (v : Context) : (c.setCtx x v).cbuf = c.cbuf := (rfl)
@[simp] theorem Core.setCtx_copies (c : Core) (x : Nat) (v : Context) : (c.setCtx x v).copies = c.copies := (rfl)
@[simp] theorem Core.setCtx_copySeq (c : Core) (x : Nat) (v : Context) : (c.setCtx x v).copySeq = c.copySeq := (rfl)
@[simp] theorem Core.setCtx_hodq (c : Core) (x : Nat) (v : Context) : (c.setCtx x v).hodq = c.hodq := (rfl)
@[simp] theorem Core.setCtx_mbox (c : Core) (x : Nat) (v : Context) : (c.setCtx x v).mbox = c.mbox := (rfl)
@[simp] theorem Core.setCtx_phase (c : Core) (x : Nat) (v : Context) : (c.setCtx x v).phase = c.phase := (rfl)
@[simp] theorem Core.setCtx_phaseEntry (c : Core) (x : Nat) (v : Context) : (c.setCtx x v).phaseEntry = c.phaseEntry := (rfl)
@[simp] theorem Core.setCtx_phaseEpoch (c : Core) (x : Nat) (v : Context) : (c.setCtx x v).phaseEpoch = c.phaseEpoch := (rfl)
@[simp] theorem Core.setCtx_phaseStart (c : Core) (x : Nat) (v : Context) : (c.setCtx x v).phaseStart = c.phaseStart := (rfl)
@[simp] theorem Core.setCtx_barSince (c : Core) (x : Nat) (v : Context) : (c.setCtx x v).barSince = c.barSince := (rfl)
@[simp] theorem Core.setCtx_wideBarSince (c : Core) (x : Nat) (v : Context) : (c.setCtx x v).wideBarSince = c.wideBarSince := (rfl)
@[simp] theorem Core.setCtx_captures (c : Core) (x : Nat) (v : Context) : (c.setCtx x v).captures = c.captures := (rfl)
@[simp] theorem Core.setCtx_mode (c : Core) (x : Nat) (v : Context) : (c.setCtx x v).mode = c.mode := (rfl)
@[simp] theorem Core.setCtx_stream (c : Core) (x : Nat) (v : Context) : (c.setCtx x v).stream = c.stream := (rfl)
@[simp] theorem Core.setCtx_spos (c : Core) (x : Nat) (v : Context) : (c.setCtx x v).spos = c.spos := (rfl)
@[simp] theorem Core.setCtx_parked (c : Core) (x : Nat) (v : Context) : (c.setCtx x v).parked = c.parked := (rfl)
@[simp] theorem Core.setCtx_bars (c : Core) (x : Nat) (v : Context) : (c.setCtx x v).bars = c.bars := (rfl)
@[simp] theorem Core.setCtx_exit (c : Core) (x : Nat) (v : Context) : (c.setCtx x v).exit = c.exit := (rfl)
@[simp] theorem Core.setCtx_dcache (c : Core) (x : Nat) (v : Context) : (c.setCtx x v).dcache = c.dcache := (rfl)
@[simp] theorem Core.setCtx_checker (c : Core) (x : Nat) (v : Context) : (c.setCtx x v).checker = c.checker := (rfl)
@[simp] theorem Core.setCtx_resil (c : Core) (x : Nat) (v : Context) : (c.setCtx x v).resil = c.resil := (rfl)
@[simp] theorem Core.setCtx_gathers (c : Core) (x : Nat) (v : Context) : (c.setCtx x v).gathers = c.gathers := (rfl)
@[simp] theorem Core.setCtx_lines (c : Core) (x : Nat) (v : Context) : (c.setCtx x v).lines = c.lines := (rfl)
@[simp] theorem Core.setCtx_conds (c : Core) (x : Nat) (v : Context) : (c.setCtx x v).conds = c.conds := (rfl)
@[simp] theorem Core.setCtx_again (c : Core) (x : Nat) (v : Context) : (c.setCtx x v).again = c.again := (rfl)
@[simp] theorem Core.setCtx_redo (c : Core) (x : Nat) (v : Context) : (c.setCtx x v).redo = c.redo := (rfl)
@[simp] theorem Core.setCtx_rejoinedAt (c : Core) (x : Nat) (v : Context) : (c.setCtx x v).rejoinedAt = c.rejoinedAt := (rfl)
@[simp] theorem Core.setCtx_haltedAt (c : Core) (x : Nat) (v : Context) : (c.setCtx x v).haltedAt = c.haltedAt := (rfl)
@[simp] theorem Core.setCtx_crWrites (c : Core) (x : Nat) (v : Context) : (c.setCtx x v).crWrites = c.crWrites := (rfl)

/-! Context.setSA and Context.setPred. -/

@[simp] theorem Context.setPred_s (c : Context) (n : Nat) (b : Bool) : (c.setPred n b).s = c.s := by
  unfold Context.setPred; split <;> rfl
@[simp] theorem Context.setPred_a (c : Context) (n : Nat) (b : Bool) : (c.setPred n b).a = c.a := by
  unfold Context.setPred; split <;> rfl
@[simp] theorem Context.setSA_p (c : Context) (r : BitVec 8) (v : Word) : (c.setSA r v).p = c.p := by
  unfold Context.setSA; (repeat' split) <;> rfl
@[simp] theorem Context.setSA_pc (c : Context) (r : BitVec 8) (v : Word) : (c.setSA r v).pc = c.pc := by
  unfold Context.setSA; (repeat' split) <;> rfl
@[simp] theorem Context.setPred_pc (c : Context) (n : Nat) (b : Bool) : (c.setPred n b).pc = c.pc := by
  unfold Context.setPred; split <;> rfl
@[simp] theorem Context.setSA_monaddr (c : Context) (r : BitVec 8) (v : Word) : (c.setSA r v).monaddr = c.monaddr := by
  unfold Context.setSA; (repeat' split) <;> rfl
@[simp] theorem Context.setPred_monaddr (c : Context) (n : Nat) (b : Bool) : (c.setPred n b).monaddr = c.monaddr := by
  unfold Context.setPred; split <;> rfl
@[simp] theorem Context.setSA_live (c : Context) (r : BitVec 8) (v : Word) : (c.setSA r v).live = c.live := by
  unfold Context.setSA; (repeat' split) <;> rfl
@[simp] theorem Context.setPred_live (c : Context) (n : Nat) (b : Bool) : (c.setPred n b).live = c.live := by
  unfold Context.setPred; split <;> rfl
@[simp] theorem Context.setSA_halted (c : Context) (r : BitVec 8) (v : Word) : (c.setSA r v).halted = c.halted := by
  unfold Context.setSA; (repeat' split) <;> rfl
@[simp] theorem Context.setPred_halted (c : Context) (n : Nat) (b : Bool) : (c.setPred n b).halted = c.halted := by
  unfold Context.setPred; split <;> rfl
@[simp] theorem Context.setSA_stop (c : Context) (r : BitVec 8) (v : Word) : (c.setSA r v).stop = c.stop := by
  unfold Context.setSA; (repeat' split) <;> rfl
@[simp] theorem Context.setPred_stop (c : Context) (n : Nat) (b : Bool) : (c.setPred n b).stop = c.stop := by
  unfold Context.setPred; split <;> rfl
@[simp] theorem Context.setSA_wait (c : Context) (r : BitVec 8) (v : Word) : (c.setSA r v).wait = c.wait := by
  unfold Context.setSA; (repeat' split) <;> rfl
@[simp] theorem Context.setPred_wait (c : Context) (n : Nat) (b : Bool) : (c.setPred n b).wait = c.wait := by
  unfold Context.setPred; split <;> rfl
@[simp] theorem Context.setSA_waitt (c : Context) (r : BitVec 8) (v : Word) : (c.setSA r v).waitt = c.waitt := by
  unfold Context.setSA; (repeat' split) <;> rfl
@[simp] theorem Context.setPred_waitt (c : Context) (n : Nat) (b : Bool) : (c.setPred n b).waitt = c.waitt := by
  unfold Context.setPred; split <;> rfl
@[simp] theorem Context.setSA_issued (c : Context) (r : BitVec 8) (v : Word) : (c.setSA r v).issued = c.issued := by
  unfold Context.setSA; (repeat' split) <;> rfl
@[simp] theorem Context.setPred_issued (c : Context) (n : Nat) (b : Bool) : (c.setPred n b).issued = c.issued := by
  unfold Context.setPred; split <;> rfl
@[simp] theorem Context.setSA_entryCheck (c : Context) (r : BitVec 8) (v : Word) : (c.setSA r v).entryCheck = c.entryCheck := by
  unfold Context.setSA; (repeat' split) <;> rfl
@[simp] theorem Context.setPred_entryCheck (c : Context) (n : Nat) (b : Bool) : (c.setPred n b).entryCheck = c.entryCheck := by
  unfold Context.setPred; split <;> rfl
@[simp] theorem Context.setSA_notBefore (c : Context) (r : BitVec 8) (v : Word) : (c.setSA r v).notBefore = c.notBefore := by
  unfold Context.setSA; (repeat' split) <;> rfl
@[simp] theorem Context.setPred_notBefore (c : Context) (n : Nat) (b : Bool) : (c.setPred n b).notBefore = c.notBefore := by
  unfold Context.setPred; split <;> rfl
@[simp] theorem Context.setSA_afterGissue (c : Context) (r : BitVec 8) (v : Word) : (c.setSA r v).afterGissue = c.afterGissue := by
  unfold Context.setSA; (repeat' split) <;> rfl
@[simp] theorem Context.setPred_afterGissue (c : Context) (n : Nat) (b : Bool) : (c.setPred n b).afterGissue = c.afterGissue := by
  unfold Context.setPred; split <;> rfl
@[simp] theorem Context.setSA_shippedTo (c : Context) (r : BitVec 8) (v : Word) : (c.setSA r v).shippedTo = c.shippedTo := by
  unfold Context.setSA; (repeat' split) <;> rfl
@[simp] theorem Context.setPred_shippedTo (c : Context) (n : Nat) (b : Bool) : (c.setPred n b).shippedTo = c.shippedTo := by
  unfold Context.setPred; split <;> rfl
@[simp] theorem Context.setSA_ticket (c : Context) (r : BitVec 8) (v : Word) : (c.setSA r v).ticket = c.ticket := by
  unfold Context.setSA; (repeat' split) <;> rfl
@[simp] theorem Context.setPred_ticket (c : Context) (n : Nat) (b : Bool) : (c.setPred n b).ticket = c.ticket := by
  unfold Context.setPred; split <;> rfl
@[simp] theorem Context.setSA_replies (c : Context) (r : BitVec 8) (v : Word) : (c.setSA r v).replies = c.replies := by
  unfold Context.setSA; (repeat' split) <;> rfl
@[simp] theorem Context.setPred_replies (c : Context) (n : Nat) (b : Bool) : (c.setPred n b).replies = c.replies := by
  unfold Context.setPred; split <;> rfl
@[simp] theorem Context.setSA_began (c : Context) (r : BitVec 8) (v : Word) : (c.setSA r v).began = c.began := by
  unfold Context.setSA; (repeat' split) <;> rfl
@[simp] theorem Context.setPred_began (c : Context) (n : Nat) (b : Bool) : (c.setPred n b).began = c.began := by
  unfold Context.setPred; split <;> rfl
@[simp] theorem Context.setSA_held (c : Context) (r : BitVec 8) (v : Word) : (c.setSA r v).held = c.held := by
  unfold Context.setSA; (repeat' split) <;> rfl
@[simp] theorem Context.setSA_cellSel (c : Context) (r : BitVec 8) (v : Word) : (c.setSA r v).cellSel = c.cellSel := by
  unfold Context.setSA; (repeat' split) <;> rfl
@[simp] theorem Context.setPred_held (c : Context) (n : Nat) (b : Bool) : (c.setPred n b).held = c.held := by
  unfold Context.setPred; split <;> rfl
@[simp] theorem Context.setPred_cellSel (c : Context) (n : Nat) (b : Bool) : (c.setPred n b).cellSel = c.cellSel := by
  unfold Context.setPred; split <;> rfl

end Sys2Proof.Machine
end

