-- ==== Sys2Proof/Laws/Registers.lean ====
section
/-! SUPPORT. Reading back registers, contexts and cores after their updates. -/

namespace Sys2Proof.Machine

/-! Cores and contexts. -/

@[simp] theorem State.core_setCore (s : State) (n : Nat) (c : Core) : (s.setCore n c).core n = c := by
  simp [State.core, State.setCore, Table.find_set_same]
theorem State.core_setCore_ne (s : State) {n m : Nat} (c : Core) (h : m ≠ n) : (s.setCore n c).core m = s.core m := by
  simp [State.core, State.setCore, Table.find_set_ne _ _ h]
@[simp] theorem State.core_modCore (s : State) (n : Nat) (f : Core → Core) : (s.modCore n f).core n = f (s.core n) := by
  simp [State.modCore]
theorem State.core_modCore_ne (s : State) {n m : Nat} (f : Core → Core) (h : m ≠ n) :
    (s.modCore n f).core m = s.core m := State.core_setCore_ne s _ h
@[simp] theorem State.me_modMe (s : State) (f : Core → Core) : (s.modMe f).me = f s.me := by
  simp [State.me, State.modMe]
theorem State.core_modMe_ne (s : State) {m : Nat} (f : Core → Core) (h : m ≠ s.cur.core) :
    (s.modMe f).core m = s.core m := State.core_modCore_ne s f h
@[simp] theorem Core.ctx_setCtx (c : Core) (x : Fin 12) (v : Context) : (c.setCtx x.val v).ctx x.val = v := by
  simp [Core.ctx, Core.setCtx, Vector.getD]
theorem Core.ctx_setCtx_ne (c : Core) {x y : Nat} (v : Context) (h : y ≠ x) : (c.setCtx x v).ctx y = c.ctx y := by
  simp [Core.ctx, Core.setCtx, Vector.getD, h.symm]
@[simp] theorem Core.ctx_modCtx (c : Core) (x : Fin 12) (f : Context → Context) :
    (c.modCtx x.val f).ctx x.val = f (c.ctx x.val) := Core.ctx_setCtx _ _ _
theorem Core.ctx_modCtx_ne (c : Core) {x y : Nat} (f : Context → Context) (h : y ≠ x) :
    (c.modCtx x f).ctx y = c.ctx y := Core.ctx_setCtx_ne _ _ h
@[simp] theorem State.my_modMy (s : State) (f : Context → Context) : (s.modMy f).my = f s.my := by
  simp [State.my, State.me, State.modMy, State.modCtx]
theorem State.me_modMy (s : State) (f : Context → Context) : (s.modMy f).me = s.me.modCtx s.cur.ctx.val f := by
  simp [State.me, State.modMy, State.modCtx]
theorem State.ctx_modMy_ne (s : State) {x : Nat} (f : Context → Context) (h : x ≠ s.cur.ctx.val) :
    (s.modMy f).me.ctx x = s.me.ctx x := by rw [State.me_modMy]; exact Core.ctx_modCtx_ne _ _ h
theorem State.core_modMy_ne (s : State) {m : Nat} (f : Context → Context) (h : m ≠ s.cur.core) :
    (s.modMy f).core m = s.core m := State.core_modCore_ne s _ h
@[simp] theorem State.my_modMe (s : State) (f : Core → Core) : (s.modMe f).my = (f s.me).ctx s.cur.ctx.val := by
  simp [State.my]

/-! The s, a and p registers (R16, R17). -/

@[simp] theorem Context.sa_zero (c : Context) : c.sa 0 = 0 := by simp [Context.sa]
theorem Context.sa_setSA (c : Context) (r d : BitVec 8) (v : Word) :
    (c.setSA d v).sa r = if r = d ∧ d ≠ 0 ∧ d.toNat < 48 then v else c.sa r := by
  have hr : (r = 0) ↔ r.toNat = 0 := by simp [BitVec.toNat_eq]
  have hd : (d = 0) ↔ d.toNat = 0 := by simp [BitVec.toNat_eq]
  have he : (r = d) ↔ r.toNat = d.toNat := by simp [BitVec.toNat_eq]
  unfold Context.setSA
  split
  · rename_i h; simp [hd.2 h]
  · split
    · rename_i h0 h1
      by_cases e : r = d
      · subst e
        have hn : r ≠ 0 := fun k => h0 (hr.1 k)
        simp [Context.sa, h0, h1, Vector.getD, show r.toNat < 48 by omega]
        exact fun k => absurd k hn
      · have e' : ¬ d.toNat = r.toNat := fun k => e (he.2 k.symm)
        simp [Context.sa, e, Vector.getD, e']
    · split
      · rename_i h0 h1 h2
        by_cases e : r = d
        · subst e
          have hn : r ≠ 0 := fun k => h0 (hr.1 k)
          simp [Context.sa, h0, h1, h2, Vector.getD, show r.toNat - 32 < 16 by omega]
          exact fun k => absurd k hn
        · have e' : ¬ d.toNat = r.toNat := fun k => e (he.2 k.symm)
          simp only [Context.sa, e, false_and, if_false]
          split
          · rfl
          · split
            · rfl
            · split
              · have : ¬ d.toNat - 32 = r.toNat - 32 := by omega
                simp [Vector.getD, this]
              · rfl
      · rename_i h0 h1 h2; simp [h2]
@[simp] theorem Context.pred_zero (c : Context) : c.pred 0 = true := by simp [Context.pred]
theorem Context.pred_setPred (c : Context) (n d : Nat) (b : Bool) (hn : n < 8) :
    (c.setPred d b).pred n = if n = d ∧ d ≠ 0 then b else c.pred n := by
  unfold Context.setPred
  by_cases h0 : d = 0
  · simp [h0]
  · rw [if_neg h0]
    by_cases e : n = d
    · subst e
      cases b <;> simp [Context.pred, h0, hn]
    · have : n < d ∨ ¬ n - d = 0 := by omega
      rcases this with h | h <;> cases b <;> simp [Context.pred, e, hn, h]
@[simp] theorem Context.pred_setSA (c : Context) (n : Nat) (r : BitVec 8) (v : Word) :
    (c.setSA r v).pred n = c.pred n := by simp [Context.pred]
@[simp] theorem Context.sa_setPred (c : Context) (n : Nat) (r : BitVec 8) (b : Bool) :
    (c.setPred n b).sa r = c.sa r := by simp [Context.sa]

end Sys2Proof.Machine
end

