-- ==== Sys2Proof/Laws/Frames.lean ====
section
/-! SUPPORT. The frames of the shared operations: what each changes, once, for the statements to cite. -/

namespace Sys2Proof.Machine

/-- A change of the core whose turn it is. -/
theorem onlyMe_modMe (s : State) (f : Core → Core) : OnlyMe s (s.modMe f) :=
  ⟨fun _ => rfl, rfl, fun _ h => State.core_modMe_ne s f h⟩
theorem onlyMe_modMy (s : State) (f : Context → Context) : OnlyMe s (s.modMy f) :=
  ⟨fun _ => rfl, rfl, fun _ h => State.core_modMy_ne s f h⟩
theorem OnlyMe.refl (s : State) : OnlyMe s s := ⟨fun _ => rfl, rfl, fun _ _ => rfl⟩
theorem OnlyMe.cur {s t : State} (h : OnlyMe s t) : t.cur = s.cur := by
  have e := congrArg State.cur h.machine; exact e
theorem OnlyMe.trans {s t u : State} (h : OnlyMe s t) (k : OnlyMe t u) : OnlyMe s u :=
  ⟨fun a => (k.memory a).trans (h.memory a),
   by
    have e := congrArg (fun x : State => { x with cores := s.cores }) k.machine
    exact e.trans h.machine,
   fun n hn => (k.cores n (by rw [h.cur]; exact hn)).trans (h.cores n hn)⟩

theorem onlyMyContext_modMy (s : State) (f : Context → Context) : OnlyMyContext s (s.modMy f) :=
  fun _ h => State.ctx_modMy_ne s f h
theorem sameCore_modMy (s : State) (f : Context → Context) : SameCore s (s.modMy f) := by
  unfold SameCore; rw [State.me_modMy]; rfl

theorem State.modMy_modMy (s : State) (f g : Context → Context) : (s.modMy f).modMy g = s.modMy (fun c => g (f c)) := by
  simp [State.modMy, State.modCtx, State.modCore, State.setCore, State.core, Core.modCtx, Core.setCtx, Core.ctx,
    Vector.getD]

/-- Going on after a change of the context's registers. -/
theorem setSA_goTo (s : State) (d : BitVec 8) (v pc : Word) :
    (s.setSA d v).goTo pc = s.modMy (fun c => { c.setSA d v with pc := pc, wait := none, issued := false, afterGissue := false }) :=
  State.modMy_modMy _ _ _

theorem setPreg_goTo (s : State) (d : BitVec 8) (b : Bool) (pc : Word) :
    (s.setPreg d b).goTo pc =
      s.modMy (fun c => { c.setPred (d.toNat - 48) b with pc := pc, wait := none, issued := false, afterGissue := false }) :=
  State.modMy_modMy _ _ _

@[simp] theorem State.my_setSA (s : State) (d : BitVec 8) (v : Word) : (s.setSA d v).my = s.my.setSA d v :=
  State.my_modMy _ _
@[simp] theorem State.my_setPreg (s : State) (d : BitVec 8) (b : Bool) :
    (s.setPreg d b).my = s.my.setPred (d.toNat - 48) b := State.my_modMy _ _

/-- A change of nothing but the PC retires. -/
theorem advances_advance (s : State) : Advances s s.advance where
  outside := onlyMe_modMy _ _
  contexts := onlyMyContext_modMy _ _
  core := sameCore_modMy _ _
  goes := by
    unfold State.advance State.goTo
    exact ⟨by simp, by simp, by simp⟩
  sa := fun r => by simp [State.sa, State.advance, State.goTo]; rfl
  preds := fun n _ => by simp [State.advance, State.goTo]; rfl

/-- Writing one s or a register and retiring. -/
theorem writesSA_advance (s : State) (d : BitVec 8) (v : Word) : WritesSA s (s.setSA d v).advance d v := by
  have e : (s.setSA d v).advance = s.modMy (fun c =>
      { c.setSA d v with pc := nextPc s.my.pc, wait := none, issued := false, afterGissue := false }) := by
    unfold State.advance; rw [setSA_goTo]; simp
  rw [e]
  refine ⟨onlyMe_modMy _ _, onlyMyContext_modMy _ _, sameCore_modMy _ _, ⟨by simp, by simp, by simp⟩, ⟨?_, ?_, ?_⟩⟩
  · intro h h0
    have := Context.sa_setSA s.my d d v
    have hd : d.toNat < 48 := by simpa [okSA] using h
    simp only [h0, hd, ne_eq, not_false_eq_true, and_self, if_true] at this
    unfold State.sa; rw [State.my_modMy]; exact this
  · intro r h
    have := Context.sa_setSA s.my r d v
    have hr : ¬ (r = d ∧ d ≠ 0 ∧ d.toNat < 48) := by tauto
    rw [if_neg hr] at this
    unfold State.sa; rw [State.my_modMy]; exact this
  · intro n _
    rw [State.my_modMy]; exact Context.pred_setSA s.my n d v

/-- Writing one p register and retiring. -/
theorem writesP_advance (s : State) (d : BitVec 8) (b : Bool) : WritesP s (s.setPreg d b).advance d b := by
  have e : (s.setPreg d b).advance = s.modMy (fun c =>
      { c.setPred (d.toNat - 48) b with pc := nextPc s.my.pc, wait := none, issued := false, afterGissue := false }) := by
    unfold State.advance; rw [setPreg_goTo]; simp
  rw [e]
  refine ⟨onlyMe_modMy _ _, onlyMyContext_modMy _ _, sameCore_modMy _ _, ⟨by simp, by simp, by simp⟩, ?_, ?_, ?_⟩
  · intro h h0
    have h' : 48 ≤ d.toNat ∧ d.toNat < 56 := by simpa [okP] using h
    have h1 : d.toNat ≠ 48 := fun k => h0 (BitVec.eq_of_toNat_eq k)
    have := Context.pred_setPred s.my (d.toNat - 48) (d.toNat - 48) b (by omega)
    rw [if_pos ⟨rfl, by omega⟩] at this
    unfold State.preg; rw [State.my_modMy]; exact this
  · intro n hn h
    have := Context.pred_setPred s.my n (d.toNat - 48) b hn
    have h1 : ¬ (n = d.toNat - 48 ∧ d.toNat - 48 ≠ 0) := by
      rintro ⟨e1, e2⟩
      rcases h with h | h
      · exact h e1
      · subst h; simp at e2
    rw [if_neg h1] at this
    rw [State.my_modMy]; exact this
  · intro r
    unfold State.sa; rw [State.my_modMy]; exact Context.sa_setPred s.my (d.toNat - 48) r b

end Sys2Proof.Machine
end

