-- ==== Sys2Proof/Laws/Guards.lean ====
section
/-! SUPPORT. A false guard (R61, R73): the wrappers of the meanings then only advance the PC; and the outcome that each
branch decides (R84). -/

namespace Sys2Proof.Machine

/-- A guarded meaning whose guard is false. -/
theorem guarded_off {g gn s k} (h : s.guard g gn = false) : guarded g gn s k = .next s.advance := by
  unfold guarded; rw [if_neg (by simp [h])]

/-- A meaning of the control context's class, in the control context, whose guard is false. -/
theorem controlOnly_off {w g gn s k} (hc : s.isControl = true) (h : s.guard g gn = false) :
    controlOnly w g gn s k = .next s.advance := by
  unfold controlOnly; rw [if_pos hc]; exact guarded_off h

/-- A meaning of the hod's class whose guard is false. -/
theorem hodOnly_off {w g gn s k} (h : s.guard g gn = false) : hodOnly w g gn s k = .next s.advance :=
  guarded_off h

theorem decides_br (s : State) (f : FB) :
    s.decides (.br f) = if s.guard f.g f.gn && s.brCond f then some (linePc s.my.pc f.dline f.tslot) else none := rfl
theorem decides_j (s : State) (f : FB) :
    s.decides (.j f) = if s.guard f.g f.gn then some (linePc s.my.pc f.dline f.tslot) else none := rfl
theorem decides_jr (s : State) (f : FQ) :
    s.decides (.jr f) = if s.guard f.g f.gn then some (s.sa f.a) else none := rfl
theorem decides_loop (s : State) (f : FB) :
    s.decides (.loop f) =
      if s.guard f.g f.gn && s.loopCount f != 0 then some (linePc s.my.pc f.dline f.tslot) else none := rfl

end Sys2Proof.Machine
end

