-- ==== Sys2Proof/Laws/KeptOps.lean ====
section
/-! SUPPORT. The named operations of Ops.lean keep the canonical form of memory: those that leave memory alone, and
those that write it. -/

namespace Sys2Proof.Machine

/-- A memory in the canonical form (log 6), as an opaque proposition for rewriting. -/
def Memory.Kept (m : Memory) : Prop := m.wf = true

/-- An outcome keeps the canonical form: its next state, when it answers one, has it. -/
def Keeps (o : Out) : Prop := ∀ t, o = .next t → Memory.Kept t.mem

theorem State.kept_iff (s : State) : s.Kept ↔ Memory.Kept s.mem := Iff.rfl

@[simp] theorem keeps_next (t : State) : Keeps (.next t) ↔ Memory.Kept t.mem :=
  ⟨fun h => h t rfl, fun h u e => by cases e; exact h⟩
@[simp] theorem keeps_fault (f : Fault) : Keeps (.fault f) := fun _ e => nomatch e
@[simp] theorem keeps_refused (f : Refusal) : Keeps (.refused f) := fun _ e => nomatch e

@[simp] theorem Memory.kept_write (m : Memory) (a : Nat) (b : Byte) (h : m.Kept) : (m.write a b).Kept :=
  Memory.wf_write m a b h
@[simp] theorem Memory.kept_writeBytes (m : Memory) (a : Nat) (bs : List Byte) (h : m.Kept) :
    (m.writeBytes a bs).Kept := Memory.wf_writeBytes bs m a h
@[simp] theorem Memory.kept_clear (m : Memory) (lo n : Nat) (h : m.Kept) : (m.clear lo n).Kept :=
  Memory.wf_clear m lo n h
@[simp] theorem Memory.kept_filter (m : Memory) (p : Host.Cell → Bool) (h : m.Kept) :
    Memory.Kept (m.filter p) := Memory.wf_filter m p h
@[simp] theorem Memory.kept_copyRun (m : Memory) (src dst n : Nat) (h : m.Kept) : (m.copyRun src dst n).Kept :=
  Memory.wf_copyRun m src dst n h

/-- A fold of operations that keep the form keeps it. -/
theorem foldl_kept {α : Type} (f : State → α → State) (hf : ∀ s x, Memory.Kept s.mem → Memory.Kept (f s x).mem)
    (l : List α) (s : State) (h : Memory.Kept s.mem) : Memory.Kept (l.foldl f s).mem := by
  induction l generalizing s with
  | nil => exact h
  | cons x l ih => exact ih _ (hf s x h)

/-- A fold of operations that leave memory alone leaves it alone. -/
theorem foldl_mem {α : Type} (f : State → α → State) (hf : ∀ s x, (f s x).mem = s.mem) (l : List α) (s : State) :
    (l.foldl f s).mem = s.mem := by
  induction l generalizing s with
  | nil => rfl
  | cons x l ih => exact (ih _).trans (hf s x)

/-! Operations that leave memory alone. -/

@[simp] theorem State.setCore_mem (s : State) (n : Nat) (c : Core) : (s.setCore n c).mem = s.mem := (rfl)
@[simp] theorem State.modCore_mem (s : State) (n : Nat) (f : Core → Core) : (s.modCore n f).mem = s.mem := (rfl)
@[simp] theorem State.modCtx_mem (s : State) (n x : Nat) (f : Context → Context) : (s.modCtx n x f).mem = s.mem := (rfl)
@[simp] theorem State.modMe_mem (s : State) (f : Core → Core) : (s.modMe f).mem = s.mem := (rfl)
@[simp] theorem State.modMy_mem (s : State) (f : Context → Context) : (s.modMy f).mem = s.mem := (rfl)
@[simp] theorem State.setSA_mem (s : State) (r : BitVec 8) (v : Word) : (s.setSA r v).mem = s.mem := (rfl)
@[simp] theorem State.setPreg_mem (s : State) (r : BitVec 8) (b : Bool) : (s.setPreg r b).mem = s.mem := (rfl)
@[simp] theorem State.setKreg_mem (s : State) (r : BitVec 8) (v : Word) : (s.setKreg r v).mem = s.mem := (rfl)
@[simp] theorem State.setVreg_mem (s : State) (r : BitVec 8) (v : VReg) : (s.setVreg r v).mem = s.mem := (rfl)
@[simp] theorem State.setTreg_mem (s : State) (r : BitVec 8) (v : Tile) : (s.setTreg r v).mem = s.mem := (rfl)
@[simp] theorem State.setSAK_mem (s : State) (r : BitVec 8) (v : Word) : (s.setSAK r v).mem = s.mem := by
  unfold State.setSAK; split <;> rfl
@[simp] theorem State.goTo_mem (s : State) (pc : Word) : (s.goTo pc).mem = s.mem := (rfl)
@[simp] theorem State.advance_mem (s : State) : s.advance.mem = s.mem := (rfl)
@[simp] theorem State.modGang_mem (s : State) (gid : BitVec 16) (f : Gang → Gang) : (s.modGang gid f).mem = s.mem := (rfl)
@[simp] theorem State.modPart_mem (s : State) (q : Nat) (f : Partition → Partition) : (s.modPart q f).mem = s.mem := (rfl)
@[simp] theorem State.modQueue_mem (s : State) (q : Nat) (f : Queue → Queue) : (s.modQueue q f).mem = s.mem := (rfl)
@[simp] theorem State.free_mem (s : State) : s.free.2.mem = s.mem := (rfl)
@[simp] theorem State.touch_mem (s : State) (loc : Nat) : (s.touch loc).mem = s.mem := (rfl)
@[simp] theorem State.deliver_mem (s : State) (gid : BitVec 16) (ctx : Nat) (vx : BitVec 6) (vy : BitVec 5)
    (ends : Bool) (r : FaultRecord) : (s.deliver gid ctx vx vy ends r).mem = s.mem := by
  unfold State.deliver; dsimp only; (repeat' split) <;> rfl
@[simp] theorem State.takeFault_mem (s : State) (core ctx : Nat) (i : FaultInfo) (stops fatal spare : Bool) :
    (s.takeFault core ctx i stops fatal spare).mem = s.mem := by simp [State.takeFault]
@[simp] theorem State.takeError_mem (s : State) (core ctx : Nat) (i : FaultInfo) :
    (s.takeError core ctx i).mem = s.mem := by unfold State.takeError; dsimp only; (repeat' split) <;> simp
@[simp] theorem State.raise_mem (s : State) (cls : FaultClass) (code : Nat) (operand : Word) :
    (s.raise cls code operand).mem = s.mem := by unfold State.raise; dsimp only; (repeat' split) <;> simp
@[simp] theorem State.badTarget_mem (s : State) (code : Nat) (t : Word) : (s.badTarget code t).mem = s.mem := by
  simp [State.badTarget]
@[simp] theorem State.transfer_mem (s : State) (t : Word) : (s.transfer t).mem = s.mem := by
  unfold State.transfer; (repeat' split) <;> simp
@[simp] theorem State.resume_mem (s : State) (core ctx : Nat) (skip : Bool) : (s.resume core ctx skip).mem = s.mem := (rfl)
@[simp] theorem State.endWait_mem (s : State) (core ctx : Nat) : (s.endWait core ctx).mem = s.mem := (rfl)
@[simp] theorem State.startWait_mem (s : State) (k : WaitKind) (n : Nat) : (s.startWait k n).mem = s.mem := by
  simp [State.startWait]
@[simp] theorem State.waitTh_mem (s : State) (k : WaitKind) : (s.waitTh k).mem = s.mem := by simp [State.waitTh]
@[simp] theorem State.waitBto_mem (s : State) (k : WaitKind) : (s.waitBto k).mem = s.mem := by simp [State.waitBto]

/-! Operations that write memory. -/

@[simp] theorem State.poke_kept (s : State) (loc : Nat) (b : Byte) (h : Memory.Kept s.mem) :
    Memory.Kept (s.poke loc b).mem := Memory.kept_write _ _ _ h
@[simp] theorem State.pokes_kept (bs : List Byte) (s : State) (loc : Nat) (h : Memory.Kept s.mem) :
    Memory.Kept (s.pokes loc bs).mem := by
  induction bs generalizing s loc with
  | nil => exact h
  | cons b bs ih => exact ih _ _ (State.poke_kept s loc b h)
@[simp] theorem State.nonRestartable_kept (s : State) (core cause : Nat) (h : Memory.Kept s.mem) :
    Memory.Kept (s.nonRestartable core cause).mem := by
  unfold State.nonRestartable; split <;> simp [h]
@[simp] theorem State.undoLog_kept (s : State) (core off : Nat) (h : Memory.Kept s.mem) :
    Memory.Kept (s.undoLog core off).mem := by
  unfold State.undoLog; dsimp only; (repeat' split) <;> simp (maxDischargeDepth := 20) [h]
@[simp] theorem State.spWriteOwn_kept (s : State) (core off : Nat) (b : Byte) (h : Memory.Kept s.mem) :
    Memory.Kept (s.spWriteOwn core off b).mem := by simp [State.spWriteOwn, h]
@[simp] theorem State.spWriteForeign_kept (s : State) (core off : Nat) (b : Byte) (h : Memory.Kept s.mem) :
    Memory.Kept (s.spWriteForeign core off b).mem := by simp [State.spWriteForeign, h]
@[simp] theorem State.spWrites_kept (bs : List Byte) (s : State) (core off : Nat) (h : Memory.Kept s.mem) :
    Memory.Kept (s.spWrites core off bs).mem := by
  induction bs generalizing s off with
  | nil => exact h
  | cons b bs ih => exact ih _ _ (State.spWriteForeign_kept s core off b h)
@[simp] theorem State.spWritesOwn_kept (bs : List Byte) (s : State) (core off : Nat) (h : Memory.Kept s.mem) :
    Memory.Kept (s.spWritesOwn core off bs).mem := by
  induction bs generalizing s off with
  | nil => exact h
  | cons b bs ih => exact ih _ _ (State.spWriteOwn_kept s core off b h)

/-! The shapes of a meaning. -/

@[simp] theorem illegal_keeps (w : IWord) (s : State) (h : Memory.Kept s.mem) : Keeps (illegal w s) := by simp [illegal, h]
theorem guarded_keeps {g : BitVec 3} {gn : BitVec 1} {s : State} {k : State → Out} (h : Memory.Kept s.mem)
    (hk : Keeps (k s)) : Keeps (guarded g gn s k) := by unfold guarded; split <;> simp [h, hk]
theorem controlOnly_keeps {w : IWord} {g : BitVec 3} {gn : BitVec 1} {s : State} {k : State → Out}
    (h : Memory.Kept s.mem) (hk : Keeps (k s)) : Keeps (controlOnly w g gn s k) := by
  unfold controlOnly; split
  · exact guarded_keeps h hk
  · exact illegal_keeps w s h
theorem hodOnly_keeps {w : IWord} {g : BitVec 3} {gn : BitVec 1} {s : State} {k : State → Out}
    (h : Memory.Kept s.mem) (hk : Keeps (k s)) : Keeps (hodOnly w g gn s k) := by
  refine guarded_keeps h ?_
  split
  · exact hk
  · simp [h]

end Sys2Proof.Machine
end

