-- ==== Sys2Proof/Laws/KeptDram.lean ====
section
/-! SUPPORT. The operations of Dram.lean keep the canonical form of memory. -/

namespace Sys2Proof.Machine

/-- A fold of writes of one byte keeps the form. -/
theorem foldl_write_kept {α : Type} (f : Memory → α → Memory) (hf : ∀ m x, Memory.Kept m → Memory.Kept (f m x))
    (l : List α) (m : Memory) (h : Memory.Kept m) : Memory.Kept (l.foldl f m) := by
  induction l generalizing m with
  | nil => exact h
  | cons x l ih => exact ih _ (hf m x h)

@[simp] theorem State.setErr_mem (s : State) (loc : Nat) (b : Byte) : (s.setErr loc b).mem = s.mem := (rfl)
@[simp] theorem State.writeGranule_mem (s : State) (gran : BitVec 2) (base : Nat) : (s.writeGranule gran base).mem = s.mem := (rfl)
@[simp] theorem State.poisonGranule_mem (s : State) (gran : BitVec 2) (base : Nat) : (s.poisonGranule gran base).mem = s.mem := by
  unfold State.poisonGranule
  rw [foldl_mem _ (fun s c => foldl_mem _ (fun s l => State.setErr_mem s l _) _ _)]
  rfl
@[simp] theorem State.countCorrection_mem (s : State) (n : Nat) : (s.countCorrection n).mem = s.mem := (rfl)
@[simp] theorem State.takeGranule_kept (s : State) (gran : BitVec 2) (base : Nat) (wanted : Nat → Bool) (later : Bool)
    (h : Memory.Kept s.mem) : Memory.Kept (s.takeGranule gran base wanted later).mem := by
  unfold State.takeGranule
  split
  · exact h
  · dsimp only
    split
    · exact h
    · exact h
    · rw [foldl_mem _ (fun t e => State.countCorrection_mem t _)]
      split
      · exact foldl_write_kept _ (fun m l hm => by simp [hm]) _ _ h
      · exact foldl_write_kept _ (fun m l hm => by simp [hm]) _ _ h
@[simp] theorem State.setL2_mem (s : State) (n : Nat) (l : List L2Line) : (s.setL2 n l).mem = s.mem := (rfl)
@[simp] theorem State.forget_mem (s : State) (lo n : Nat) : (s.forget lo n).mem = s.mem := (rfl)
@[simp] theorem State.writeUnit_mem (s : State) (gran : BitVec 2) (base : Nat) : (s.writeUnit gran base).mem = s.mem := by
  unfold State.writeUnit; split <;> simp
@[simp] theorem State.cleanL2_mem (s : State) (l : L2Line) : (s.cleanL2 l).mem = s.mem := (rfl)
@[simp] theorem State.gangWriteback_kept (s : State) (l : L2Line) (h : Memory.Kept s.mem) :
    Memory.Kept (s.gangWriteback l).mem := by
  unfold State.gangWriteback
  dsimp only
  rw [foldl_mem _ (fun s l => State.cleanL2_mem s l), State.writeUnit_mem]
  split <;> simp [h]
@[simp] theorem State.writeBackL2_kept (s : State) (l : L2Line) (h : Memory.Kept s.mem) :
    Memory.Kept (s.writeBackL2 l).mem := by
  unfold State.writeBackL2
  split
  · exact h
  · split
    · simp [h]
    · split
      · rw [State.cleanL2_mem]
        exact foldl_kept _ (fun s i h => by split <;> simp [h]) _ _ h
      · simp [h]
@[simp] theorem State.evictL2_kept (s : State) (l : L2Line) (h : Memory.Kept s.mem) : Memory.Kept (s.evictL2 l).mem := by
  simp [State.evictL2, h]
@[simp] theorem State.enterL2_kept (s : State) (l : L2Line) (h : Memory.Kept s.mem) : Memory.Kept (s.enterL2 l).mem := by
  unfold State.enterL2; dsimp only; rw [State.setL2_mem]; split <;> simp [h]
@[simp] theorem State.fillOne_kept (s : State) (h : Home) (bits : BitVec 2) (hs : Memory.Kept s.mem) :
    Memory.Kept (s.fillOne h bits).mem := by simp [State.fillOne, hs]
@[simp] theorem State.markDirty_kept (s : State) (h : Home) (bits : BitVec 2) (hs : Memory.Kept s.mem) :
    Memory.Kept (s.markDirty h bits).mem := by unfold State.markDirty; split <;> simp [hs]
@[simp] theorem State.fillL2_kept (s : State) (h : Home) (hs : Memory.Kept s.mem) : Memory.Kept (s.fillL2 h).mem := by
  unfold State.fillL2
  dsimp only
  split
  · exact hs
  · split
    · (repeat' split) <;> simp (maxDischargeDepth := 6) [hs]
    · split
      · exact foldl_kept _ (fun s i hs => by simp [hs]) _ _ (by simp [hs])
      · simp [hs]
@[simp] theorem State.dirtyL2_kept (s : State) (h : Home) (hs : Memory.Kept s.mem) : Memory.Kept (s.dirtyL2 h).mem := by
  unfold State.dirtyL2; dsimp only; (repeat' split) <;> simp [hs]
@[simp] theorem State.homeRead_kept (s : State) (core : Nat) (p : Place) (h : Memory.Kept s.mem) :
    Memory.Kept (s.homeRead core p).mem := by unfold State.homeRead; split <;> simp [h]
@[simp] theorem State.homeWrite_kept (s : State) (core : Nat) (p : Place) (h : Memory.Kept s.mem) :
    Memory.Kept (s.homeWrite core p).mem := by unfold State.homeWrite; split <;> simp [h]
@[simp] theorem State.cleanL2Lines_kept (s : State) (sel : L2Line → Bool) (h : Memory.Kept s.mem) :
    Memory.Kept (s.cleanL2Lines sel).mem := foldl_kept _ (fun s l h => by split <;> simp [h]) _ _ h
@[simp] theorem State.flushL2Lines_kept (s : State) (sel : L2Line → Bool) (h : Memory.Kept s.mem) :
    Memory.Kept (s.flushL2Lines sel).mem := foldl_kept _ (fun s l h => by split <;> simp [h]) _ _ h
@[simp] theorem State.writeH_mem (s : State) (gran : BitVec 2) (line : Nat) (v : BitVec 4) :
    (s.writeH gran line v).mem = s.mem := (rfl)

end Sys2Proof.Machine
end

