-- ==== Sys2Proof/Laws/KeptLines.lean ====
section
/-! SUPPORT. The operations of Lines.lean keep the canonical form of memory. -/

namespace Sys2Proof.Machine

@[simp] theorem State.poisonLine_mem (s : State) (l : CacheLine) : (s.poisonLine l).mem = s.mem := by
  unfold State.poisonLine
  split
  · rfl
  · generalize List.range 64 = is
    induction is generalizing s with
    | nil => rfl
    | cons i is ih => rw [List.foldl_cons, ih]; split <;> rfl
@[simp] theorem State.writeBackBytes_kept (s : State) (l : CacheLine) (h : Memory.Kept s.mem) :
    Memory.Kept (s.writeBackBytes l).mem := by
  have h1 : Memory.Kept ((List.range 2).foldl (fun s i => if (l.dirty >>> (32 * i)).extractLsb' 0 32 != 0 then
      s.dirtyL2 (l.home (32 * i)) else s) s).mem := foldl_kept _ (fun s i h => by split <;> simp [h]) _ _ h
  unfold State.writeBackBytes
  dsimp only
  split
  · exact h
  · split
    · exact h1
    · exact foldl_kept _ (fun s i h => by split <;> simp [h]) _ _ h1
@[simp] theorem State.writeBackLine_kept (s : State) (l : CacheLine) (h : Memory.Kept s.mem) :
    Memory.Kept (s.writeBackLine l).mem := by simp [State.writeBackLine, h]
@[simp] theorem State.cleanLines_kept (s : State) (core : Nat) (sel : CacheLine → Bool) (h : Memory.Kept s.mem) :
    Memory.Kept (s.cleanLines core sel).mem :=
  foldl_kept _ (fun s l h => State.writeBackLine_kept s l h) _ _ h
@[simp] theorem State.dropLines_mem (s : State) (core : Nat) (sel : CacheLine → Bool) :
    (s.dropLines core sel).mem = s.mem := (rfl)
@[simp] theorem State.flushLines_kept (s : State) (core : Nat) (sel : CacheLine → Bool) (h : Memory.Kept s.mem) :
    Memory.Kept (s.flushLines core sel).mem := by simp [State.flushLines, h]
@[simp] theorem State.release_kept (s : State) (core : Nat) (h : Memory.Kept s.mem) :
    Memory.Kept (s.release core).mem := by simp [State.release, h]
@[simp] theorem State.acquire_kept (s : State) (core : Nat) (wide : Bool) (h : Memory.Kept s.mem) :
    Memory.Kept (s.acquire core wide).mem := by
  unfold State.acquire; split <;> simp [h]
@[simp] theorem State.everyCore_kept (s : State) (f : State → Nat → State)
    (hf : ∀ s n, Memory.Kept s.mem → Memory.Kept (f s n).mem) (h : Memory.Kept s.mem) :
    Memory.Kept (s.everyCore f).mem := foldl_kept _ hf _ _ h
@[simp] theorem State.evictLines_kept (s : State) (core : Nat) (sel : CacheLine → Bool) (h : Memory.Kept s.mem) :
    Memory.Kept (s.evictLines core sel).mem := by
  unfold State.evictLines; dsimp only; split <;> simp [h]
@[simp] theorem State.displace_kept (s : State) (core part ia : Nat) (h : Memory.Kept s.mem) :
    Memory.Kept (s.displace core part ia).mem := by simp [State.displace, h]
@[simp] theorem State.cleanPlace_kept (s : State) (core : Nat) (hm : Home) (h : Memory.Kept s.mem) :
    Memory.Kept (s.cleanPlace core hm).mem := by simp [State.cleanPlace, h]
@[simp] theorem State.makeRoom_kept (s : State) (core part ia : Nat) (h : Memory.Kept s.mem) :
    Memory.Kept (s.makeRoom core part ia).mem := by
  unfold State.makeRoom; dsimp only; (repeat' split) <;> simp [h]
@[simp] theorem State.enterLine_kept (s : State) (core : Nat) (hm : Home) (coh : BitVec 2) (h : Memory.Kept s.mem) :
    Memory.Kept (s.enterLine core hm coh).mem := by simp [State.enterLine, h]
@[simp] theorem State.fillLine_kept (s : State) (core : Nat) (ch : BitVec 2) (write : Bool) (hm : Home)
    (h : Memory.Kept s.mem) : Memory.Kept (s.fillLine core ch write hm).mem := by
  unfold State.fillLine; dsimp only; (repeat' split) <;> simp [h]
@[simp] theorem State.sweep_kept (s : State) (lo hi : Nat) (h : Memory.Kept s.mem) : Memory.Kept (s.sweep lo hi).mem := by
  unfold State.sweep; dsimp only
  exact State.flushL2Lines_kept _ _ (State.everyCore_kept _ _ (fun s n h => by split <;> simp [h]) h)
@[simp] theorem State.flushArray_kept (s : State) (n : Nat) (sel : BitVec 12 → BitVec 1 → Bool) (h : Memory.Kept s.mem) :
    Memory.Kept (s.flushArray n sel).mem := by unfold State.flushArray; split <;> simp [h]
@[simp] theorem State.wakeArray_kept (s : State) (n : Nat) (h : Memory.Kept s.mem) : Memory.Kept (s.wakeArray n).mem := by
  unfold State.wakeArray; dsimp only; (repeat' split) <;> simp [h]

/-! The directory. -/

@[simp] theorem State.setSlice_mem (s : State) (n : Nat) (l : List DirEntry) : (s.setSlice n l).mem = s.mem := (rfl)
@[simp] theorem State.recall_kept (s : State) (slice : Nat) (e : DirEntry) (c : Nat) (h : Memory.Kept s.mem) :
    Memory.Kept (s.recall slice e c).mem := foldl_kept _ (fun s n h => by simp [h]) _ _ h
@[simp] theorem State.downgrade_kept (s : State) (slice : Nat) (e : DirEntry) (c : Nat) (h : Memory.Kept s.mem) :
    Memory.Kept (s.downgrade slice e c).mem := foldl_kept _ (fun s n h => by simp [h]) _ _ h
@[simp] theorem State.recallDies_kept (s : State) (mask : BitVec 4) (part ia : Nat) (h : Memory.Kept s.mem) :
    Memory.Kept (s.recallDies mask part ia).mem := by
  unfold State.recallDies; split
  · exact h
  · exact State.everyCore_kept _ _ (fun s n h => by split <;> simp [h]) h
@[simp] theorem State.recallRdie_kept (s : State) (slice : Nat) (e : DirEntry) (h : Memory.Kept s.mem) :
    Memory.Kept (s.recallRdie slice e).mem := by
  unfold State.recallRdie; split
  · exact h
  · exact State.everyCore_kept _ _ (fun s n h => by split <;> simp [h]) h
@[simp] theorem State.freeEntry_kept (s : State) (slice : Nat) (e : DirEntry) (h : Memory.Kept s.mem) :
    Memory.Kept (s.freeEntry slice e).mem := by
  simp only [State.freeEntry, State.setSlice_mem]
  exact State.recallRdie_kept _ _ _ (foldl_kept _ (fun s c h => by simp [h]) _ _ h)
@[simp] theorem State.evictOver_kept (s : State) (slice limit : Nat) (h : Memory.Kept s.mem) :
    Memory.Kept (s.evictOver slice limit).mem := by
  unfold State.evictOver; dsimp only; (repeat' split) <;> simp [h]
@[simp] theorem State.entryFor_kept (s : State) (slice part ia : Nat) (h : Memory.Kept s.mem) :
    Memory.Kept (s.entryFor slice part ia).2.mem := by
  unfold State.entryFor; dsimp only; split <;> simp [h]
@[simp] theorem State.putEntries_kept (s : State) (slice : Nat) (old : DirEntry) (new : List DirEntry)
    (h : Memory.Kept s.mem) : Memory.Kept (s.putEntries slice old new).mem := by simp [State.putEntries, h]
@[simp] theorem State.dirRead_kept (s : State) (slice : Nat) (e : DirEntry) (c : Nat) (h : Memory.Kept s.mem) :
    Memory.Kept (s.dirRead slice e c).mem := by
  have hd : Memory.Kept ((e.heldBy slice).foldl (fun s h => s.downgrade slice e h) s).mem :=
    foldl_kept _ (fun s c h => by simp [h]) _ _ h
  unfold State.dirRead; dsimp only; (repeat' split) <;> simp [h, hd]
@[simp] theorem State.recallOthers_kept (s : State) (slice : Nat) (e : DirEntry) (c ia : Nat) (h : Memory.Kept s.mem) :
    Memory.Kept (s.recallOthers slice e c ia).2.mem := foldl_kept _ (fun s h' hs => by simp [hs]) _ _ h
@[simp] theorem State.putWritten_kept (s : State) (slice : Nat) (e mine other : DirEntry) (clash : Bool) (ia : Nat)
    (h : Memory.Kept s.mem) : Memory.Kept (s.putWritten slice e mine other clash ia).mem := by
  unfold State.putWritten; split <;> simp [h]
@[simp] theorem State.dirWrite_kept (s : State) (slice : Nat) (e : DirEntry) (c ia : Nat) (h : Memory.Kept s.mem) :
    Memory.Kept (s.dirWrite slice e c ia).mem := by
  unfold State.dirWrite; dsimp only; (repeat' split) <;> simp [h]
@[simp] theorem State.dirAway_kept (s : State) (slice : Nat) (e : DirEntry) (ia : Nat) (write : Bool)
    (h : Memory.Kept s.mem) : Memory.Kept (s.dirAway slice e ia write).mem := by
  have hd : Memory.Kept ((e.heldBy slice).foldl (fun s h => s.downgrade slice e h) s).mem :=
    foldl_kept _ (fun s c h => by simp [h]) _ _ h
  unfold State.dirAway; dsimp only; (repeat' split) <;> simp [h, hd]
@[simp] theorem State.dirResolve_kept (s : State) (slice part ia : Nat) (away gang : Bool) (cluster : Nat) (write : Bool)
    (h : Memory.Kept s.mem) : Memory.Kept (s.dirResolve slice part ia away gang cluster write).mem := by
  unfold State.dirResolve; dsimp only; (repeat' split) <;> simp [h]
@[simp] theorem State.setRd_mem (s : State) (slice : Nat) (gran : BitVec 2) (loc part ia : Nat) (v : BitVec 4) :
    (s.setRd slice gran loc part ia v).mem = s.mem := by unfold State.setRd; split <;> rfl
@[simp] theorem State.recallAway_kept (s : State) (slice : Nat) (gran : BitVec 2) (loc part ia : Nat)
    (h : Memory.Kept s.mem) : Memory.Kept (s.recallAway slice gran loc part ia).mem := by
  unfold State.recallAway; dsimp only; (repeat' split) <;> simp [h]
@[simp] theorem State.requestLine_kept (s : State) (core : Nat) (hm : Home) (write : Bool) (h : Memory.Kept s.mem) :
    Memory.Kept (s.requestLine core hm write).mem := by
  unfold State.requestLine; dsimp only; (repeat' split) <;> simp [h]
@[simp] theorem State.homeRequest_kept (s : State) (hm : Home) (write : Bool) (h : Memory.Kept s.mem) :
    Memory.Kept (s.homeRequest hm write).mem := by
  unfold State.homeRequest; dsimp only; (repeat' split) <;> simp [h]
@[simp] theorem State.fillTracked_kept (s : State) (core : Nat) (hm : Home) (h : Memory.Kept s.mem) :
    Memory.Kept (s.fillTracked core hm).mem := by unfold State.fillTracked; split <;> simp [h]
@[simp] theorem State.freeEntries_kept (s : State) (part lo hi : Nat) (h : Memory.Kept s.mem) :
    Memory.Kept (s.freeEntries part lo hi).mem := by
  unfold State.freeEntries; dsimp only
  exact State.everyCore_kept _ _ (fun s n h => by simp [h])
    (foldl_kept _ (fun s d h => foldl_kept _ (fun s e h => by simp [h]) _ _ h) _ _ h)

/-! Accesses. -/

@[simp] theorem State.countAccess_mem (s : State) (die home : Nat) (l : CachedLeaf) :
    (s.countAccess die home l).mem = s.mem := by unfold State.countAccess; split <;> rfl
@[simp] theorem State.noteLeaf_mem (s : State) (core die : Nat) (p : Place) (reaches : Bool) :
    (s.noteLeaf core die p reaches).mem = s.mem := by
  unfold State.noteLeaf; dsimp only; (repeat' split) <;> simp
@[simp] theorem State.visitLine_kept (s : State) (core : Nat) (ch : BitVec 2) (write : Bool) (p : Place)
    (h : Memory.Kept s.mem) : Memory.Kept (s.visitLine core ch write p).mem := by
  unfold State.visitLine; dsimp only; (repeat' split) <;> simp (maxDischargeDepth := 20) [h]
@[simp] theorem State.visit_kept (s : State) (core : Nat) (ch : BitVec 2) (write : Bool) (ps : List Place)
    (h : Memory.Kept s.mem) : Memory.Kept (s.visit core ch write ps).mem := foldl_kept _ (fun s p h => by simp [h]) _ _ h
@[simp] theorem State.putLine_mem (s : State) (core ia : Nat) (b : Byte) : (s.putLine core ia b).mem = s.mem := (rfl)
@[simp] theorem State.putByte_kept (s : State) (core : Nat) (p : Place) (b : Byte) (h : Memory.Kept s.mem) :
    Memory.Kept (s.putByte core p b).mem := by
  unfold State.putByte; dsimp only; (repeat' split) <;> simp (maxDischargeDepth := 20) [h]
@[simp] theorem State.putBytes_kept (ps : List (Place × Byte)) (s : State) (core : Nat) (h : Memory.Kept s.mem) :
    Memory.Kept (s.putBytes core ps).mem := by
  induction ps generalizing s with
  | nil => exact h
  | cons p ps ih => exact ih _ (State.putByte_kept s core p.1 p.2 h)

end Sys2Proof.Machine
end

