-- ==== Sys2Proof/Laws/KeptAccess.lean ====
section
/-! SUPPORT. The operations of Places.lean keep the canonical form of memory. -/

namespace Sys2Proof.Machine

/-- The state after a load that completes has the canonical form. -/
theorem State.loadBytes_kept {s t : State} {acc : Access} {os : List (Nat × Word)} {bs : List Byte}
    (h : Memory.Kept s.mem) (e : s.loadBytes acc os = .ok (bs, t)) : Memory.Kept t.mem := by
  unfold State.loadBytes at e
  split at e
  · cases e
  · cases e; simp [h]
/-- The state after a store that completes has the canonical form. -/
theorem State.storeBytes_kept {s t : State} {acc : Access} {os : List ((Nat × Word) × Byte)}
    (h : Memory.Kept s.mem) (e : s.storeBytes acc os = .ok t) : Memory.Kept t.mem := by
  unfold State.storeBytes at e
  split at e
  · cases e
  · cases e; split <;> simp (maxDischargeDepth := 20) [h]
@[simp] theorem State.requestPage_mem (s : State) (part : Nat) (ia : Nat) (host : Option Nat) :
    (s.requestPage part ia host).mem = s.mem := by
  unfold State.requestPage; try dsimp only; (repeat' split) <;> first | rfl | simp (maxDischargeDepth := 20)
@[simp] theorem State.askHost_mem (s : State) (die : Nat) (pasid : BitVec 20) (page : Nat) :
    (s.askHost die pasid page).mem = s.mem := by
  unfold State.askHost; split <;> rfl
@[simp] theorem State.settle_keeps (s : State) (t : Trap) (h : Memory.Kept s.mem) : Keeps (s.settle t) := by
  cases t <;> simp [State.settle, h]

end Sys2Proof.Machine
end

