-- ==== Sys2Proof/Laws/KeptScalar.lean ====
section
/-! SUPPORT. The meanings of the scalar family keep the canonical form of memory. -/

namespace Sys2Proof.Machine

@[simp] theorem retire_keeps (s : State) (d : BitVec 8) (v : Word) (h : Memory.Kept s.mem) : Keeps (retire s d v) := by
  simp [retire, h]
theorem binary_keeps (f : FQ) (s : State) (op : Word → Word → Word) (h : Memory.Kept s.mem) : Keeps (binary f s op) :=
  guarded_keeps h (retire_keeps _ _ _ h)
theorem unary_keeps (f : FQ) (s : State) (op : Word → Word) (h : Memory.Kept s.mem) : Keeps (unary f s op) :=
  guarded_keeps h (retire_keeps _ _ _ h)
theorem immediate_keeps (f : FI) (s : State) (op : Word → Word) (h : Memory.Kept s.mem) : Keeps (immediate f s op) :=
  guarded_keeps h (retire_keeps _ _ _ h)
theorem execNop_keeps (f : FQ) (s : State) (h : Memory.Kept s.mem) : Keeps (execNop f s) :=
  guarded_keeps h (by simp [h])
theorem execAdd_keeps (f : FQ) (s : State) (h : Memory.Kept s.mem) : Keeps (execAdd f s) :=
  binary_keeps _ _ _ h
theorem execSub_keeps (f : FQ) (s : State) (h : Memory.Kept s.mem) : Keeps (execSub f s) :=
  binary_keeps _ _ _ h
theorem execAddi_keeps (f : FI) (s : State) (h : Memory.Kept s.mem) : Keeps (execAddi f s) :=
  immediate_keeps _ _ _ h
theorem execMul_keeps (f : FQ) (s : State) (h : Memory.Kept s.mem) : Keeps (execMul f s) :=
  binary_keeps _ _ _ h
theorem execMulh_keeps (f : FQ) (s : State) (h : Memory.Kept s.mem) : Keeps (execMulh f s) :=
  binary_keeps _ _ _ h
theorem execMulhu_keeps (f : FQ) (s : State) (h : Memory.Kept s.mem) : Keeps (execMulhu f s) :=
  binary_keeps _ _ _ h
theorem execDiv_keeps (f : FQ) (s : State) (h : Memory.Kept s.mem) : Keeps (execDiv f s) :=
  binary_keeps _ _ _ h
theorem execDivu_keeps (f : FQ) (s : State) (h : Memory.Kept s.mem) : Keeps (execDivu f s) :=
  binary_keeps _ _ _ h
theorem execRem_keeps (f : FQ) (s : State) (h : Memory.Kept s.mem) : Keeps (execRem f s) :=
  binary_keeps _ _ _ h
theorem execRemu_keeps (f : FQ) (s : State) (h : Memory.Kept s.mem) : Keeps (execRemu f s) :=
  binary_keeps _ _ _ h
theorem execAnd_keeps (f : FQ) (s : State) (h : Memory.Kept s.mem) : Keeps (execAnd f s) :=
  binary_keeps _ _ _ h
theorem execOr_keeps (f : FQ) (s : State) (h : Memory.Kept s.mem) : Keeps (execOr f s) :=
  binary_keeps _ _ _ h
theorem execXor_keeps (f : FQ) (s : State) (h : Memory.Kept s.mem) : Keeps (execXor f s) :=
  binary_keeps _ _ _ h
theorem execAndn_keeps (f : FQ) (s : State) (h : Memory.Kept s.mem) : Keeps (execAndn f s) :=
  binary_keeps _ _ _ h
theorem execAndi_keeps (f : FI) (s : State) (h : Memory.Kept s.mem) : Keeps (execAndi f s) :=
  immediate_keeps _ _ _ h
theorem execOri_keeps (f : FI) (s : State) (h : Memory.Kept s.mem) : Keeps (execOri f s) :=
  immediate_keeps _ _ _ h
theorem execXori_keeps (f : FI) (s : State) (h : Memory.Kept s.mem) : Keeps (execXori f s) :=
  immediate_keeps _ _ _ h
theorem execShl_keeps (f : FQ) (s : State) (h : Memory.Kept s.mem) : Keeps (execShl f s) :=
  binary_keeps _ _ _ h
theorem execShr_keeps (f : FQ) (s : State) (h : Memory.Kept s.mem) : Keeps (execShr f s) :=
  binary_keeps _ _ _ h
theorem execSra_keeps (f : FQ) (s : State) (h : Memory.Kept s.mem) : Keeps (execSra f s) :=
  binary_keeps _ _ _ h
theorem execShli_keeps (f : FI) (s : State) (h : Memory.Kept s.mem) : Keeps (execShli f s) :=
  immediate_keeps _ _ _ h
theorem execShri_keeps (f : FI) (s : State) (h : Memory.Kept s.mem) : Keeps (execShri f s) :=
  immediate_keeps _ _ _ h
theorem execSrai_keeps (f : FI) (s : State) (h : Memory.Kept s.mem) : Keeps (execSrai f s) :=
  immediate_keeps _ _ _ h
theorem execRol_keeps (f : FQ) (s : State) (h : Memory.Kept s.mem) : Keeps (execRol f s) :=
  binary_keeps _ _ _ h
theorem execRoli_keeps (f : FI) (s : State) (h : Memory.Kept s.mem) : Keeps (execRoli f s) :=
  immediate_keeps _ _ _ h
theorem execClz_keeps (f : FQ) (s : State) (h : Memory.Kept s.mem) : Keeps (execClz f s) :=
  unary_keeps _ _ _ h
theorem execCtz_keeps (f : FQ) (s : State) (h : Memory.Kept s.mem) : Keeps (execCtz f s) :=
  unary_keeps _ _ _ h
theorem execPopc_keeps (f : FQ) (s : State) (h : Memory.Kept s.mem) : Keeps (execPopc f s) :=
  unary_keeps _ _ _ h
theorem execMin_keeps (f : FQ) (s : State) (h : Memory.Kept s.mem) : Keeps (execMin f s) :=
  binary_keeps _ _ _ h
theorem execMax_keeps (f : FQ) (s : State) (h : Memory.Kept s.mem) : Keeps (execMax f s) :=
  binary_keeps _ _ _ h
theorem execMinu_keeps (f : FQ) (s : State) (h : Memory.Kept s.mem) : Keeps (execMinu f s) :=
  binary_keeps _ _ _ h
theorem execMaxu_keeps (f : FQ) (s : State) (h : Memory.Kept s.mem) : Keeps (execMaxu f s) :=
  binary_keeps _ _ _ h
theorem execSext_keeps (f : FI) (s : State) (h : Memory.Kept s.mem) : Keeps (execSext f s) :=
  immediate_keeps _ _ _ h
theorem execZext_keeps (f : FI) (s : State) (h : Memory.Kept s.mem) : Keeps (execZext f s) :=
  immediate_keeps _ _ _ h
theorem execBfx_keeps (f : FI) (s : State) (h : Memory.Kept s.mem) : Keeps (execBfx f s) :=
  immediate_keeps _ _ _ h
theorem execBfxSx_keeps (f : FI) (s : State) (h : Memory.Kept s.mem) : Keeps (execBfxSx f s) :=
  immediate_keeps _ _ _ h
theorem execBfi_keeps (f : FI) (s : State) (h : Memory.Kept s.mem) : Keeps (execBfi f s) :=
  immediate_keeps _ _ _ h
theorem execSel_keeps (f : FQ) (s : State) (h : Memory.Kept s.mem) : Keeps (execSel f s) :=
  binary_keeps _ _ _ h
theorem execLi_keeps (f : FI) (s : State) (h : Memory.Kept s.mem) : Keeps (execLi f s) :=
  immediate_keeps _ _ _ h
theorem execLih_keeps (f : FI) (s : State) (h : Memory.Kept s.mem) : Keeps (execLih f s) :=
  immediate_keeps _ _ _ h
theorem execMov_keeps (f : FQ) (s : State) (h : Memory.Kept s.mem) : Keeps (execMov f s) := by
  unfold execMov; split
  · exact illegal_keeps _ _ h
  · exact guarded_keeps h (by simp [h])
theorem execAadd_keeps (f : FQ) (s : State) (h : Memory.Kept s.mem) : Keeps (execAadd f s) :=
  binary_keeps _ _ _ h
theorem execAaddi_keeps (f : FI) (s : State) (h : Memory.Kept s.mem) : Keeps (execAaddi f s) :=
  immediate_keeps _ _ _ h
theorem execCmp_keeps (f : FQ) (s : State) (h : Memory.Kept s.mem) : Keeps (execCmp f s) :=
  guarded_keeps h (by simp [h])
theorem execCmpi_keeps (f : FI) (s : State) (h : Memory.Kept s.mem) : Keeps (execCmpi f s) :=
  guarded_keeps h (by simp [h])
theorem predicate_keeps (f : FQ) (s : State) (op : Bool → Bool → Bool) (h : Memory.Kept s.mem) :
    Keeps (predicate f s op) := guarded_keeps h (by simp [h])
theorem execPand_keeps (f : FQ) (s : State) (h : Memory.Kept s.mem) : Keeps (execPand f s) :=
  predicate_keeps _ _ _ h
theorem execPor_keeps (f : FQ) (s : State) (h : Memory.Kept s.mem) : Keeps (execPor f s) :=
  predicate_keeps _ _ _ h
theorem execPxor_keeps (f : FQ) (s : State) (h : Memory.Kept s.mem) : Keeps (execPxor f s) :=
  predicate_keeps _ _ _ h
theorem execPnot_keeps (f : FQ) (s : State) (h : Memory.Kept s.mem) : Keeps (execPnot f s) :=
  guarded_keeps h (by simp [h])

end Sys2Proof.Machine
end

