-- ==== Sys2Proof/Laws/KeptControl.lean ====
section
/-! SUPPORT. The meanings of the control family keep the canonical form of memory. -/

namespace Sys2Proof.Machine

@[simp] theorem State.rest_mem (s : State) (n : Nat) : (s.rest n).mem = s.mem := (rfl)
theorem execMfc_keeps (f : FI) (s : State) (h : Memory.Kept s.mem) : Keeps (execMfc f s) := by
  refine guarded_keeps h ?_
  dsimp only; split
  · exact retire_keeps _ _ _ h
  · exact illegal_keeps _ _ h
theorem execMtc_keeps (f : FI) (s : State) (h : Memory.Kept s.mem) : Keeps (execMtc f s) := by
  unfold execMtc; dsimp only; refine guarded_keeps h ?_
  split
  · exact illegal_keeps _ _ h
  · simp [h]
@[simp] theorem State.steer_mem (s : State) (o : Option Word) : (s.steer o).mem = s.mem := by
  cases o with
  | none => simp [State.steer]
  | some t => simp only [State.steer]; split <;> simp
theorem branch_keeps (i : Instr) (g : BitVec 3) (gn : BitVec 1) (link : BitVec 8) (effect : State → State) (s : State)
    (he : (effect s).mem = s.mem) (h : Memory.Kept s.mem) : Keeps (branch i g gn link effect s) := by
  unfold branch; dsimp only; rw [keeps_next, State.steer_mem]
  (repeat' split) <;> simp [he, h]
theorem execBr_keeps (f : FB) (s : State) (h : Memory.Kept s.mem) : Keeps (execBr f s) :=
  branch_keeps _ _ _ _ _ _ rfl h
theorem execJ_keeps (f : FB) (s : State) (h : Memory.Kept s.mem) : Keeps (execJ f s) :=
  branch_keeps _ _ _ _ _ _ rfl h
theorem execJr_keeps (f : FQ) (s : State) (h : Memory.Kept s.mem) : Keeps (execJr f s) :=
  branch_keeps _ _ _ _ _ _ rfl h
theorem execLoop_keeps (f : FB) (s : State) (h : Memory.Kept s.mem) : Keeps (execLoop f s) :=
  branch_keeps _ _ _ _ _ _ rfl h
theorem execTrap_keeps (f : FI) (s : State) (h : Memory.Kept s.mem) :
    Keeps (execTrap f s) := by
  refine guarded_keeps h ?_; try dsimp only
  (repeat' split) <;> simp (maxDischargeDepth := 20) [h]
theorem execChk_keeps (f : FI) (s : State) (h : Memory.Kept s.mem) :
    Keeps (execChk f s) := by
  refine guarded_keeps h ?_; try dsimp only
  (repeat' split) <;> simp (maxDischargeDepth := 20) [h]
theorem execSysc_keeps (f : FI) (s : State) (h : Memory.Kept s.mem) :
    Keeps (execSysc f s) := by
  refine guarded_keeps h ?_; try dsimp only
  (repeat' split) <;> simp (maxDischargeDepth := 20) [h]
theorem execTret_keeps (f : FI) (s : State) (h : Memory.Kept s.mem) : Keeps (execTret f s) := by
  unfold execTret; split
  · exact illegal_keeps _ _ h
  · refine guarded_keeps h ?_
    dsimp only; split
    · simp [h]
    · split <;> simp [h]
theorem execHalt_keeps (f : FI) (s : State) (h : Memory.Kept s.mem) : Keeps (execHalt f s) := by
  unfold execHalt; split
  · exact illegal_keeps _ _ h
  · dsimp only
    generalize (match s.cur.forwarded with | some fw => fw.guard | none => s.guard f.g f.gn) = takes
    (repeat' split) <;> simp (maxDischargeDepth := 20) [h]
theorem execFenceI_keeps (f : FI) (s : State) (h : Memory.Kept s.mem) :
    Keeps (execFenceI f s) := by
  refine guarded_keeps h ?_; try dsimp only
  (repeat' split) <;> simp (maxDischargeDepth := 20) [h]
theorem execYield_keeps (f : FI) (s : State) (h : Memory.Kept s.mem) :
    Keeps (execYield f s) := by
  refine guarded_keeps h ?_; try dsimp only
  (repeat' split) <;> simp (maxDischargeDepth := 20) [h]

end Sys2Proof.Machine
end

