-- ==== Sys2Proof/Laws/KeptHelpers.lean ====
section
/-! SUPPORT. The meanings of the helpers, the hod and the bonds keep the canonical form of memory. -/

namespace Sys2Proof.Machine

@[simp] theorem retireE_keeps (s : State) (f : FE) (v : Word) (h : Memory.Kept s.mem) : Keeps (retireE s f v) := by
  simp [retireE, h]
@[simp] theorem State.startContext_kept (s : State) (core n : Nat) (pc arg : Word) (at_ : Nat) (h : Memory.Kept s.mem) :
    Memory.Kept (s.startContext core n pc arg at_).mem := by
  unfold State.startContext; rw [State.modCtx_mem]; split <;> simp [h]
theorem execHstart_keeps (f : FE) (s : State) (h : Memory.Kept s.mem) :
    Keeps (execHstart f s) := by
  refine guarded_keeps h ?_; try dsimp only
  (repeat' split) <;> simp (maxDischargeDepth := 20) [h]
@[simp] theorem State.issuerEnds_mem (s : State) (core n : Nat) : (s.issuerEnds core n).mem = s.mem := (rfl)
@[simp] theorem State.endHelper_mem (s : State) (core : Nat) (n : Nat) :
    (s.endHelper core n).mem = s.mem := (rfl)
theorem execHend_keeps (f : FE) (s : State) (h : Memory.Kept s.mem) : Keeps (execHend f s) := by
  unfold execHend; split
  · exact illegal_keeps _ _ h
  · refine guarded_keeps h ?_
    dsimp only; (repeat' split) <;> simp (maxDischargeDepth := 20) [h]
theorem execHelperReturnMessage_keeps (s : State) (h : Memory.Kept s.mem) :
    Keeps (execHelperReturnMessage s) := by
  unfold execHelperReturnMessage; try dsimp only; (repeat' split) <;> simp (maxDischargeDepth := 20) [h]
theorem execHjoin_keeps (f : FE) (s : State) (h : Memory.Kept s.mem) :
    Keeps (execHjoin f s) := by
  refine guarded_keeps h ?_; try dsimp only
  (repeat' split) <;> simp (maxDischargeDepth := 20) [h]
theorem execHstat_keeps (f : FE) (s : State) (h : Memory.Kept s.mem) :
    Keeps (execHstat f s) := by
  refine guarded_keeps h ?_; try dsimp only
  (repeat' split) <;> simp (maxDischargeDepth := 20) [h]
@[simp] theorem State.becomeHeader_mem (s : State) (core : Nat) (pc : Word) (at_ : Nat) :
    (s.becomeHeader core pc at_).mem = s.mem := (rfl)
@[simp] theorem State.releaseFollower_mem (s : State) (n header : Nat) : (s.releaseFollower n header).mem = s.mem := (rfl)
@[simp] theorem State.releaseFollowers_mem (s : State) (core : Nat) : (s.releaseFollowers core).mem = s.mem := by
  unfold State.releaseFollowers
  exact foldl_mem _ (fun s n => by split <;> simp) _ _
theorem bondOp_keeps {opc : BitVec 10} {f : FE} {s : State} {k : State → Out} (h : Memory.Kept s.mem)
    (hk : Keeps (k s)) : Keeps (bondOp opc f s k) := controlOnly_keeps h hk
theorem detachable_keeps {f : FE} {s : State} {k : State → Out} (h : Memory.Kept s.mem) (hk : Keeps (k s)) :
    Keeps (detachable f s k) := by
  refine bondOp_keeps h ?_; split
  · exact illegal_keeps _ _ h
  · exact hk
theorem execGdetach_keeps (f : FE) (s : State) (h : Memory.Kept s.mem) : Keeps (execGdetach f s) := by
  exact detachable_keeps h (by simp [h])
theorem execGdetachJoin_keeps (f : FE) (s : State) (h : Memory.Kept s.mem) : Keeps (execGdetachJoin f s) := by
  refine detachable_keeps h ?_
  dsimp only; (repeat' split) <;> simp [h]
theorem execGattach_keeps (f : FE) (s : State) (h : Memory.Kept s.mem) : Keeps (execGattach f s) := by
  refine bondOp_keeps h ?_
  dsimp only; (repeat' split) <;> simp [h]
theorem execGmerge_keeps (f : FE) (s : State) (h : Memory.Kept s.mem) : Keeps (execGmerge f s) := by
  exact bondOp_keeps h (by simp [h])

end Sys2Proof.Machine
end

