-- ==== Sys2Proof/Laws/KeptFetch.lean ====
section
/-! SUPPORT. Fetching and preparing an instruction keep the canonical form of memory. -/

namespace Sys2Proof.Machine


/-- What a context does on its turn keeps the canonical form. -/
def Prepared.Keeps : Prepared → Prop
  | .idle t => Memory.Kept t.mem
  | .run _ t => Memory.Kept t.mem
  | .raised _ t u => Memory.Kept t.mem ∧ Memory.Kept u.mem

@[simp] theorem Prepared.keeps_idle (t : State) : (Prepared.idle t).Keeps ↔ Memory.Kept t.mem := Iff.rfl
@[simp] theorem Prepared.keeps_run (i : Instr) (t : State) : (Prepared.run i t).Keeps ↔ Memory.Kept t.mem := Iff.rfl

@[simp] theorem Prepared.keeps_raised (i : Instr) (t u : State) :
    (Prepared.raised i t u).Keeps ↔ Memory.Kept t.mem ∧ Memory.Kept u.mem := Iff.rfl

@[simp] theorem State.keepLine_kept (s : State) (core : Nat) (p : Place) (line : BitVec 512) (h : Memory.Kept s.mem) :
    Memory.Kept (s.keepLine core p line).mem := by
  unfold State.keepLine; dsimp only; (repeat' split) <;> simp [h]
@[simp] theorem State.begin__mem (s : State) (i : Option Instr) : (s.begin_ i).mem = s.mem := by
  unfold State.begin_; split <;> rfl
@[simp] theorem State.fetched_mem (s : State) : s.fetched.mem = s.mem := by unfold State.fetched; split <;> rfl
@[simp] theorem State.rewritten_mem (s : State) (core : Nat) (i : Instr) : (s.rewritten core i).mem = s.mem := by
  unfold State.rewritten; split <;> rfl
@[simp] theorem State.closeBlock_mem (s : State) (core : Nat) : (s.closeBlock core).mem = s.mem := by
  unfold State.closeBlock; dsimp only; split <;> simp
@[simp] theorem State.passOver_mem (n : Nat) (s : State) (core leader : Nat) : (s.passOver core leader n).mem = s.mem := by
  induction n generalizing s with
  | zero => rfl
  | succ n ih => unfold State.passOver; dsimp only; (repeat' split) <;> simp [ih]
@[simp] theorem State.declinedFault_mem (s : State) (core ctx ia : Nat) : (s.declinedFault core ctx ia).mem = s.mem := by
  simp [State.declinedFault]
theorem State.fetchWait_kept {s u : State} {t : Trap} (hu : s.fetchWait t = some u) (h : Memory.Kept s.mem) :
    Memory.Kept u.mem := by
  unfold State.fetchWait at hu
  dsimp only at hu
  split at hu
  · rename_i e
    cases hu
    have := State.settle_keeps (s.begin_ none) t (by simpa using h)
    rw [e] at this
    simpa using this
  · cases hu
theorem State.prepared_keeps (s : State) (core : Nat) (i : Instr) (h : Memory.Kept s.mem) : (s.prepared core i).Keeps := by
  unfold State.prepared; split <;> simp [h]
@[simp] theorem State.countWithheld_mem (s : State) (core : Nat) (i : Instr) : (s.countWithheld core i).mem = s.mem :=
  foldl_mem _ (fun s n => by split <;> simp) _ _
@[simp] theorem State.noteConds_mem (t before : State) (i : Instr) : (t.noteConds before i).mem = t.mem := by
  unfold State.noteConds; dsimp only; (repeat' split) <;> simp
@[simp] theorem State.turnTo_mem (s : State) (core : Nat) (ctx : Fin 12) (fw : Option Forward) :
    (s.turnTo core ctx fw).mem = s.mem := (rfl)
theorem State.prepareFollower_keeps (s : State) (core leader : Nat) (h : Memory.Kept s.mem) :
    (s.prepareFollower core leader).Keeps := by
  unfold State.prepareFollower; dsimp only
  split
  · simp [h]
  · split
    · simp [h]
    · split
      · simp [h]
      · split
        · simp [h]
        · exact State.prepared_keeps _ _ _ (by split <;> simp [h])
theorem State.prepareFetch_keeps (s : State) (core : Nat) (ctx : Fin 12) (h : Memory.Kept s.mem) :
    (s.prepareFetch core ctx).Keeps := by
  unfold State.prepareFetch; dsimp only
  split
  · simp [h]
  · split
    · rename_i e; exact State.fetchWait_kept e (by simpa using h)
    · simp [h]
  · split
    · simp [h]
    · split
      · split <;> simp [h]
      · split
        · simp [h]
          split <;> simp [h]
        · split
          · refine State.prepared_keeps _ _ _ ?_
            split <;> simp [h] <;> split <;> simp [h]
          · simp [h]
            split <;> simp [h]
theorem State.prepareStream_keeps (s : State) (core leader : Nat) (h : Memory.Kept s.mem) :
    (s.prepareStream core leader).Keeps := by
  unfold State.prepareStream; dsimp only
  split
  · split
    · simp [h]
    · exact State.prepareFetch_keeps _ _ _ (by simp [h])
  · exact State.prepareFollower_keeps _ _ _ (by simp [h])
theorem State.prepare_keeps (s : State) (core : Nat) (ctx : Fin 12) (h : Memory.Kept s.mem) :
    (s.prepare core ctx).Keeps := by
  unfold State.prepare
  (repeat' split) <;> simp [h, State.prepareStream_keeps, State.prepareFetch_keeps] <;> split <;> simp [h]
@[simp] theorem State.finish_mem (t : State) (before : State) (i : Instr) :
    (t.finish before i).mem = t.mem := by
  unfold State.finish; try dsimp only; (repeat' split) <;> first | rfl | simp (maxDischargeDepth := 20)

end Sys2Proof.Machine
end

