-- ==== Sys2Proof/Laws/KeptVector.lean ====
section
/-! SUPPORT. The meanings of the vector family keep the canonical form of memory. -/

namespace Sys2Proof.Machine


@[simp] theorem State.raiseFlags_mem (s : State) (core : Nat) (f : FpFlags) : (s.raiseFlags core f).mem = s.mem := (rfl)
theorem vectorOp_keeps {opc : BitVec 10} {f : FV} {s : State} {k : State → Out} (h : Memory.Kept s.mem)
    (hk : Keeps (k s)) : Keeps (vectorOp opc f s k) := controlOnly_keeps h hk
@[simp] theorem State.writeLanes_keeps (s : State) (d : BitVec 8) (op : Nat → Nat × FpFlags) (h : Memory.Kept s.mem) :
    Keeps (s.writeLanes d op) := by simp [State.writeLanes, h]
theorem floatBinary_keeps (opc : BitVec 10) (f : FV) (s : State) (op : Exact → Exact → Exact × FpFlags) (h : Memory.Kept s.mem) :
    Keeps (floatBinary opc f s op) := vectorOp_keeps h (State.writeLanes_keeps _ _ _ h)
theorem floatUnary_keeps (opc : BitVec 10) (f : FV) (s : State) (op : Exact → Exact × FpFlags) (h : Memory.Kept s.mem) :
    Keeps (floatUnary opc f s op) := vectorOp_keeps h (State.writeLanes_keeps _ _ _ h)
theorem floatTernary_keeps (opc : BitVec 10) (f : FV) (s : State) (op : Exact → Exact → Exact → Exact × FpFlags) (h : Memory.Kept s.mem) :
    Keeps (floatTernary opc f s op) := vectorOp_keeps h (State.writeLanes_keeps _ _ _ h)
theorem execVadd_keeps (f : FV) (s : State) (h : Memory.Kept s.mem) : Keeps (execVadd f s) :=
  floatBinary_keeps _ _ _ _ h
theorem execVsub_keeps (f : FV) (s : State) (h : Memory.Kept s.mem) : Keeps (execVsub f s) :=
  floatBinary_keeps _ _ _ _ h
theorem execVmul_keeps (f : FV) (s : State) (h : Memory.Kept s.mem) : Keeps (execVmul f s) :=
  floatBinary_keeps _ _ _ _ h
theorem execVfma_keeps (f : FV) (s : State) (h : Memory.Kept s.mem) : Keeps (execVfma f s) :=
  floatTernary_keeps _ _ _ _ h
theorem execVfms_keeps (f : FV) (s : State) (h : Memory.Kept s.mem) : Keeps (execVfms f s) :=
  floatTernary_keeps _ _ _ _ h
theorem execVdiv_keeps (f : FV) (s : State) (h : Memory.Kept s.mem) : Keeps (execVdiv f s) :=
  floatBinary_keeps _ _ _ _ h
theorem execVsqrt_keeps (f : FV) (s : State) (h : Memory.Kept s.mem) : Keeps (execVsqrt f s) :=
  floatUnary_keeps _ _ _ _ h
theorem execVrcpe_keeps (f : FV) (s : State) (h : Memory.Kept s.mem) : Keeps (execVrcpe f s) :=
  floatUnary_keeps _ _ _ _ h
theorem execVrsqe_keeps (f : FV) (s : State) (h : Memory.Kept s.mem) : Keeps (execVrsqe f s) :=
  floatUnary_keeps _ _ _ _ h
theorem execVexp2_keeps (f : FV) (s : State) (h : Memory.Kept s.mem) : Keeps (execVexp2 f s) :=
  floatUnary_keeps _ _ _ _ h
theorem execVlog2_keeps (f : FV) (s : State) (h : Memory.Kept s.mem) : Keeps (execVlog2 f s) :=
  floatUnary_keeps _ _ _ _ h
theorem extremeOp_keeps (opc : BitVec 10) (g : Bool) (f : FV) (s : State) (h : Memory.Kept s.mem) :
    Keeps (extremeOp opc g f s) := vectorOp_keeps h (State.writeLanes_keeps _ _ _ h)
theorem execVmin_keeps (f : FV) (s : State) (h : Memory.Kept s.mem) : Keeps (execVmin f s) :=
  extremeOp_keeps _ _ _ _ h
theorem execVmax_keeps (f : FV) (s : State) (h : Memory.Kept s.mem) : Keeps (execVmax f s) :=
  extremeOp_keeps _ _ _ _ h
theorem bitLanes_keeps (opc : BitVec 10) (f : FV) (s : State) (op : State → Nat → Nat) (h : Memory.Kept s.mem) :
    Keeps (bitLanes opc f s op) := vectorOp_keeps h (State.writeLanes_keeps _ _ _ h)
theorem execVabs_keeps (f : FV) (s : State) (h : Memory.Kept s.mem) : Keeps (execVabs f s) :=
  bitLanes_keeps _ _ _ _ h
theorem execVneg_keeps (f : FV) (s : State) (h : Memory.Kept s.mem) : Keeps (execVneg f s) :=
  bitLanes_keeps _ _ _ _ h
theorem execVcmp_keeps (f : FV) (s : State) (h : Memory.Kept s.mem) : Keeps (execVcmp f s) :=
  vectorOp_keeps h (by simp [h])
theorem execVsel_keeps (f : FV) (s : State) (h : Memory.Kept s.mem) : Keeps (execVsel f s) :=
  bitLanes_keeps _ _ _ _ h
theorem execVclass_keeps (f : FV) (s : State) (h : Memory.Kept s.mem) : Keeps (execVclass f s) :=
  bitLanes_keeps _ _ _ _ h
theorem execVcvt_keeps (f : FV) (s : State) (h : Memory.Kept s.mem) : Keeps (execVcvt f s) := by
  refine vectorOp_keeps h ?_
  try dsimp only
  (repeat' split) <;> simp [h]
theorem intLanes_keeps (opc : BitVec 10) (f : FV) (s : State) (op : Int → Int → Int → Int) (h : Memory.Kept s.mem) :
    Keeps (intLanes opc f s op) := bitLanes_keeps _ _ _ _ h
theorem execViadd_keeps (f : FV) (s : State) (h : Memory.Kept s.mem) : Keeps (execViadd f s) :=
  intLanes_keeps _ _ _ _ h
theorem execVisub_keeps (f : FV) (s : State) (h : Memory.Kept s.mem) : Keeps (execVisub f s) :=
  intLanes_keeps _ _ _ _ h
theorem execVimul_keeps (f : FV) (s : State) (h : Memory.Kept s.mem) : Keeps (execVimul f s) :=
  intLanes_keeps _ _ _ _ h
theorem execVimad_keeps (f : FV) (s : State) (h : Memory.Kept s.mem) : Keeps (execVimad f s) :=
  intLanes_keeps _ _ _ _ h
theorem execVimin_keeps (f : FV) (s : State) (h : Memory.Kept s.mem) : Keeps (execVimin f s) :=
  intLanes_keeps _ _ _ _ h
theorem execVimax_keeps (f : FV) (s : State) (h : Memory.Kept s.mem) : Keeps (execVimax f s) :=
  intLanes_keeps _ _ _ _ h
theorem execVand_keeps (f : FV) (s : State) (h : Memory.Kept s.mem) : Keeps (execVand f s) :=
  bitLanes_keeps _ _ _ _ h
theorem execVor_keeps (f : FV) (s : State) (h : Memory.Kept s.mem) : Keeps (execVor f s) :=
  bitLanes_keeps _ _ _ _ h
theorem execVxor_keeps (f : FV) (s : State) (h : Memory.Kept s.mem) : Keeps (execVxor f s) :=
  bitLanes_keeps _ _ _ _ h
theorem shiftLanes_keeps (opc : BitVec 10) (f : FV) (s : State) (op : (w : Nat) → BitVec w → Nat → BitVec w)
    (h : Memory.Kept s.mem) : Keeps (shiftLanes opc f s op) := bitLanes_keeps _ _ _ _ h
theorem execVshl_keeps (f : FV) (s : State) (h : Memory.Kept s.mem) : Keeps (execVshl f s) :=
  shiftLanes_keeps _ _ _ _ h
theorem execVshr_keeps (f : FV) (s : State) (h : Memory.Kept s.mem) : Keeps (execVshr f s) :=
  shiftLanes_keeps _ _ _ _ h
theorem execVsra_keeps (f : FV) (s : State) (h : Memory.Kept s.mem) : Keeps (execVsra f s) :=
  shiftLanes_keeps _ _ _ _ h
theorem execVmovv_keeps (f : FV) (s : State) (h : Memory.Kept s.mem) : Keeps (execVmovv f s) :=
  bitLanes_keeps _ _ _ _ h
theorem execVrsum_keeps (f : FV) (s : State) (h : Memory.Kept s.mem) : Keeps (execVrsum f s) :=
  vectorOp_keeps h (by simp [h])
theorem extremeTree_keeps (opc : BitVec 10) (g : Bool) (f : FV) (s : State) (h : Memory.Kept s.mem) :
    Keeps (extremeTree opc g f s) := vectorOp_keeps h (by simp [h])
theorem execVrmax_keeps (f : FV) (s : State) (h : Memory.Kept s.mem) : Keeps (execVrmax f s) :=
  extremeTree_keeps _ _ _ _ h
theorem execVrmin_keeps (f : FV) (s : State) (h : Memory.Kept s.mem) : Keeps (execVrmin f s) :=
  extremeTree_keeps _ _ _ _ h
theorem execVscan_keeps (f : FV) (s : State) (h : Memory.Kept s.mem) : Keeps (execVscan f s) :=
  vectorOp_keeps h (by simp [h])
theorem execVbcast_keeps (f : FV) (s : State) (h : Memory.Kept s.mem) : Keeps (execVbcast f s) :=
  bitLanes_keeps _ _ _ _ h
theorem execVperm_keeps (f : FV) (s : State) (h : Memory.Kept s.mem) : Keeps (execVperm f s) :=
  bitLanes_keeps _ _ _ _ h
theorem execVslide_keeps (f : FV) (s : State) (h : Memory.Kept s.mem) : Keeps (execVslide f s) :=
  bitLanes_keeps _ _ _ _ h
theorem execVcomp_keeps (f : FV) (s : State) (h : Memory.Kept s.mem) : Keeps (execVcomp f s) :=
  vectorOp_keeps h (by simp [h])
theorem execVexpd_keeps (f : FV) (s : State) (h : Memory.Kept s.mem) : Keeps (execVexpd f s) :=
  vectorOp_keeps h (by simp [h])
theorem execViota_keeps (f : FV) (s : State) (h : Memory.Kept s.mem) : Keeps (execViota f s) :=
  vectorOp_keeps h (by simp [h])
theorem execVgetl_keeps (f : FV) (s : State) (h : Memory.Kept s.mem) : Keeps (execVgetl f s) := by
  refine vectorOp_keeps h ?_
  try dsimp only
  (repeat' split) <;> simp [h]
theorem execVsetl_keeps (f : FV) (s : State) (h : Memory.Kept s.mem) : Keeps (execVsetl f s) :=
  vectorOp_keeps h (by simp [h])
theorem maskOp_keeps (opc : BitVec 10) (f : FV) (s : State) (op : State → Word) (h : Memory.Kept s.mem) :
    Keeps (maskOp opc f s op) := vectorOp_keeps h (by simp [h])
theorem execKpopc_keeps (f : FV) (s : State) (h : Memory.Kept s.mem) : Keeps (execKpopc f s) := by
  refine vectorOp_keeps h ?_
  try dsimp only
  (repeat' split) <;> simp [h]
theorem execKfirst_keeps (f : FV) (s : State) (h : Memory.Kept s.mem) : Keeps (execKfirst f s) := by
  refine vectorOp_keeps h ?_
  try dsimp only
  (repeat' split) <;> simp [h]
theorem execKand_keeps (f : FV) (s : State) (h : Memory.Kept s.mem) : Keeps (execKand f s) :=
  maskOp_keeps _ _ _ _ h
theorem execKor_keeps (f : FV) (s : State) (h : Memory.Kept s.mem) : Keeps (execKor f s) :=
  maskOp_keeps _ _ _ _ h
theorem execKxor_keeps (f : FV) (s : State) (h : Memory.Kept s.mem) : Keeps (execKxor f s) :=
  maskOp_keeps _ _ _ _ h
theorem execKnot_keeps (f : FV) (s : State) (h : Memory.Kept s.mem) : Keeps (execKnot f s) :=
  maskOp_keeps _ _ _ _ h
theorem execKmov_keeps (f : FV) (s : State) (h : Memory.Kept s.mem) : Keeps (execKmov f s) :=
  maskOp_keeps _ _ _ _ h
@[simp] theorem State.arrive_mem (s : State) (core side : Nat) : (s.arrive core side).mem = s.mem := by
  unfold State.arrive
  exact foldl_mem _ (fun s p => by split <;> rfl) _ _
theorem execVnsend_keeps (f : FV) (s : State) (h : Memory.Kept s.mem) : Keeps (execVnsend f s) := by
  refine vectorOp_keeps h ?_
  try dsimp only
  (repeat' split) <;> simp [h]
theorem execVnrecv_keeps (f : FV) (s : State) (h : Memory.Kept s.mem) : Keeps (execVnrecv f s) :=
  vectorOp_keeps h (by simp [h])
theorem execChannelArrival_keeps (s : State) (h : Memory.Kept s.mem) : Keeps (execChannelArrival s) := by
  simp [execChannelArrival, h]
theorem execVlmul_keeps (f : FV) (s : State) (h : Memory.Kept s.mem) : Keeps (execVlmul f s) := by
  refine vectorOp_keeps h ?_
  try dsimp only
  (repeat' split) <;> simp [h]
theorem execVlsum_keeps (f : FV) (s : State) (h : Memory.Kept s.mem) : Keeps (execVlsum f s) := by
  refine vectorOp_keeps h ?_
  try dsimp only
  (repeat' split) <;> simp [h]
theorem execVlpack_keeps (f : FV) (s : State) (h : Memory.Kept s.mem) : Keeps (execVlpack f s) :=
  vectorOp_keeps h (by simp [h])
theorem execVlunpk_keeps (f : FV) (s : State) (h : Memory.Kept s.mem) : Keeps (execVlunpk f s) :=
  vectorOp_keeps h (by simp [h])

end Sys2Proof.Machine
end

