-- ==== Sys2Proof/Laws/KeptMemory.lean ====
section
/-! SUPPORT. The meanings of the memory family keep the canonical form of memory. -/

namespace Sys2Proof.Machine

theorem aligned_keeps {n : Nat} {o : Word} {s : State} {k : State → Out} (h : Memory.Kept s.mem) (hk : Keeps (k s)) :
    Keeps (aligned n o s k) := by unfold aligned; split <;> simp [h, hk]
theorem memOp_keeps {opc : BitVec 10} {c : Bool} {f : FM} {s : State} {k : State → Out} (h : Memory.Kept s.mem)
    (hk : Keeps (k s)) : Keeps (memOp opc c f s k) := by
  unfold memOp; split
  · exact illegal_keeps _ _ h
  · exact guarded_keeps h hk
@[simp] theorem State.deliverWord_keeps (s : State) (am : Nat) (r : BitVec 8) (v : Word) (h : Memory.Kept s.mem) :
    Keeps (s.deliverWord am r v) := by unfold State.deliverWord; split <;> simp [h]
@[simp] theorem State.deliverAtomic_keeps (s : State) (am : Nat) (r : BitVec 8) (v : Word) (h : Memory.Kept s.mem) :
    Keeps (s.deliverAtomic am r v) := by unfold State.deliverAtomic; split <;> simp [h]
@[simp] theorem State.deliverLanes_keeps (s : State) (am : Nat) (r : BitVec 8) (m : Word) (v : VReg)
    (h : Memory.Kept s.mem) : Keeps (s.deliverLanes am r m v) := by
  unfold State.deliverLanes; dsimp only; split <;> simp [h]
theorem State.load_keeps {s : State} {acc : Access} {o : Word} {n : Nat} {k : State → Nat → Out}
    (h : Memory.Kept s.mem) (hk : ∀ t x, Memory.Kept t.mem → Keeps (k t x)) : Keeps (s.load acc o n k) := by
  unfold State.load; split
  · exact State.settle_keeps _ _ h
  · rename_i e; exact hk _ _ (State.loadBytes_kept h e)
theorem execLd_keeps (f : FM) (s : State) (h : Memory.Kept s.mem) : Keeps (execLd f s) := by
  exact memOp_keeps h (State.load_keeps h fun t x ht => by simp [ht])
theorem execLdk_keeps (f : FM) (s : State) (h : Memory.Kept s.mem) : Keeps (execLdk f s) := by
  exact memOp_keeps h (State.load_keeps h fun t x ht => by simp [ht])
theorem execLda_keeps (f : FM) (s : State) (h : Memory.Kept s.mem) : Keeps (execLda f s) := by
  exact memOp_keeps h (aligned_keeps h (State.load_keeps h fun t x ht => by simp [ht]))
theorem vectorLoad_keeps (opc : BitVec 10) (f : FM) (s : State) (n : Nat) (off : State → Nat → Word)
    (h : Memory.Kept s.mem) : Keeps (vectorLoad opc f s n off) := by
  refine memOp_keeps h ?_
  dsimp only; split
  · exact State.settle_keeps _ _ h
  · rename_i e; exact State.deliverLanes_keeps _ _ _ _ _ (State.loadBytes_kept h e)
theorem vectorStore_keeps (opc : BitVec 10) (f : FM) (s : State) (n : Nat) (off : State → Nat → Word)
    (h : Memory.Kept s.mem) : Keeps (vectorStore opc f s n off) := by
  refine memOp_keeps h ?_
  dsimp only; split
  · exact State.settle_keeps _ _ h
  · rename_i e; simpa using State.storeBytes_kept h e
theorem execLdv_keeps (f : FM) (s : State) (h : Memory.Kept s.mem) : Keeps (execLdv f s) := by
  exact vectorLoad_keeps _ _ _ _ _ h
theorem execLdvs_keeps (f : FM) (s : State) (h : Memory.Kept s.mem) : Keeps (execLdvs f s) := by
  exact vectorLoad_keeps _ _ _ _ _ h
theorem execLdvx_keeps (f : FM) (s : State) (h : Memory.Kept s.mem) : Keeps (execLdvx f s) := by
  exact vectorLoad_keeps _ _ _ _ _ h
theorem execLdsec_keeps (f : FM) (s : State) (h : Memory.Kept s.mem) : Keeps (execLdsec f s) := by
  exact memOp_keeps h (aligned_keeps h (State.load_keeps h fun t x ht => by simp [ht]))
theorem State.store_keeps {s : State} {acc : Access} {o : Word} {n x : Nat} {k : State → Out}
    (h : Memory.Kept s.mem) (hk : ∀ t, Memory.Kept t.mem → Keeps (k t)) : Keeps (s.store acc o n x k) := by
  unfold State.store; split
  · exact State.settle_keeps _ _ h
  · rename_i e; exact hk _ (State.storeBytes_kept h e)
theorem execSt_keeps (f : FM) (s : State) (h : Memory.Kept s.mem) : Keeps (execSt f s) := by
  exact memOp_keeps h (State.store_keeps h fun t ht => by simp [ht])
theorem execStk_keeps (f : FM) (s : State) (h : Memory.Kept s.mem) : Keeps (execStk f s) := by
  exact memOp_keeps h (State.store_keeps h fun t ht => by simp [ht])
@[simp] theorem State.writeReplica_kept (s : State) (core loc : Nat) (p : Place) (b : Byte) (h : Memory.Kept s.mem) :
    Memory.Kept (s.writeReplica core loc p b).mem := by
  unfold State.writeReplica; split
  · simp [h]
  · exact State.poke_kept _ _ _ (State.dirtyL2_kept _ _ (by split <;> simp [h]))
@[simp] theorem State.multicast_kept (s : State) (ps : List Place) (bs : List Byte) (h : Memory.Kept s.mem) :
    Memory.Kept (s.multicast ps bs).mem := by
  unfold State.multicast; split
  · refine foldl_kept _ (fun s e h => ?_) _ _ (by simp [h])
    split
    · split
      · exact foldl_kept _ (fun s a h => by simp [h]) _ _ h
      · exact h
    · exact h
  · exact h
theorem execStrl_keeps (f : FM) (s : State) (h : Memory.Kept s.mem) : Keeps (execStrl f s) := by
  refine memOp_keeps h (aligned_keeps h ?_)
  dsimp only; split
  · exact State.settle_keeps _ _ h
  · refine State.store_keeps (by simp [h]) fun t ht => ?_
    rw [keeps_next]; split <;> simp [ht]
theorem execStv_keeps (f : FM) (s : State) (h : Memory.Kept s.mem) : Keeps (execStv f s) := by
  exact vectorStore_keeps _ _ _ _ _ h
theorem execStvs_keeps (f : FM) (s : State) (h : Memory.Kept s.mem) : Keeps (execStvs f s) := by
  exact vectorStore_keeps _ _ _ _ _ h
theorem execStvx_keeps (f : FM) (s : State) (h : Memory.Kept s.mem) : Keeps (execStvx f s) := by
  exact vectorStore_keeps _ _ _ _ _ h
theorem execStsec_keeps (f : FM) (s : State) (h : Memory.Kept s.mem) : Keeps (execStsec f s) := by
  refine memOp_keeps h (aligned_keeps h ?_)
  dsimp only; split
  · exact State.settle_keeps _ _ h
  · rw [keeps_next]; split <;> simp (maxDischargeDepth := 20) [h]
theorem execPref_keeps (f : FM) (s : State) (h : Memory.Kept s.mem) : Keeps (execPref f s) := by
  refine memOp_keeps h ?_
  split
  · simp [h]
  · rw [keeps_next, State.advance_mem]; split <;> simp [h]
@[simp] theorem State.expel_kept (s : State) (core : Nat) (ps : List Place) (h : Memory.Kept s.mem) :
    Memory.Kept (s.expel core ps).mem := by simp [State.expel, h]
@[simp] theorem State.toHome_kept (s : State) (core : Nat) (ps : List Place) (h : Memory.Kept s.mem) :
    Memory.Kept (s.toHome core ps).mem := by
  refine foldl_kept _ (fun s p h => ?_) _ _ (by simp [h])
  dsimp only; split
  · split <;> simp [h]
  · simp [h]
theorem atomic_keeps (opc : BitVec 10) (f : FM) (s : State) (op : Nat → Nat → Nat → Option Nat) (h : Memory.Kept s.mem) :
    Keeps (atomic opc f s op) := by
  refine memOp_keeps h (aligned_keeps h ?_)
  dsimp only; split
  · exact State.settle_keeps _ _ h
  · apply State.deliverAtomic_keeps
    apply State.acquire_kept
    have h3 (t : State) (ht : Memory.Kept t.mem) :
        Memory.Kept (if arbitrated f.am.toNat = true then t.nonRestartable s.cur.core 3 else t).mem := by
      split <;> simp [ht]
    have h4 : Memory.Kept (if f.var.getLsbD 1 = true then s.release s.cur.core else s).mem := by split <;> simp [h]
    split
    · exact State.putBytes_kept _ _ _ (h3 _ (State.toHome_kept _ _ _ h4))
    · exact h3 _ (State.toHome_kept _ _ _ h4)
theorem execAmoadd_keeps (f : FM) (s : State) (h : Memory.Kept s.mem) : Keeps (execAmoadd f s) := by
  exact atomic_keeps _ _ _ _ h
theorem execAmomin_keeps (f : FM) (s : State) (h : Memory.Kept s.mem) : Keeps (execAmomin f s) := by
  exact atomic_keeps _ _ _ _ h
theorem execAmomax_keeps (f : FM) (s : State) (h : Memory.Kept s.mem) : Keeps (execAmomax f s) := by
  exact atomic_keeps _ _ _ _ h
theorem execAmominu_keeps (f : FM) (s : State) (h : Memory.Kept s.mem) : Keeps (execAmominu f s) := by
  exact atomic_keeps _ _ _ _ h
theorem execAmomaxu_keeps (f : FM) (s : State) (h : Memory.Kept s.mem) : Keeps (execAmomaxu f s) := by
  exact atomic_keeps _ _ _ _ h
theorem execAmoand_keeps (f : FM) (s : State) (h : Memory.Kept s.mem) : Keeps (execAmoand f s) := by
  exact atomic_keeps _ _ _ _ h
theorem execAmoor_keeps (f : FM) (s : State) (h : Memory.Kept s.mem) : Keeps (execAmoor f s) := by
  exact atomic_keeps _ _ _ _ h
theorem execAmoxor_keeps (f : FM) (s : State) (h : Memory.Kept s.mem) : Keeps (execAmoxor f s) := by
  exact atomic_keeps _ _ _ _ h
theorem execAmoswp_keeps (f : FM) (s : State) (h : Memory.Kept s.mem) : Keeps (execAmoswp f s) := by
  exact atomic_keeps _ _ _ _ h
theorem execAmocas_keeps (f : FM) (s : State) (h : Memory.Kept s.mem) : Keeps (execAmocas f s) := by
  exact atomic_keeps _ _ _ _ h
theorem execAmofadd_keeps (f : FM) (s : State) (h : Memory.Kept s.mem) : Keeps (execAmofadd f s) := by
  exact atomic_keeps _ _ _ _ h
theorem fence_keeps (f : FI) (r a : Bool) (s : State) (h : Memory.Kept s.mem) : Keeps (fence f r a s) :=
  guarded_keeps h (by dsimp only; rw [keeps_next, State.advance_mem]; refine State.acquire_kept _ _ _ ?_; split <;> simp [h])
theorem execFence_keeps (f : FI) (s : State) (h : Memory.Kept s.mem) : Keeps (execFence f s) :=
  fence_keeps _ _ _ _ h
theorem execFenceSs_keeps (f : FI) (s : State) (h : Memory.Kept s.mem) : Keeps (execFenceSs f s) :=
  fence_keeps _ _ _ _ h
theorem execFenceLl_keeps (f : FI) (s : State) (h : Memory.Kept s.mem) : Keeps (execFenceLl f s) :=
  fence_keeps _ _ _ _ h
theorem execFenceS_keeps (f : FI) (s : State) (h : Memory.Kept s.mem) :
    Keeps (execFenceS f s) := by
  refine guarded_keeps h ?_; try dsimp only
  (repeat' split) <;> simp (maxDischargeDepth := 20) [h]
theorem cmoLines_keeps (acc : Access) (effect : State → Place → State)
    (he : ∀ s p, Memory.Kept s.mem → Memory.Kept (effect s p).mem) (n : Nat) (va : Word) (s : State)
    (h : Memory.Kept s.mem) : Keeps (cmoLines acc effect n va s) := by
  induction n generalizing va s with
  | zero => simp [cmoLines, h]
  | succ n ih =>
    unfold cmoLines; split
    · exact State.settle_keeps _ _ h
    · exact ih _ _ (he _ _ h)
    · exact ih _ _ h
theorem cmo_keeps (f : FM) (need : Need) (zero : Bool) (effect : State → Place → State)
    (he : ∀ s p, Memory.Kept s.mem → Memory.Kept (effect s p).mem) (s : State) (h : Memory.Kept s.mem) :
    Keeps (cmo f need zero effect s) := by
  refine memOp_keeps h ?_
  dsimp only; split
  · simp [h]
  · split
    · simp [h]
    · exact cmoLines_keeps _ _ he _ _ _ (by simp [h])
theorem execCmoClean_keeps (f : FM) (s : State) (h : Memory.Kept s.mem) : Keeps (execCmoClean f s) := by
  exact cmo_keeps _ _ _ _ (fun s p h => by dsimp only; (repeat' split) <;> simp [h]) _ h
theorem execCmoInval_keeps (f : FM) (s : State) (h : Memory.Kept s.mem) : Keeps (execCmoInval f s) := by
  exact cmo_keeps _ _ _ _ (fun s p h => by (repeat' split) <;> simp [h]) _ h
theorem execCmoFlush_keeps (f : FM) (s : State) (h : Memory.Kept s.mem) : Keeps (execCmoFlush f s) := by
  exact cmo_keeps _ _ _ _ (fun s p h => by dsimp only; (repeat' split) <;> simp [h]) _ h
theorem execCmoZero_keeps (f : FM) (s : State) (h : Memory.Kept s.mem) : Keeps (execCmoZero f s) := by
  exact cmo_keeps _ _ _ _ (fun s p h => by simp (maxDischargeDepth := 20) [h]) _ h
@[simp] theorem State.endedSect_mem (s : State) : s.endedSect.2.mem = s.mem := (rfl)
@[simp] theorem State.disarm_mem (s : State) (core ctx : Nat) : (s.disarm core ctx).mem = s.mem := by
  unfold State.disarm; split <;> rfl
@[simp] theorem State.wake_mem (s : State) (m : Monitor) (reason : Word) :
    (s.wake m reason).mem = s.mem := (rfl)
@[simp] theorem State.setMonaddr_mem (s : State) (o : Word) : (s.setMonaddr o).mem = s.mem := (rfl)
@[simp] theorem State.arm_mem (s : State) (f : FM) (o : Word) (p : Place) : (s.arm f o p).mem = s.mem := by
  simp [State.arm]
theorem waitm_keeps (f : FM) (c : Bool) (s : State) (h : Memory.Kept s.mem) : Keeps (waitm f c s) := by
  refine memOp_keeps h ?_
  split
  · (repeat' split) <;> simp [h]
  · refine aligned_keeps (by simpa using h) ?_
    dsimp only; (repeat' split) <;> simp (maxDischargeDepth := 20) [h]
theorem execWaitm_keeps (f : FM) (s : State) (h : Memory.Kept s.mem) : Keeps (execWaitm f s) := by
  exact waitm_keeps _ _ _ h
theorem execWaitmCmp_keeps (f : FM) (s : State) (h : Memory.Kept s.mem) : Keeps (execWaitmCmp f s) := by
  exact waitm_keeps _ _ _ h
theorem execMonitorWake_keeps (s : State) (h : Memory.Kept s.mem) :
    Keeps (execMonitorWake s) := by
  unfold execMonitorWake; try dsimp only; (repeat' split) <;> simp (maxDischargeDepth := 20) [h]
@[simp] theorem Reply.write_mem (r : Reply) (core ctx : Nat) (s : State) : (r.write core ctx s).mem = s.mem := by
  cases r <;> simp only [Reply.write] <;> (try split) <;> rfl
theorem execMemoryReply_keeps (s : State) (h : Memory.Kept s.mem) :
    Keeps (execMemoryReply s) := by
  unfold execMemoryReply; try dsimp only; (repeat' split) <;> simp (maxDischargeDepth := 20) [h]
theorem execStreamConditionReport_keeps (s : State) (h : Memory.Kept s.mem) :
    Keeps (execStreamConditionReport s) := by
  unfold execStreamConditionReport; try dsimp only; (repeat' split) <;> simp (maxDischargeDepth := 20) [h]

end Sys2Proof.Machine
end

