-- ==== Sys2Proof/Laws/KeptTile.lean ====
section
/-! SUPPORT. The meanings of the tile family keep the canonical form of memory. -/

namespace Sys2Proof.Machine

theorem tileOp_keeps {w : IWord} {g : BitVec 3} {gn : BitVec 1} {s : State} {k : State → Out} (h : Memory.Kept s.mem)
    (hk : Keeps (k s)) : Keeps (tileOp w g gn s k) := controlOnly_keeps h hk
theorem execTset_keeps (f : FI) (s : State) (h : Memory.Kept s.mem) : Keeps (execTset f s) := by
  exact tileOp_keeps h (by simp [h])
theorem execTget_keeps (f : FI) (s : State) (h : Memory.Kept s.mem) : Keeps (execTget f s) := by
  exact tileOp_keeps h (by simp [h])
theorem execTld_keeps (f : FM) (s : State) (h : Memory.Kept s.mem) : Keeps (execTld f s) := by
  refine tileOp_keeps h ?_
  dsimp only; split
  · exact illegal_keeps _ _ h
  · split
    · exact State.settle_keeps _ _ h
    · rename_i e
      have := State.loadBytes_kept h e
      split <;> simp [this]
theorem execTst_keeps (f : FM) (s : State) (h : Memory.Kept s.mem) : Keeps (execTst f s) := by
  refine tileOp_keeps h ?_
  dsimp only; split
  · exact illegal_keeps _ _ h
  · split
    · exact State.settle_keeps _ _ h
    · rename_i e
      simpa using State.storeBytes_kept h e
@[simp] theorem State.drawRow_mem (s : State) (w n : Nat) : (s.drawRow w n).2.mem = s.mem := by
  unfold State.drawRow; dsimp only; split <;> rfl
theorem execTv2t_keeps (f : FT) (s : State) (h : Memory.Kept s.mem) : Keeps (execTv2t f s) := by
  refine tileOp_keeps h ?_
  dsimp only; (repeat' split) <;> simp [h]
theorem execTt2v_keeps (f : FT) (s : State) (h : Memory.Kept s.mem) : Keeps (execTt2v f s) := by
  refine tileOp_keeps h ?_
  dsimp only; (repeat' split) <;> simp [h]
@[simp] theorem State.startMacro_keeps (s : State) (i : Instr) (total : Nat) (joining guard : Bool) (since limit : Nat)
    (h : Memory.Kept s.mem) : Keeps (s.startMacro i total joining guard since limit) := by simp [State.startMacro, h]
theorem macroOp_keeps (i : Instr) (w : IWord) (g : BitVec 3) (gn : BitVec 1) (ok : Core → Bool) (total : Core → Nat)
    (s : State) (h : Memory.Kept s.mem) : Keeps (macroOp i w g gn ok total s) := by
  refine tileOp_keeps h ?_
  split <;> simp [h]
theorem execTzero_keeps (f : FT) (s : State) (h : Memory.Kept s.mem) : Keeps (execTzero f s) := by
  exact macroOp_keeps _ _ _ _ _ _ _ h
theorem execTmov_keeps (f : FT) (s : State) (h : Memory.Kept s.mem) : Keeps (execTmov f s) := by
  exact macroOp_keeps _ _ _ _ _ _ _ h
theorem execTadd_keeps (f : FT) (s : State) (h : Memory.Kept s.mem) : Keeps (execTadd f s) := by
  exact macroOp_keeps _ _ _ _ _ _ _ h
theorem execTmul_keeps (f : FT) (s : State) (h : Memory.Kept s.mem) : Keeps (execTmul f s) := by
  exact macroOp_keeps _ _ _ _ _ _ _ h
theorem execTscale_keeps (f : FT) (s : State) (h : Memory.Kept s.mem) : Keeps (execTscale f s) := by
  exact macroOp_keeps _ _ _ _ _ _ _ h
theorem execTcvt_keeps (f : FT) (s : State) (h : Memory.Kept s.mem) : Keeps (execTcvt f s) := by
  refine tileOp_keeps h ?_
  dsimp only; (repeat' split) <;> simp [h]
theorem execTtrans_keeps (f : FT) (s : State) (h : Memory.Kept s.mem) : Keeps (execTtrans f s) := by
  exact macroOp_keeps _ _ _ _ _ _ _ h
theorem execTrsum_keeps (f : FT) (s : State) (h : Memory.Kept s.mem) : Keeps (execTrsum f s) := by
  exact macroOp_keeps _ _ _ _ _ _ _ h
theorem execTrmax_keeps (f : FT) (s : State) (h : Memory.Kept s.mem) : Keeps (execTrmax f s) := by
  exact macroOp_keeps _ _ _ _ _ _ _ h
theorem execTbcst_keeps (f : FT) (s : State) (h : Memory.Kept s.mem) : Keeps (execTbcst f s) := by
  exact macroOp_keeps _ _ _ _ _ _ _ h
theorem execTstat_keeps (f : FI) (s : State) (h : Memory.Kept s.mem) : Keeps (execTstat f s) := by
  exact tileOp_keeps h (by simp [h])
theorem execGissue_keeps (f : FE) (s : State) (h : Memory.Kept s.mem) : Keeps (execGissue f s) := by
  unfold execGissue; split <;> simp [h]
theorem product_keeps (i : Instr) (opc : BitVec 10) (f : FT) (s : State) (h : Memory.Kept s.mem) :
    Keeps (product i opc f s) := by
  unfold product; dsimp only; (repeat' split) <;> simp [h]
theorem execTmma_keeps (f : FT) (s : State) (h : Memory.Kept s.mem) : Keeps (execTmma f s) := by
  exact product_keeps _ _ _ _ h
theorem execTmmal_keeps (f : FT) (s : State) (h : Memory.Kept s.mem) : Keeps (execTmmal f s) := by
  exact product_keeps _ _ _ _ h
@[simp] theorem State.joinCore_mem (s : State) (zero : Option Nat) (core : Nat) : (s.joinCore zero core).mem = s.mem := by
  unfold State.joinCore; dsimp only; (repeat' split) <;> simp
theorem execJoinCompletion_keeps (s : State) (h : Memory.Kept s.mem) : Keeps (execJoinCompletion s) := by
  unfold execJoinCompletion; dsimp only; split
  · rw [keeps_next, foldl_mem _ (fun s n => by simp), foldl_mem _ (fun s n => State.joinCore_mem s _ n)]; exact h
  · simpa using h
theorem execSequencerStep_keeps (s : State) (h : Memory.Kept s.mem) :
    Keeps (execSequencerStep s) := by
  unfold execSequencerStep; try dsimp only; (repeat' split) <;> simp (maxDischargeDepth := 20) [h]

end Sys2Proof.Machine
end

