-- ==== Sys2Proof/Laws/KeptBarriers.lean ====
section
/-! SUPPORT. The meanings of barriers, time-outs and the exchange phase keep the canonical form of memory. -/

namespace Sys2Proof.Machine


/-- A fold of writes over memory keeps the canonical form. -/
theorem Memory.foldl_kept {α : Type} (f : Memory → α → Memory) (hf : ∀ m x, m.Kept → (f m x).Kept) (l : List α)
    (m : Memory) (h : m.Kept) : (l.foldl f m).Kept := by
  induction l generalizing m with
  | nil => exact h
  | cons x l ih => exact ih _ (hf m x h)

@[simp] theorem State.xphase_keeps (s : State) (e : BitVec 16) (w : BitVec 10) (h : Memory.Kept s.mem) :
    Keeps (s.xphase e w) := by simp [State.xphase, h]
theorem barrierOp_keeps {opc : BitVec 10} {f : FE} {s : State} {k : State → Out} (h : Memory.Kept s.mem)
    (hk : Keeps (k s)) : Keeps (barrierOp opc f s k) := by
  refine controlOnly_keeps h ?_; split
  · simp [h]
  · exact hk
@[simp] theorem State.arriveAt_kept (s : State) (f : FE) (h : Memory.Kept s.mem) : Memory.Kept (s.arriveAt f).mem := by
  simp [State.arriveAt, h]
theorem execBarw_keeps (f : FE) (s : State) (h : Memory.Kept s.mem) : Keeps (execBarw f s) := by
  refine barrierOp_keeps h ?_
  (repeat' split) <;> simp (maxDischargeDepth := 20) [h]
theorem execBara_keeps (f : FE) (s : State) (h : Memory.Kept s.mem) : Keeps (execBara f s) := by
  refine barrierOp_keeps h ?_
  (repeat' split) <;> simp (maxDischargeDepth := 20) [h]
theorem execBarq_keeps (f : FE) (s : State) (h : Memory.Kept s.mem) : Keeps (execBarq f s) := by
  refine barrierOp_keeps h ?_
  (repeat' split) <;> simp (maxDischargeDepth := 20) [h]
theorem execBarqTest_keeps (f : FE) (s : State) (h : Memory.Kept s.mem) : Keeps (execBarqTest f s) := by
  refine barrierOp_keeps h ?_
  (repeat' split) <;> simp (maxDischargeDepth := 20) [h]
@[simp] theorem State.beginSuperstep_kept (s : State) (core : Nat) (again : Bool) (h : Memory.Kept s.mem) :
    Memory.Kept (s.beginSuperstep core again).mem := by
  unfold State.beginSuperstep; split
  · exact h
  · extract_lets x word m m1 m2 m3 m4
    have w (off : Nat) (v : Word) (m : Memory) (h : m.Kept) : (word off v m).Kept := Memory.kept_writeBytes _ _ _ h
    have h1 : m1.Kept := by
      show Memory.Kept (if again then m else _)
      split
      · exact h
      · exact w _ _ _ (w _ _ _ h)
    have h2 : m2.Kept := w _ _ _ (w _ _ _ h1)
    have h3 : m3.Kept := Memory.foldl_kept _ (fun m x h => w _ _ _ h) _ _ h2
    have h4 : m4.Kept := Memory.foldl_kept _ (fun m x h => w _ _ _ h) _ _ h3
    clear_value m4
    split
    · exact h4
    · exact State.nonRestartable_kept _ _ _ h4
@[simp] theorem State.completeIn_kept (s : State) (scope : BitVec 3) (core : Nat) (h : Memory.Kept s.mem) :
    Memory.Kept (s.completeIn scope core).mem := by
  unfold State.completeIn; dsimp only; (repeat' split) <;> simp (maxDischargeDepth := 20) [h]
@[simp] theorem State.barrierIn_mem (s : State) (wide : Bool) (t : State) (g : Gang) : (s.barrierIn wide t g).mem = t.mem := by
  simp [State.barrierIn]
theorem execBarrierCompletion_keeps (s : State) (h : Memory.Kept s.mem) : Keeps (execBarrierCompletion s) := by
  unfold execBarrierCompletion; dsimp only
  split
  · rw [keeps_next]
    have h1 := foldl_kept _ (fun s n h => State.completeIn_kept s (BitVec.ofNat 3 s.cur.args.index) n h)
      (s.participants s.cur.args.core (BitVec.ofNat 3 s.cur.args.index)) s h
    have h2 := foldl_kept (fun s n => s.completeIn (BitVec.ofNat 3 s.cur.args.index) n)
      (fun s n h => State.completeIn_kept s _ n h)
    split
    · exact foldl_kept _ (fun s g h => by rw [State.barrierIn_mem]; exact h) _ _ (foldl_kept _ (fun s n h => by simp [h]) _ _ h)
    · exact foldl_kept _ (fun s n h => by simp [h]) _ _ h
  · simpa using h
@[simp] theorem State.timeOut_mem (s : State) (core code : Nat) (operand pc : Word) :
    (s.timeOut core code operand pc).mem = s.mem := by simp [State.timeOut]
@[simp] theorem State.barrierTimeout_mem (s : State) (core : Nat) (scope : BitVec 3) :
    (s.barrierTimeout core scope).mem = s.mem := by
  have h (r : Nat) : (List.foldl (fun s n => s.modCore n (·.setRaised scope true))
      (s.timeOut r 0 (s.barrierOperand r scope) ((s.core r).ctx 0).pc) (s.present core scope)).mem = s.mem :=
    (foldl_mem _ (fun s n => by simp) _ _).trans (by simp)
  unfold State.barrierTimeout; dsimp only; (repeat' split)
  · rfl
  · rfl
  · exact h _
  · exact (foldl_mem _ (fun s g => by simp) _ _).trans (h _)
@[simp] theorem State.holdTimeout_mem (s : State) (core : Nat) : (s.holdTimeout core).mem = s.mem := by
  simp [State.holdTimeout]
theorem execBtoExpiry_keeps (s : State) (h : Memory.Kept s.mem) : Keeps (execBtoExpiry s) := by
  unfold execBtoExpiry; extract_lets core c x w
  (repeat' split) <;> simp [h]
theorem exchange_keeps {f : FE} {s : State} {e : BitVec 16} {w : BitVec 10} {k : State → Out} (h : Memory.Kept s.mem)
    (hk : Keeps (k s)) : Keeps (exchange f s e w k) := by
  refine guarded_keeps h ?_; split
  · exact hk
  · simp [h]
theorem execXph_keeps (f : FE) (s : State) (h : Memory.Kept s.mem) : Keeps (execXph f s) := by
  refine exchange_keeps h ?_
  dsimp only; (repeat' split) <;> simp [h]
theorem execXsend_keeps (f : FE) (s : State) (h : Memory.Kept s.mem) : Keeps (execXsend f s) := by
  refine exchange_keeps h ?_
  dsimp only; (repeat' split) <;> simp [h]
theorem execXmux_keeps (f : FE) (s : State) (h : Memory.Kept s.mem) : Keeps (execXmux f s) := by
  refine exchange_keeps h ?_
  dsimp only; (repeat' split) <;> simp [h]
@[simp] theorem State.capture_mem (s : State) (core : Nat) (k : Capture) (v : Word) : (s.capture core k v).mem = s.mem := by
  unfold State.capture; dsimp only; split <;> simp
theorem execXmuxCapture_keeps (s : State) (h : Memory.Kept s.mem) : Keeps (execXmuxCapture s) := by
  unfold execXmuxCapture; dsimp only; split
  · simp [h]
  · rw [keeps_next, foldl_mem _ (fun s n => by simp)]; simp [h]
@[simp] theorem State.collide_mem (s : State) (tap : Nat) (d : Driving) : (s.collide tap d).mem = s.mem := by
  unfold State.collide; dsimp only; (repeat' split) <;> simp
theorem execXcollideSense_keeps (s : State) (h : Memory.Kept s.mem) : Keeps (execXcollideSense s) := by
  unfold execXcollideSense; dsimp only
  rw [keeps_next, foldl_mem _ (fun s n => by simp)]; exact h
theorem execXend_keeps (f : FE) (s : State) (h : Memory.Kept s.mem) : Keeps (execXend f s) := by
  refine exchange_keeps h ?_
  dsimp only; (repeat' split) <;> simp [h]
theorem execHoldRaise_keeps (s : State) (h : Memory.Kept s.mem) : Keeps (execHoldRaise s) := by
  unfold execHoldRaise; split
  · simp [h]
  · split <;> simp [h]
theorem execHoldRelease_keeps (s : State) (h : Memory.Kept s.mem) :
    Keeps (execHoldRelease s) := by
  unfold execHoldRelease; try dsimp only; (repeat' split) <;> simp (maxDischargeDepth := 20) [h]
theorem execThrottleChange_keeps (s : State) (h : Memory.Kept s.mem) : Keeps (execThrottleChange s) := by
  unfold execThrottleChange; split
  · simp [h]
  · rw [keeps_next]; split <;> simp [h]
theorem execThrottleLimitExpiry_keeps (s : State) (h : Memory.Kept s.mem) : Keeps (execThrottleLimitExpiry s) := by
  unfold execThrottleLimitExpiry; split
  · simp [h]
  · split
    · simp [h]
    · rw [keeps_next]; split <;> simp [h]

end Sys2Proof.Machine
end

