-- ==== Sys2Proof/Laws/KeptCopies.lean ====
section
/-! SUPPORT. The meanings of the copy commands, the rings and the circular buffers keep the canonical form of memory. -/

namespace Sys2Proof.Machine

theorem ownSpan_keeps {align n : Nat} {o : Word} {s : State} {k : State → Out} (h : Memory.Kept s.mem)
    (hk : Keeps (k s)) : Keeps (ownSpan align n o s k) := by unfold ownSpan; split <;> simp [h, hk]
theorem ownRead_keeps {align n : Nat} {o : Word} {s : State} {k : State → Nat → Out} (h : Memory.Kept s.mem)
    (hk : ∀ x, Keeps (k s x)) : Keeps (ownRead align n o s k) := by
  refine ownSpan_keeps h ?_; split
  · simp [h]
  · exact hk _
@[simp] theorem State.modCopy_mem (s : State) (core : Nat) (seq : Nat) (f : Copy → Copy) :
    (s.modCopy core seq f).mem = s.mem := (rfl)
theorem execCbinit_keeps (f : FE) (s : State) (h : Memory.Kept s.mem) : Keeps (execCbinit f s) := by
  refine guarded_keeps h ?_; dsimp only; split
  · simp [h]
  · refine ownSpan_keeps h ?_; split <;> simp [h]
theorem execCbacqRd_keeps (f : FE) (s : State) (h : Memory.Kept s.mem) :
    Keeps (execCbacqRd f s) := by
  refine guarded_keeps h ?_; try dsimp only
  (repeat' split) <;> simp (maxDischargeDepth := 20) [h]
theorem execCbacqWr_keeps (f : FE) (s : State) (h : Memory.Kept s.mem) :
    Keeps (execCbacqWr f s) := by
  refine guarded_keeps h ?_; try dsimp only
  (repeat' split) <;> simp (maxDischargeDepth := 20) [h]
theorem execCbrelRd_keeps (f : FE) (s : State) (h : Memory.Kept s.mem) :
    Keeps (execCbrelRd f s) := by
  refine guarded_keeps h ?_; try dsimp only
  (repeat' split) <;> simp (maxDischargeDepth := 20) [h]
theorem execCbrelWr_keeps (f : FE) (s : State) (h : Memory.Kept s.mem) :
    Keeps (execCbrelWr f s) := by
  refine guarded_keeps h ?_; try dsimp only
  (repeat' split) <;> simp (maxDischargeDepth := 20) [h]
@[simp] theorem State.own_kept (s : State) (core : Nat) (k : Copy) (h : Memory.Kept s.mem) :
    Memory.Kept (s.own core k).mem := by
  unfold State.own; dsimp only; split
  · exact State.everyCore_kept _ _ (fun s n h => by simp [h]) (by simp [h])
  · simp [h]
@[simp] theorem State.accept_keeps (s : State) (f : FE) (q : CopyCommand) (h : Memory.Kept s.mem) :
    Keeps (s.accept f q) := by
  unfold State.accept; dsimp only; split
  · simp [h]
  · split
    · simp [h]
    · rw [keeps_next, State.advance_mem]; split <;> simp [h]
theorem execCpy_keeps (f : FE) (s : State) (h : Memory.Kept s.mem) : Keeps (execCpy f s) := by
  refine hodOnly_keeps h ?_; dsimp only; split <;> simp [h]
theorem execCpyn_keeps (f : FE) (s : State) (h : Memory.Kept s.mem) : Keeps (execCpyn f s) := by
  refine hodOnly_keeps h (ownRead_keeps h fun x => ?_); split <;> simp [h]
theorem execCpycmb_keeps (f : FE) (s : State) (h : Memory.Kept s.mem) : Keeps (execCpycmb f s) := by
  refine hodOnly_keeps h ?_; dsimp only; split <;> simp [h]
theorem execCpyc_keeps (f : FE) (s : State) (h : Memory.Kept s.mem) : Keeps (execCpyc f s) := by
  refine hodOnly_keeps h ?_; dsimp only; split <;> simp [h]
theorem execCpyr_keeps (f : FE) (s : State) (h : Memory.Kept s.mem) : Keeps (execCpyr f s) := by
  refine hodOnly_keeps h ?_; dsimp only; split <;> simp [h]
theorem wmOp_keeps {opc : BitVec 10} {f : FE} {s : State} {k : State → Out} (h : Memory.Kept s.mem)
    (hk : Keeps (k s)) : Keeps (wmOp opc f s k) := by
  unfold wmOp; split
  · exact illegal_keeps _ _ h
  · exact hodOnly_keeps h hk
@[simp] theorem State.setWm_mem (s : State) (r : BitVec 8) (w : Watermark) :
    (s.setWm r w).mem = s.mem := (rfl)
theorem execWmset_keeps (f : FE) (s : State) (h : Memory.Kept s.mem) : Keeps (execWmset f s) := by
  refine wmOp_keeps h ?_; dsimp only; split <;> simp [h]
theorem execWmclr_keeps (f : FE) (s : State) (h : Memory.Kept s.mem) : Keeps (execWmclr f s) := by
  exact wmOp_keeps h (by simp [h])
theorem execWmrd_keeps (f : FE) (s : State) (h : Memory.Kept s.mem) :
    Keeps (execWmrd f s) := by
  refine guarded_keeps h ?_; try dsimp only
  (repeat' split) <;> simp (maxDischargeDepth := 20) [h]
theorem execWmrdAddr_keeps (f : FE) (s : State) (h : Memory.Kept s.mem) :
    Keeps (execWmrdAddr f s) := by
  refine guarded_keeps h ?_; try dsimp only
  (repeat' split) <;> simp (maxDischargeDepth := 20) [h]
theorem execCrwait_keeps (f : FE) (s : State) (h : Memory.Kept s.mem) : Keeps (execCrwait f s) := by
  refine guarded_keeps h (ownRead_keeps h fun x => ?_); split <;> simp [h]
theorem execCrpop_keeps (f : FE) (s : State) (h : Memory.Kept s.mem) : Keeps (execCrpop f s) := by
  refine guarded_keeps h (ownRead_keeps h fun x => ?_); split
  · simp [h]
  · split
    · simp [h]
    · refine ownSpan_keeps h ?_; split
      · exact State.settle_keeps _ _ h
      · rename_i e
        simp (maxDischargeDepth := 20) [State.loadBytes_kept h e]
@[simp] theorem State.landByte_kept (s : State) (p : Place) (b : Byte) (h : Memory.Kept s.mem) :
    Memory.Kept (s.landByte p b).mem := by
  unfold State.landByte; split
  · simp [h]
  · split <;> simp (maxDischargeDepth := 20) only [State.poke_kept, State.nonRestartable_kept, h]
@[simp] theorem State.landBytes_kept (s : State) (ps : List (Place × Byte)) (h : Memory.Kept s.mem) :
    Memory.Kept (s.landBytes ps).mem := foldl_kept _ (fun s e h => by simp [h]) _ _ h
@[simp] theorem State.engineVisit_kept (s : State) (core : Nat) (write : Bool) (ps : List Place) (h : Memory.Kept s.mem) :
    Memory.Kept (s.engineVisit core write ps).mem := by
  refine foldl_kept _ (fun s p h => ?_) _ _ h
  dsimp only; (repeat' split) <;> simp [h]
@[simp] theorem State.moveElement_kept (s : State) (core : Nat) (ps qs : List Place) (h : Memory.Kept s.mem) :
    Memory.Kept (s.moveElement core ps qs).mem := by simp (maxDischargeDepth := 20) [State.moveElement, h]
theorem State.engineTrap_mem {s t : State} {tr : Trap} (e : s.engineTrap tr = .error t) : t.mem = s.mem := by
  cases tr <;> simp only [State.engineTrap] at e <;> (try split at e) <;> cases e <;> simp
@[simp] theorem State.undecline_mem (s : State) (cls : FaultClass) (part : Nat) (ia : Word) :
    (s.undecline cls part ia).mem = s.mem := by
  unfold State.undecline; try dsimp only; (repeat' split) <;> first | rfl | simp (maxDischargeDepth := 20)
@[simp] theorem landRun_kept (core : Nat) (k : Copy) (n a : Nat) (s : State) (h : Memory.Kept s.mem) :
    Memory.Kept (landRun core k n a s).1.mem := by
  induction n generalizing a s with
  | zero => exact h
  | succ n ih =>
    unfold landRun; split
    · exact h
    · exact ih _ _ (by simp [h])
@[simp] theorem State.lastLanded_mem (s : State) (core : Nat) (k : Copy) : (s.lastLanded core k).mem = s.mem := by
  unfold State.lastLanded; split <;> simp [State.modCopy]
@[simp] theorem State.land_kept (s : State) (core : Nat) (k : Copy) (count : Nat) (h : Memory.Kept s.mem) :
    Memory.Kept (s.land core k count).mem := by
  unfold State.land; dsimp only
  split
  · split <;> simp [h]
  · split
    · exact h
    · split
      · split
        · rename_i e; rw [State.engineTrap_mem e]; exact h
        · exact h
      · split <;> simp [h]
@[simp] theorem State.postCopyFault_mem (s : State) (core : Nat) (k : Copy) (cls : FaultClass) (code : Nat) (operand : Word) :
    (s.postCopyFault core k cls code operand).mem = s.mem := by
  unfold State.postCopyFault; try dsimp only; (repeat' split) <;> first | rfl | simp (maxDischargeDepth := 20)
@[simp] theorem State.recordDone_mem (s : State) (core : Nat) (k : Copy) (status : Nat) :
    (s.recordDone core k status).mem = s.mem := by
  unfold State.recordDone; try dsimp only; (repeat' split) <;> first | rfl | simp (maxDischargeDepth := 20)
@[simp] theorem State.recordLost_mem (s : State) (core : Nat) (k : Copy) (status : Nat) (cls : FaultClass) (code : Nat)
    (o : Word) : (s.recordLost core k status cls code o).mem = s.mem := by simp [State.recordLost]
theorem execCopyComplete_keeps (s : State) (h : Memory.Kept s.mem) : Keeps (execCopyComplete s) := by
  unfold execCopyComplete; dsimp only
  (repeat' split) <;> try simp (maxDischargeDepth := 20) [h]
  rename_i e; rw [State.engineTrap_mem e]; exact h
@[simp] theorem State.freeze_mem (s : State) (core : Nat) (k : Copy) (cls : FaultClass) (code : Nat) (o : Word) :
    (s.freeze core k cls code o).mem = s.mem := by simp [State.freeze]

end Sys2Proof.Machine
end

