-- ==== Sys2Proof/Laws/KeptCombine.lean ====
section
/-! SUPPORT. The meanings of the combining network, the landing of copies and the gather engine keep the canonical form of memory. -/

namespace Sys2Proof.Machine

@[simp] theorem State.modContributor_mem (s : State) (e : Nat × Nat × Nat) (f : Copy → Copy) :
    (s.modContributor e f).mem = s.mem := by unfold State.modContributor; split <;> simp
theorem State.contribute_kept {s t : State} {core : Nat} {k : Copy} (e : s.contribute core k = .ok t)
    (h : Memory.Kept s.mem) : Memory.Kept t.mem := by
  unfold State.contribute at e
  split at e
  · cases e; exact h
  · cases e
  · split at e
    · cases e
    · cases e; simp [h]
@[simp] theorem State.setCombiner_mem (s : State) (key : Nat) (l : List CombinePacket) :
    (s.setCombiner key l).mem = s.mem := (rfl)
@[simp] theorem State.forward_mem (s : State) (p : CombinePacket) :
    (s.forward p).mem = s.mem := (rfl)
theorem execCombinePacketArrival_keeps (s : State) (h : Memory.Kept s.mem) :
    Keeps (execCombinePacketArrival s) := by
  unfold execCombinePacketArrival; try dsimp only; (repeat' split) <;> simp (maxDischargeDepth := 20) [h]
theorem execCombineEntryTimeout_keeps (s : State) (h : Memory.Kept s.mem) :
    Keeps (execCombineEntryTimeout s) := by
  unfold execCombineEntryTimeout; try dsimp only; (repeat' split) <;> simp (maxDischargeDepth := 20) [h]
@[simp] theorem landSum_kept (core : Nat) (k : Copy) (byte : Nat → Byte) (n a : Nat) (s : State)
    (h : Memory.Kept s.mem) : Memory.Kept (landSum core k byte n a s).1.mem := by
  induction n generalizing a s with
  | zero => exact h
  | succ n ih =>
    unfold landSum; split
    · exact h
    · exact ih _ _ (by simp [h])
@[simp] theorem State.contributionLanded_mem (s : State) (e : Nat × Nat × Nat) :
    (s.contributionLanded e).mem = s.mem := by unfold State.contributionLanded; (repeat' split) <;> simp
@[simp] theorem State.sumLanded_mem (s : State) (ps : List CombinePacket) (who : List (Nat × Nat × Nat)) :
    (s.sumLanded ps who).mem = s.mem := by
  unfold State.sumLanded
  exact (foldl_mem _ (fun s e => by simp) _ _).trans rfl
@[simp] theorem State.landCombined_kept (s : State) (core : Nat) (k : Copy) (count : Nat) (h : Memory.Kept s.mem) :
    Memory.Kept (s.landCombined core k count).mem := by
  unfold State.landCombined; dsimp only
  split
  · split
    · rename_i e; exact State.contribute_kept e h
    · split
      · rename_i e; rw [State.engineTrap_mem e]; exact h
      · exact h
  · split
    · (repeat' split) <;> simp [h]
    · split
      · exact h
      · have hw (who : List (Nat × Nat × Nat)) (f : State → Nat × Nat × Nat → Copy → Copy) (t : State)
            (ht : Memory.Kept t.mem) : Memory.Kept (who.foldl (fun s e => s.modContributor e (f s e)) t).mem :=
          foldl_kept _ (fun s e h => by simp [h]) _ _ ht
        (repeat' split) <;> first
          | exact h
          | (rw [State.sumLanded_mem]; exact hw _ _ _ (landSum_kept _ _ _ _ _ _ h))
          | exact hw _ _ _ (landSum_kept _ _ _ _ _ _ h)
theorem execCopyLanding_keeps (s : State) (h : Memory.Kept s.mem) : Keeps (execCopyLanding s) := by
  unfold execCopyLanding; split
  · simp [h]
  · (repeat' split) <;> simp [h]
theorem execCopyFault_keeps (s : State) (h : Memory.Kept s.mem) : Keeps (execCopyFault s) := by
  unfold execCopyFault; dsimp only
  (repeat' split) <;> try simp [h]
  rename_i e; rw [State.engineTrap_mem e]; exact h
theorem execGather_keeps (f : FE) (s : State) (h : Memory.Kept s.mem) : Keeps (execGather f s) := by
  refine controlOnly_keeps h ?_
  dsimp only; split <;> simp [h]
theorem execGatherReply_keeps (s : State) (h : Memory.Kept s.mem) : Keeps (execGatherReply s) := by
  unfold execGatherReply; dsimp only
  split
  · split
    · simp [h]
    · split
      · rename_i e; rw [keeps_next, State.engineTrap_mem e]; exact h
      · rw [keeps_next]; split <;> simp [h]
  · simp [h]

end Sys2Proof.Machine
end

