-- ==== Sys2Proof/Laws/KeptSync.lean ====
section
/-! SUPPORT. The meanings of events, mailboxes, timed waits, tasks and hod requests keep the canonical form of memory. -/

namespace Sys2Proof.Machine

@[simp] theorem sendEvent_keeps (f : FE) (set : Bool) (s : State) (h : Memory.Kept s.mem) : Keeps (sendEvent f set s) := by
  unfold sendEvent; split <;> simp [h]
theorem execEvset_keeps (f : FE) (s : State) (h : Memory.Kept s.mem) : Keeps (execEvset f s) := by
  exact guarded_keeps h (by simp (maxDischargeDepth := 20) [h])
theorem execEvclr_keeps (f : FE) (s : State) (h : Memory.Kept s.mem) : Keeps (execEvclr f s) := by
  exact guarded_keeps h (by simp [h])
theorem execEventDelivery_keeps (s : State) (h : Memory.Kept s.mem) :
    Keeps (execEventDelivery s) := by
  unfold execEventDelivery; try dsimp only; (repeat' split) <;> simp (maxDischargeDepth := 20) [h]
theorem evwait_keeps (f : FE) (all : Bool) (s : State) (h : Memory.Kept s.mem) : Keeps (evwait f all s) := by
  refine guarded_keeps h ?_; dsimp only
  generalize (s.sa f.a = 0 || _ : Bool) = b
  split <;> simp [h]
theorem execEvwaitAny_keeps (f : FE) (s : State) (h : Memory.Kept s.mem) : Keeps (execEvwaitAny f s) := by
  exact evwait_keeps _ _ _ h
theorem execEvwaitAll_keeps (f : FE) (s : State) (h : Memory.Kept s.mem) : Keeps (execEvwaitAll f s) := by
  exact evwait_keeps _ _ _ h
theorem execMpost_keeps (f : FE) (s : State) (h : Memory.Kept s.mem) : Keeps (execMpost f s) := by
  refine guarded_keeps h ?_; split
  · simp [h]
  · refine ownRead_keeps h fun x => ?_
    dsimp only; split <;> simp (maxDischargeDepth := 20) [h]
theorem execMessageDelivery_keeps (s : State) (h : Memory.Kept s.mem) :
    Keeps (execMessageDelivery s) := by
  unfold execMessageDelivery; try dsimp only; (repeat' split) <;> simp (maxDischargeDepth := 20) [h]
theorem mrecv_keeps (f : FE) (test : Bool) (s : State) (h : Memory.Kept s.mem) : Keeps (mrecv f test s) := by
  refine guarded_keeps h (ownSpan_keeps h ?_); split
  · split <;> simp [h]
  · simp [h]
theorem execMrecv_keeps (f : FE) (s : State) (h : Memory.Kept s.mem) : Keeps (execMrecv f s) := by
  exact mrecv_keeps _ _ _ h
theorem execMrecvTest_keeps (f : FE) (s : State) (h : Memory.Kept s.mem) : Keeps (execMrecvTest f s) := by
  exact mrecv_keeps _ _ _ h
theorem execWaitt_keeps (f : FE) (s : State) (h : Memory.Kept s.mem) :
    Keeps (execWaitt f s) := by
  refine guarded_keeps h ?_; try dsimp only
  (repeat' split) <;> simp (maxDischargeDepth := 20) [h]
theorem execWaittAbs_keeps (f : FE) (s : State) (h : Memory.Kept s.mem) :
    Keeps (execWaittAbs f s) := by
  refine guarded_keeps h ?_; try dsimp only
  (repeat' split) <;> simp (maxDischargeDepth := 20) [h]
theorem execWaittExpiry_keeps (s : State) (h : Memory.Kept s.mem) :
    Keeps (execWaittExpiry s) := by
  unfold execWaittExpiry; try dsimp only; (repeat' split) <;> simp (maxDischargeDepth := 20) [h]
theorem execTqput_keeps (f : FE) (s : State) (h : Memory.Kept s.mem) : Keeps (execTqput f s) := by
  refine guarded_keeps h (ownRead_keeps h fun x => ?_)
  dsimp only; split
  · simp [h]
  · split <;> simp [h]
@[simp] theorem State.modTask_mem (s : State) (n : Nat) (f : Task → Task) : (s.modTask n f).mem = s.mem := (rfl)
theorem execTaskDispatch_keeps (s : State) (h : Memory.Kept s.mem) :
    Keeps (execTaskDispatch s) := by
  unfold execTaskDispatch; try dsimp only; (repeat' split) <;> simp (maxDischargeDepth := 20) [h]
theorem State.fetchFootprint_kept {s u : State} {t : Task} {core : Nat} (hu : s.fetchFootprint t core = .ok u)
    (h : Memory.Kept s.mem) : Memory.Kept u.mem := by
  unfold State.fetchFootprint at hu
  split at hu
  · cases hu
  · cases hu; exact foldl_kept _ (fun s p h => by simp [h]) _ _ (by simp [h])
@[simp] theorem State.footprintFault_mem (s : State) (t : Task) (cls : FaultClass) (code : Nat) (o : Word) :
    (s.footprintFault t cls code o).mem = s.mem := by
  unfold State.footprintFault; try dsimp only; (repeat' split) <;> first | rfl | simp (maxDischargeDepth := 20)
theorem execFootprintComplete_keeps (s : State) (h : Memory.Kept s.mem) : Keeps (execFootprintComplete s) := by
  unfold execFootprintComplete; split
  · simp [h]
  · split
    · simp [h]
    · split
      · rename_i e
        simp (maxDischargeDepth := 20) [State.fetchFootprint_kept e h]
      · split
        · rename_i e2; rw [keeps_next, State.engineTrap_mem e2]; exact h
        · simp [h]
theorem execHodq_keeps (f : FE) (s : State) (h : Memory.Kept s.mem) : Keeps (execHodq f s) := by
  refine guarded_keeps h (ownRead_keeps h fun x => ?_)
  dsimp only; split <;> simp [h]
theorem hodr_keeps (f : FE) (test : Bool) (s : State) (h : Memory.Kept s.mem) : Keeps (hodr f test s) := by
  refine hodOnly_keeps h (ownSpan_keeps h ?_); split
  · split <;> simp [h]
  · simp [h]
theorem execHodr_keeps (f : FE) (s : State) (h : Memory.Kept s.mem) : Keeps (execHodr f s) := by
  exact hodr_keeps _ _ _ h
theorem execHodrTest_keeps (f : FE) (s : State) (h : Memory.Kept s.mem) : Keeps (execHodrTest f s) := by
  exact hodr_keeps _ _ _ h

end Sys2Proof.Machine
end

