-- ==== Sys2Proof/Laws/KeptCells.lean ====
section
/-! SUPPORT. The cell instructions, the flip and the abort of a wave keep the canonical form of memory. -/

namespace Sys2Proof.Machine

@[simp] theorem State.postCycle_mem (s : State) (part : Nat) (b : Binding) (rs : List (Nat × Word)) :
    (s.postCycle part b rs).mem = s.mem := by
  unfold State.postCycle
  exact foldl_mem _ (fun s r => by
    dsimp only
    generalize List.find? _ _ = o
    cases o with
    | none => rfl
    | some g => dsimp only; generalize g.supervisor = o; cases o with
      | none => rfl
      | some sup => dsimp only; split <;> rfl) _ _
@[simp] theorem State.installBinding_mem (s : State) (part id : Nat) (b : Binding) :
    (s.installBinding part id b).mem = s.mem := by
  unfold State.installBinding; split
  · rfl
  · exact State.postCycle_mem _ _ _ _
@[simp] theorem State.modMyPart_mem (s : State) (f : Partition → Partition) : (s.modMyPart f).mem = s.mem := (rfl)
theorem cellOp_keeps {f : FE} {s : State} {k : State → Out} (h : Memory.Kept s.mem)
    (hk : ∀ t, Memory.Kept t.mem → Keeps (k t)) : Keeps (cellOp f s k) :=
  guarded_keeps h (hk _ (by simp [h]))
theorem namedCell_keeps {f : FE} {s : State} {k : Nat → Cell → Out} (h : Memory.Kept s.mem)
    (hk : ∀ id c, Keeps (k id c)) : Keeps (namedCell f s k) := by
  unfold namedCell; split
  · simp [h]
  · exact hk _ _
theorem execCellDef_keeps (f : FE) (s : State) (h : Memory.Kept s.mem) : Keeps (execCellDef f s) := by
  refine cellOp_keeps h fun s h => ownRead_keeps h fun x => ?_
  dsimp only; split
  · simp [h]
  · split
    · simp [h]
    · split
      · exact State.settle_keeps _ _ h
      · (repeat' split) <;> simp [h]
theorem execCellBind_keeps (f : FE) (s : State) (h : Memory.Kept s.mem) : Keeps (execCellBind f s) := by
  refine cellOp_keeps h fun s h => ownRead_keeps h fun x => namedCell_keeps h fun id c => ?_
  extract_lets p b
  split
  · simp [h]
  · generalize List.getLast? _ = o
    cases o <;> simp [h]
theorem execCellPut_keeps (f : FE) (s : State) (h : Memory.Kept s.mem) : Keeps (execCellPut f s) := by
  refine cellOp_keeps h fun s h => ownSpan_keeps h (namedCell_keeps h fun id c => ?_)
  split
  · simp [h]
  · refine ownRead_keeps h fun x => ?_
    split
    · simp [h]
    · split
      · exact State.settle_keeps _ _ h
      · exact retireE_keeps _ _ _ (State.landBytes_kept _ _ (by simp [h]))
theorem execCellGet_keeps (f : FE) (s : State) (h : Memory.Kept s.mem) : Keeps (execCellGet f s) := by
  refine cellOp_keeps h fun s h => ownSpan_keeps h (namedCell_keeps h fun id c => ownSpan_keeps h ?_)
  split
  · exact State.settle_keeps _ _ h
  · rename_i e
    simp [State.loadBytes_kept h e]
theorem execCellCommit_keeps (f : FE) (s : State) (h : Memory.Kept s.mem) : Keeps (execCellCommit f s) := by
  refine cellOp_keeps h fun s h => ?_
  simp [h]
theorem execCellState_keeps (f : FE) (s : State) (h : Memory.Kept s.mem) : Keeps (execCellState f s) := by
  refine cellOp_keeps h fun s h => namedCell_keeps h fun id c => ?_
  simp [h]
theorem execCellStateFlip_keeps (f : FE) (s : State) (h : Memory.Kept s.mem) : Keeps (execCellStateFlip f s) := by
  refine cellOp_keeps h fun s h => ?_
  simp [h]
theorem execCellStateAbort_keeps (f : FE) (s : State) (h : Memory.Kept s.mem) : Keeps (execCellStateAbort f s) := by
  refine cellOp_keeps h fun s h => ?_
  simp [h]
theorem execCellDrop_keeps (f : FE) (s : State) (h : Memory.Kept s.mem) : Keeps (execCellDrop f s) := by
  refine cellOp_keeps h fun s h => namedCell_keeps h fun id c => ?_
  dsimp only; (repeat' split) <;> simp [h]
@[simp] theorem State.releaseReads_mem (s : State) (part wave : Nat) : (s.releaseReads part wave).mem = s.mem := (rfl)
@[simp] theorem State.endWave_mem (s : State) (part : Nat) (w : Wave) : (s.endWave part w).mem = s.mem := by
  unfold State.endWave
  rw [State.releaseReads_mem]
  exact (foldl_mem _ (fun s e => by simp) _ _).trans (by simp)
theorem execWaveFlip_keeps (s : State) (h : Memory.Kept s.mem) : Keeps (execWaveFlip s) := by
  unfold execWaveFlip; dsimp only
  generalize Partition.firstSealed _ = o
  cases o with
  | none => simp [h]
  | some w => dsimp only; split <;> simp [h]
theorem execWaveAbort_keeps (s : State) (h : Memory.Kept s.mem) : Keeps (execWaveAbort s) := by
  unfold execWaveAbort; dsimp only
  generalize Partition.firstSealed _ = o
  cases o with
  | none => simp [h]
  | some w => dsimp only; split <;> simp [h]

end Sys2Proof.Machine
end

