-- ==== Sys2Proof/Laws/KeptQueues.lean ====
section
/-! SUPPORT. The packets of the command processor keep the canonical form of memory. -/

namespace Sys2Proof.Machine

/-- A packet's end keeps the canonical form. -/
def PacketEnd.Keeps : PacketEnd → Prop
  | .done s => Memory.Kept s.mem
  | .hold s => Memory.Kept s.mem
  | .error s _ => Memory.Kept s.mem

@[simp] theorem PacketEnd.keeps_done (s : State) : PacketEnd.Keeps (.done s) ↔ Memory.Kept s.mem := Iff.rfl
@[simp] theorem PacketEnd.keeps_hold (s : State) : PacketEnd.Keeps (.hold s) ↔ Memory.Kept s.mem := Iff.rfl
@[simp] theorem PacketEnd.keeps_error (s : State) (n : Nat) : PacketEnd.Keeps (.error s n) ↔ Memory.Kept s.mem := Iff.rfl

@[simp] theorem State.hostPoke_kept (s : State) (l : CachedLeaf) (ia loc : Nat) (b : Byte) (h : Memory.Kept s.mem) :
    Memory.Kept (s.hostPoke l ia loc b).mem := by
  unfold State.hostPoke; dsimp only; (repeat' split) <;> simp (maxDischargeDepth := 20) [h]
@[simp] theorem State.cmdStore_kept (s : State) (multi : Bool) (ps : List (Place × Byte)) (h : Memory.Kept s.mem) :
    Memory.Kept (s.cmdStore multi ps).mem := by
  unfold State.cmdStore
  refine foldl_kept _ (fun s e h => ?_) _ _ h
  split
  · exact foldl_kept _ (fun s a h => by simp [h]) _ _ h
  · simp [h]
@[simp] theorem State.stopQueue_mem (s : State) (q : Nat) (code : Nat) :
    (s.stopQueue q code).mem = s.mem := (rfl)
@[simp] theorem State.cmdTrap_keeps (s : State) (t : Trap) (code : Nat) (h : Memory.Kept s.mem) :
    (s.cmdTrap t code).Keeps := by
  unfold State.cmdTrap; dsimp only; (repeat' split) <;> simp [h]
theorem PacketEnd.settle_keeps {q : Nat} {e : PacketEnd} (h : e.Keeps) : Machine.Keeps (e.settle q) := by
  cases e <;> simp_all [PacketEnd.settle]
theorem packet_keeps {types : List Nat} {s : State} {k : Nat → Queue → Nat → State → PacketEnd} (h : Memory.Kept s.mem)
    (hk : ∀ q queue x, (k q queue x s).Keeps) : Keeps (packet types s k) := by
  unfold packet; dsimp only; split
  · simp [h]
  · split
    · exact PacketEnd.settle_keeps (by simp [h])
    · split
      · simp [h]
      · split
        · exact PacketEnd.settle_keeps (hk _ _ _)
        · simp [h]
@[simp] theorem State.checkTail_mem (s : State) (q : Nat) : (s.checkTail q).mem = s.mem := by
  unfold State.checkTail; try dsimp only; (repeat' split) <;> first | rfl | simp (maxDischargeDepth := 20)
@[simp] theorem State.writeTail_mem (s : State) (q : Nat) (tail : Word) : (s.writeTail q tail).mem = s.mem := by
  unfold State.writeTail; split <;> simp
theorem execQueueDoorbell_keeps (s : State) (h : Memory.Kept s.mem) : Keeps (execQueueDoorbell s) := by
  simp [execQueueDoorbell, h]
@[simp] theorem State.writeControl_mem (s : State) (q : Nat) (v : Word) :
    (s.writeControl q v).mem = s.mem := (rfl)
theorem execQueueEnable_keeps (s : State) (h : Memory.Kept s.mem) : Keeps (execQueueEnable s) := by
  simp [execQueueEnable, h]
@[simp] theorem State.setEvents_mem (s : State) (part : Nat) (word : Nat) (f : Word → Word) :
    (s.setEvents part word f).mem = s.mem := (rfl)
@[simp] theorem State.writeCompletion_kept (s : State) (c : Completion) (h : Memory.Kept s.mem) :
    Memory.Kept (s.writeCompletion c).mem := by
  unfold State.writeCompletion; split
  · simp [h]
  · rename_i t _
    have k := State.cmdTrap_keeps s t 0 h
    split <;> simp_all
@[simp] theorem State.writeCompletions_kept (s : State) (h : Memory.Kept s.mem) : Memory.Kept s.writeCompletions.mem :=
  foldl_kept _ (fun s c h => by simp [h]) _ _ h
@[simp] theorem State.endLaunch_kept (s : State) (l : Launch) (status exit : Nat) (h : Memory.Kept s.mem) :
    Memory.Kept (s.endLaunch l status exit).mem := by
  unfold State.endLaunch; dsimp only; split <;> simp [h]
@[simp] theorem State.refuse_kept (ls : List Launch) (s : State) (h : Memory.Kept s.mem) : Memory.Kept (s.refuse ls).mem :=
  foldl_kept _ (fun s l h => by simp [h]) _ _ h
theorem execDispatch_keeps (s : State) (h : Memory.Kept s.mem) : Keeps (execDispatch s) := by
  refine packet_keeps h fun q k x => ?_
  dsimp only; split
  · simp [h]
  · split
    · simp [h]
    · split
      · simp [h]
      · split
        · rename_i t _
          have k := State.cmdTrap_keeps s t 0 h
          split
          · rename_i e; rw [e] at k; exact State.endLaunch_kept _ _ _ _ (by simpa using k)
          · exact k
        · (repeat' split) <;> simp [h]
theorem cmoRange_keeps {kind : Nat} {s : State} {k : Nat → Nat → Nat → Nat → State → PacketEnd} (h : Memory.Kept s.mem)
    (hk : ∀ a b c d, (k a b c d s).Keeps) : Keeps (cmoRange kind s k) := by
  refine packet_keeps h fun q k x => ?_
  dsimp only; (repeat' split) <;> first | exact hk _ _ _ _ | simp [h]
theorem cmoKind_keeps (kind : Nat) (effect : State → (CacheLine → Bool) → (L2Line → Bool) → State)
    (he : ∀ s sel l2, Memory.Kept s.mem → Memory.Kept (effect s sel l2).mem) (s : State) (h : Memory.Kept s.mem) :
    Keeps (cmoKind kind effect s) := by
  refine cmoRange_keeps h fun a b c d => ?_
  split
  · simp [h]
  · refine foldl_kept _ (fun s l h => ?_) _ _ h
    split
    · exact h
    · exact he _ _ _ h
theorem execCmoRangeClean_keeps (s : State) (h : Memory.Kept s.mem) : Keeps (execCmoRangeClean s) :=
  cmoKind_keeps _ _ (fun s sel l2 h =>
    State.cleanL2Lines_kept _ _ (State.everyCore_kept _ _ (fun s n h => by simp [h]) h)) _ h
theorem execCmoRangeInval_keeps (s : State) (h : Memory.Kept s.mem) : Keeps (execCmoRangeInval s) :=
  cmoKind_keeps _ _ (fun s sel l2 h =>
    State.flushL2Lines_kept _ _ (State.everyCore_kept _ _ (fun s n h => by simp [h]) h)) _ h
theorem execCmoRangeFlush_keeps (s : State) (h : Memory.Kept s.mem) : Keeps (execCmoRangeFlush s) :=
  cmoKind_keeps _ _ (fun s sel l2 h =>
    State.flushL2Lines_kept _ _ (State.everyCore_kept _ _ (fun s n h => by simp [h]) h)) _ h
@[simp] theorem State.rewriteLeaf_kept (s : State) (part ia : Nat) (f : Word → Word) (h : Memory.Kept s.mem) :
    Memory.Kept (s.rewriteLeaf part ia f).mem := by
  unfold State.rewriteLeaf; split
  · exact h
  · dsimp only; split
    · exact foldl_kept _ (fun s i h => by simp [h]) _ _ h
    · simp [h]
@[simp] theorem State.dropLeaves_mem (s : State) (part lo hi : Nat) : (s.dropLeaves part lo hi).mem = s.mem := (rfl)
@[simp] theorem State.clearRd_mem (s : State) (pages : List CachedLeaf) : (s.clearRd pages).mem = s.mem :=
  foldl_mem _ (fun s l => foldl_mem _ (fun s e => by simp) _ _) _ _
theorem execCmoRangeAttr_keeps (s : State) (h : Memory.Kept s.mem) : Keeps (execCmoRangeAttr s) := by
  refine cmoRange_keeps h fun a b c d => ?_
  dsimp only; split
  · simp [h]
  · split
    · simp [h]
    · split
      · simp [h]
      · split
        · simp [h]
        · refine State.cmdStore_kept _ _ _ ?_
          rw [State.dropLeaves_mem]
          exact foldl_kept _ (fun s p h => by simp [h]) _ _
            (State.cleanL2Lines_kept _ _ (State.everyCore_kept _ _ (fun s n h => by simp [h]) (by simp [h])))
theorem State.packetStore_keeps {s : State} {part : Nat} {a : Word} {optional multi : Bool} {v : Word}
    {k : State → PacketEnd} (h : Memory.Kept s.mem) (hk : (k s).Keeps) :
    (s.packetStore part a optional multi v k).Keeps := by
  unfold State.packetStore; split
  · exact hk
  · split
    · simp [h]
    · split
      · simp [h]
      · simp [h]
      · simp [h]
      · split
        · rename_i e; rw [e] at hk; exact State.cmdStore_kept _ _ _ hk
        · exact hk
theorem execEventSet_keeps (s : State) (h : Memory.Kept s.mem) : Keeps (execEventSet s) := by
  refine packet_keeps h fun q k x => State.packetStore_keeps h ?_
  simp [h]
theorem execEventWait_keeps (s : State) (h : Memory.Kept s.mem) : Keeps (execEventWait s) := by
  refine packet_keeps h fun q k x => ?_
  extract_lets m w; clear_value m w
  by_cases b : x / 2 ^ 16 % 2 = 1 <;> simp only [b, if_true, if_false] <;> split <;> simp [h]
theorem execIndirect_keeps (s : State) (h : Memory.Kept s.mem) : Keeps (execIndirect s) := by
  refine packet_keeps h fun q k x => ?_
  dsimp only; (repeat' split) <;> simp [h]
theorem execTimestamp_keeps (s : State) (h : Memory.Kept s.mem) : Keeps (execTimestamp s) := by
  exact packet_keeps h fun q k x => State.packetStore_keeps h h
theorem execCellWave_keeps (s : State) (h : Memory.Kept s.mem) : Keeps (execCellWave s) := by
  refine packet_keeps h fun q k x => State.packetStore_keeps h ?_
  simp [h]

end Sys2Proof.Machine
end

