-- ==== Sys2Proof/Laws/KeptPlacement.lean ====
section
/-! SUPPORT. Placement and the end of a gang keep the canonical form of memory. -/

namespace Sys2Proof.Machine

@[simp] theorem State.placeGang_kept (s : State) (g : Gang)
    (start : Core → BitVec 16 → Nat → Nat → BitVec 12 → BitVec 1 → Core) (sup : Option (Nat × Nat))
    (h : Memory.Kept s.mem) : Memory.Kept (s.placeGang g start sup).1.mem := by
  unfold State.placeGang
  exact foldl_kept _ (fun s e h => by simp [h]) _ _ (State.sweep_kept _ _ _ h)
@[simp] theorem State.placeLaunch_kept (s : State) (l : Launch) (die : Nat) (clusters : List Nat)
    (ws : List (Word × Word × Word)) (plan : List PlanEntry) (h : Memory.Kept s.mem) :
    Memory.Kept (s.placeLaunch l die clusters ws plan).1.mem := State.placeGang_kept _ _ _ _ h
@[simp] theorem State.beforeFirst_kept (s : State) (core : Nat) (h : Memory.Kept s.mem) :
    Memory.Kept (s.beforeFirst core).mem := by
  unfold State.beforeFirst
  by_cases c : (s.core core).resil = true
  · rw [if_pos c]; dsimp only
    iterate 4 apply Memory.kept_writeBytes
    exact h
  · rw [if_neg c]; exact h
@[simp] theorem State.launchCore_kept (s : State) (wide : Bool) (core : Nat) (h : Memory.Kept s.mem) :
    Memory.Kept (s.launchCore wide core).mem := by
  unfold State.launchCore; try dsimp only; (repeat' split) <;> simp (maxDischargeDepth := 20) [h]
@[simp] theorem State.launchBarrier_kept (s : State) (gids : List (BitVec 16)) (wide : Bool) (h : Memory.Kept s.mem) :
    Memory.Kept (s.launchBarrier gids wide).mem := by
  unfold State.launchBarrier
  refine foldl_kept _ (fun s e h => ?_) _ _ h
  rw [State.modGang_mem]
  exact foldl_kept _ (fun s c h => State.launchCore_kept _ _ _ h) _ _ h
@[simp] theorem State.startGangs_kept (s : State) (gids : List (BitVec 16)) (wide : Bool) (h : Memory.Kept s.mem) :
    Memory.Kept (s.startGangs gids wide).mem := by
  unfold State.startGangs
  by_cases c : (gids.all fun gid => (s.gang? gid).any s.startDue) = true
  · rw [if_pos c]; simp [h]
  · rw [if_neg c]; exact h
@[simp] theorem State.refreshQueues_mem (s : State) :
    (s.refreshQueues).mem = s.mem := (rfl)
@[simp] theorem State.charge_mem (s : State) (q : Nat) :
    (s.charge q).mem = s.mem := (rfl)
@[simp] theorem State.requestPreemption_mem (s : State) (gid : BitVec 16) : (s.requestPreemption gid).mem = s.mem := by
  unfold State.requestPreemption; split
  · rfl
  · dsimp only; split
    · rfl
    · exact foldl_mem _ (fun s e => by simp) _ _
@[simp] theorem State.preemptFor_mem (s : State) (part cls : Nat) (fits : List Nat → Bool) :
    (s.preemptFor part cls fits).mem = s.mem := by
  unfold State.preemptFor; exact foldl_mem _ (fun s g => by simp) _ _
@[simp] theorem State.unlist_mem (s : State) (ls : List Launch) : (s.unlist ls).mem = s.mem :=
  foldl_mem _ (fun s l => by simp) _ _
@[simp] theorem State.placeAll_kept (es : List (Launch × (Nat × List Nat) × List (Word × Word × Word) × List PlanEntry))
    (s : State) (gids : List (BitVec 16)) (h : Memory.Kept s.mem) : Memory.Kept (s.placeAll_ es gids).1.mem := by
  induction es generalizing s gids with
  | nil => exact h
  | cons e es ih => exact ih _ _ (State.placeLaunch_kept _ _ _ _ _ _ (by simp [h]))
@[simp] theorem State.placeOn_kept (s : State) (l : Launch) (places : List (Nat × List Nat)) (h : Memory.Kept s.mem) :
    Memory.Kept (s.placeOn l places).mem := by
  unfold State.placeOn; extract_lets s' ls
  have h' : Memory.Kept s'.mem := h
  split
  · exact h'
  · split
    · rename_i t _
      have k := State.cmdTrap_keeps s' t 0 h'
      split <;> simp_all
    · rw [State.refreshQueues_mem]
      exact State.startGangs_kept _ _ _ (State.placeAll_kept _ _ _ (by simp [h']))
@[simp] theorem State.place_kept (s : State) (q : Nat) (l : Launch) (h : Memory.Kept s.mem) :
    Memory.Kept (s.place q l).mem := by unfold State.place; extract_lets ls; split <;> simp [h]
theorem execLaunchPlacement_keeps (s : State) (h : Memory.Kept s.mem) : Keeps (execLaunchPlacement s) := by
  unfold execLaunchPlacement; dsimp only; (repeat' split) <;> simp [h]
theorem execStartTimeReached_keeps (s : State) (h : Memory.Kept s.mem) : Keeps (execStartTimeReached s) := by
  unfold execStartTimeReached; split
  · simp [h]
  · extract_lets gs; split <;> simp [h]
@[simp] theorem State.gatherLines_kept (s : State) (g : Gang) (h : Memory.Kept s.mem) :
    Memory.Kept (s.gatherLines g).mem := State.everyCore_kept _ _ (fun s n h => by simp [h]) h
@[simp] theorem State.dropGang_kept (s : State) (g : Gang) (h : Memory.Kept s.mem) : Memory.Kept (s.dropGang g).mem := by
  unfold State.dropGang; extract_lets here s1 s2 group s3 s4
  have h1 : Memory.Kept s1.mem := by
    simp only [s1]; split
    · simp [h]
    · exact foldl_kept _ (fun s c h => by simp [h]) _ _ h
  have h2 : Memory.Kept s2.mem := foldl_kept _ (fun s c h => by simp [h]) _ _ h1
  have h4 : Memory.Kept s4.mem := by simp only [s4]; split <;> simp [s3, h2]
  exact h4
@[simp] theorem State.sleepIdle_mem (s : State) : s.sleepIdle.mem = s.mem := by
  unfold State.sleepIdle
  by_cases c : s.service.pst = 2
  · rw [if_pos c]
  · rw [if_neg c]
theorem execGangEnd_keeps (s : State) (h : Memory.Kept s.mem) : Keeps (execGangEnd s) := by
  unfold execGangEnd; dsimp only; (repeat' split) <;> simp (maxDischargeDepth := 20) [h]

end Sys2Proof.Machine
end

