-- ==== Sys2Proof/Laws/KeptSave.lean ====
section
/-! SUPPORT. The save, the swap and the restore of a gang keep the canonical form of memory. -/

namespace Sys2Proof.Machine

@[simp] theorem State.moveMarks_mem (s : State) (src dst len : Nat) : (s.moveMarks src dst len).mem = s.mem := (rfl)
theorem State.moveMarks_kept (s : State) (src dst len : Nat) (h : Memory.Kept s.mem) :
    Memory.Kept (s.moveMarks src dst len).mem := h
theorem State.freePokes_kept (s t : State) (bs : List Byte) (pa : Nat) (e : t.mem = s.mem) (h : Memory.Kept s.mem) :
    Memory.Kept (t.pokes pa bs).mem := State.pokes_kept _ t _ (e ▸ h)
@[simp] theorem State.writeSlot_kept (s : State) (core pa : Nat) (h : Memory.Kept s.mem) :
    Memory.Kept (s.writeSlot core pa).mem :=
  State.moveMarks_kept _ _ _ _ (State.moveMarks_kept _ _ _ _ (State.freePokes_kept s _ _ pa rfl h))
@[simp] theorem State.forcedSave_kept (s : State) (g : Gang) (h : Memory.Kept s.mem) :
    Memory.Kept (s.forcedSave g).mem := by
  unfold State.forcedSave; extract_lets p slots wake s0 saves held s1 s2 s3 s4
  have h0 : Memory.Kept s0.mem := foldl_kept _ (fun s c h => by simp [h]) _ _ h
  have h1 : Memory.Kept s1.mem := foldl_kept _ (fun s c h => State.writeSlot_kept _ _ _ h) _ _ h0
  exact foldl_kept _ (fun s c h => by simp [h]) _ _ h1
theorem State.stopAndSave_keeps (s : State) (gs : List Gang) (h : Memory.Kept s.mem) : Keeps (s.stopAndSave gs) := by
  unfold State.stopAndSave; split
  · rw [keeps_next, foldl_mem _ (fun s g => by simp)]; exact h
  · split
    · simp
    · extract_lets s'
      have h' : Memory.Kept s'.mem := foldl_kept _ (fun s g h => by split <;> simp [h]) _ _ h
      rw [keeps_next]
      split
      · exact foldl_kept _ (fun s g h => State.forcedSave_kept _ _ h) _ _ h'
      · exact h'
theorem execPreemptionRequest_keeps (s : State) (h : Memory.Kept s.mem) : Keeps (execPreemptionRequest s) := by
  simp [execPreemptionRequest, h]
theorem execDrainExpiry_keeps (s : State) (h : Memory.Kept s.mem) : Keeps (execDrainExpiry s) := by
  unfold execDrainExpiry; split
  · simp [h]
  · split
    · exact State.stopAndSave_keeps _ _ h
    · simp [h]
theorem execSaveComplete_keeps (s : State) (h : Memory.Kept s.mem) : Keeps (execSaveComplete s) := by
  unfold execSaveComplete; split
  · simp [h]
  · split
    · simp [h]
    · extract_lets s1 s2
      have h2 : Memory.Kept s2.mem := by simp [s2, s1, h]
      split <;> simp [h2]
theorem execLongWaitSwap_keeps (s : State) (h : Memory.Kept s.mem) : Keeps (execLongWaitSwap s) := by
  unfold execLongWaitSwap; extract_lets core ctx; split
  · simp [h]
  · split
    · simp [h]
    · split
      · simp [h]
      · extract_lets s'
        split
        · simp [s', h]
        · exact State.stopAndSave_keeps _ _ (by simp [s', h])
theorem State.wakeGang_keeps (s : State) (due : Gang → Bool) (h : Memory.Kept s.mem) : Keeps (s.wakeGang due) := by
  unfold State.wakeGang; split
  · simp [h]
  · rename_i g _
    by_cases c : (g.state == .saved && due g) = true
    · rw [if_pos c]; simp [h]
    · rw [if_neg c]; simp [h]
theorem execSwapWake_keeps (s : State) (h : Memory.Kept s.mem) : Keeps (execSwapWake s) := by
  exact State.wakeGang_keeps _ _ h
theorem execResumeIntervalExpiry_keeps (s : State) (h : Memory.Kept s.mem) : Keeps (execResumeIntervalExpiry s) := by
  exact State.wakeGang_keeps _ _ h
@[simp] theorem State.reportEnd_mem (s : State) (g : Gang) (cls : FaultClass) (code : Nat) (operand : Word) (pc : Word) :
    (s.reportEnd g cls code operand pc).mem = s.mem := (rfl)
@[simp] theorem State.loadLocal_kept (s : State) (core pa : Nat) (h : Memory.Kept s.mem) :
    Memory.Kept (s.loadLocal core pa).mem := by simp [State.loadLocal, h]
@[simp] theorem State.answer_mem (s : State) (core : Nat) (ctx : Nat) (a : Word × Word) :
    (s.answer core ctx a).mem = s.mem := (rfl)
@[simp] theorem State.moveOutside_mem (s : State) (gid : BitVec 16) (move : Nat → Nat) :
    (s.moveOutside gid move).mem = s.mem := (rfl)
@[simp] theorem State.settleWaits_mem (s : State) (gid : BitVec 16) : (s.settleWaits gid).mem = s.mem := by
  unfold State.settleWaits; extract_lets s'
  have h : s'.mem = s.mem := foldl_mem _ (fun s m => by simp) _ _
  rw [← h]
  refine foldl_mem _ (fun s r => ?_) _ _
  simp
@[simp] theorem State.restoreGang_kept (s : State) (g : Gang) (die : Nat) (clusters : List Nat) (plan : List PlanEntry)
    (h : Memory.Kept s.mem) : Memory.Kept (s.restoreGang g die clusters plan).mem := by
  unfold State.restoreGang; extract_lets cores move away s1 s2 s3 s4 s5 sup s6 s7 s8 s9
  have h1 : Memory.Kept s1.mem := by simp [s1, h]
  have h2 : Memory.Kept s2.mem := foldl_kept _ (fun s e h => State.loadLocal_kept _ _ _ h) _ _ h1
  have h3 : Memory.Kept s3.mem := foldl_kept _ (fun s e h => by simp [h]) _ _ h2
  have h7 : Memory.Kept s7.mem := by simp [s7, s6, s5, s4, h3]
  have h9 : Memory.Kept s9.mem := by
    have h8 : Memory.Kept s8.mem := by simp only [s8]; clear_value sup s7; cases sup <;> exact h7
    simp [s9, h8]
  by_cases c : g.started = true
  · rw [if_pos c]; exact foldl_kept _ (fun s e h => by simp [h]) _ _ h9
  · rw [if_neg c]; exact h9
theorem State.restoreOne_keeps (s : State) (g : Gang) (place : Nat × List Nat) (h : Memory.Kept s.mem) :
    (s.restoreOne g place).Keeps := by
  unfold State.restoreOne; split
  · rename_i t _
    have k := State.cmdTrap_keeps s t 0 h
    split
    · rename_i e; rw [e] at k; simpa using k
    · exact k
  · split
    · simp [h]
    · extract_lets s'
      have h' : Memory.Kept s'.mem := by simp only [s']; split <;> simp [h]
      simp [h']
theorem State.restoreAll_keeps (l : List (Gang × (Nat × List Nat))) (s : State) (h : Memory.Kept s.mem) :
    (s.restoreAll l).Keeps := by
  induction l generalizing s with
  | nil => exact h
  | cons e l ih =>
    unfold State.restoreAll
    have k := State.restoreOne_keeps s e.1 e.2 h
    split
    · rename_i e'; rw [e'] at k; exact ih _ k
    · exact k
theorem execGangRestore_keeps (s : State) (h : Memory.Kept s.mem) : Keeps (execGangRestore s) := by
  unfold execGangRestore; extract_lets s' free
  have h' : Memory.Kept s'.mem := by simp [s', h]
  split
  · simp [h]
  · extract_lets gs chosen; split
    · simp [h]
    · split
      · split <;> simp [h']
      · rename_i places _
        have hf : Memory.Kept free.mem := h'
        have k := State.restoreAll_keeps (gs.zip places) free hf
        split
        · simp [hf]
        · split <;> (rename_i e; rw [e] at k) <;> first | simpa using k | simpa using h

end Sys2Proof.Machine
end

