-- ==== Sys2Proof/Laws/KeptFormula.lean ====
section
/-! SUPPORT. Formula gangs keep the canonical form of memory. -/

namespace Sys2Proof.Machine

@[simp] theorem State.failFormula_mem (s : State) (part : Nat) (wave : BitVec 32) (id : Nat) (exit : Option (BitVec 16)) :
    (s.failFormula part wave id exit).mem = s.mem := (rfl)
@[simp] theorem State.formulaRecord_mem (s : State) (part : Nat) (c : Cell) (t : Trap) :
    (s.formulaRecord part c t).mem = s.mem := (rfl)
@[simp] theorem State.pinFormula_mem (s : State) (gid : BitVec 16) (part : Nat) (origin : Nat) (pc : Word) (pages : List Nat) :
    (s.pinFormula gid part origin pc pages).mem = s.mem := (rfl)
@[simp] theorem State.startFormula_kept (s : State) (part : Nat) (w : Wave) (id : Nat) (c : Cell) (die : Nat)
    (clusters : List Nat) (ws : List (Word × Word × Word)) (bytes : List (Nat × Byte)) (h : Memory.Kept s.mem) :
    Memory.Kept (s.startFormula part w id c die clusters ws bytes).mem := by
  unfold State.startFormula
  extract_lets gw gh src g origin s1 values
  have h1 : Memory.Kept s1.mem := foldl_kept _ (fun s e h => State.poke_kept _ _ _ h) _ _ h
  generalize hx : State.placeGang _ _ _ _ = x
  have h2 : Memory.Kept x.1.mem := by rw [← hx]; exact State.placeGang_kept _ _ _ _ h1
  obtain ⟨s2, gid⟩ := x
  dsimp only at h2 ⊢
  exact State.launchBarrier_kept _ _ _ (by simp [h2])
theorem execFormulaTaskPlacement_keeps (s : State) (h : Memory.Kept s.mem) : Keeps (execFormulaTaskPlacement s) := by
  have fail (t : Trap) (part : Nat) (c : Cell) (w : Wave) (id : Nat) : Keeps (match s.cmdTrap t 0 with
      | .hold s => .next s
      | .done s => .next s
      | .error s _ => .next ((s.formulaRecord part c t).failFormula part w.number id)) := by
    have k := State.cmdTrap_keeps s t 0 h
    split <;> (rename_i e; rw [e] at k; simpa using k)
  unfold execFormulaTaskPlacement; extract_lets part p; split
  · simp [h]
  · split
    · simp [h]
    · split
      · simp [h]
      · extract_lets gw gh; split
        · simp [h]
        · split
          · exact fail _ _ _ _ _
          · split
            · exact fail _ _ _ _ _
            · simp [h]
theorem execFormulaTaskEnd_keeps (s : State) (h : Memory.Kept s.mem) : Keeps (execFormulaTaskEnd s) := by
  unfold execFormulaTaskEnd; split
  · simp [h]
  · split
    · simp [h]
    · split
      · simp [h]
      · extract_lets exit s'
        have h' : Memory.Kept s'.mem := by simp [s', h]
        split <;> simp [h']

end Sys2Proof.Machine
end

