-- ==== Sys2Proof/Laws/KeptRegisters.lean ====
section
/-! SUPPORT. The registers of BAR 0, a change of owner and the power states keep the canonical form of memory. -/

namespace Sys2Proof.Machine

@[simp] theorem State.forgetRun_mem (s : State) (lo n : Nat) : (s.forgetRun lo n).mem = s.mem := (rfl)
@[simp] theorem State.zeroRun_kept (s : State) (lo n : Nat) (h : Memory.Kept s.mem) : Memory.Kept (s.zeroRun lo n).mem :=
  Memory.kept_clear _ _ _ h
@[simp] theorem State.zeroLeaf_kept (s : State) (size : Nat) (e : Word) (h : Memory.Kept s.mem) :
    Memory.Kept (s.zeroLeaf size e).mem := by
  unfold State.zeroLeaf; split
  · exact h
  · split
    · exact foldl_kept _ (fun s d h => State.zeroRun_kept _ _ _ h) _ _ h
    · exact State.zeroRun_kept _ _ _ h
@[simp] theorem State.zeroCluster_kept (s : State) (c : Nat) (h : Memory.Kept s.mem) :
    Memory.Kept (s.zeroCluster c).mem :=
  State.zeroRun_kept _ _ _ (State.zeroRun_kept _ _ _ (State.zeroRun_kept _ _ _ h))
@[simp] theorem State.recallHelpers_mem (s : State) (c : Nat) :
    (s.recallHelpers c).mem = s.mem := (rfl)
@[simp] theorem State.dropEverywhere_mem (s : State) (sel : Nat → CacheLine → Bool) :
    (s.dropEverywhere sel).mem = s.mem := (rfl)
@[simp] theorem State.releaseCluster_kept (s : State) (c : Nat) (h : Memory.Kept s.mem) :
    Memory.Kept (s.releaseCluster c).mem := by
  refine State.zeroCluster_kept _ _ (foldl_kept _ (fun s g h => ?_) _ _ (by simp [h]))
  cases g.formula <;> simp [h]
@[simp] theorem State.freeFour_mem (s : State) : s.freeFour.2.mem = s.mem := (rfl)
@[simp] theorem State.closeRequests_mem (s : State) (sel : PageRequest → Bool) : (s.closeRequests sel).mem = s.mem := (rfl)
@[simp] theorem State.noteOutgoing_mem (s : State) (part c : Nat) : (s.noteOutgoing part c).mem = s.mem := (rfl)
@[simp] theorem State.noteOwner_mem (s : State) (part : Nat) : (s.noteOwner part).mem = s.mem := by
  unfold State.noteOwner; split <;> rfl
@[simp] theorem State.zeroPartition_kept (s : State) (part : Nat) (h : Memory.Kept s.mem) :
    Memory.Kept (s.zeroPartition part).mem := by
  unfold State.zeroPartition; extract_lets p s1 s2 st s3 s4 keep s5
  have h1 : Memory.Kept s1.mem := foldl_kept _ (fun s e h => by split; exact State.zeroLeaf_kept _ _ _ h; exact h) _ _ h
  have h2 : Memory.Kept s2.mem := foldl_kept _ (fun s e h => State.zeroLeaf_kept _ _ _ h) _ _ h1
  have ht : Memory.Kept st.mem := foldl_kept _ (fun s f h => State.zeroRun_kept _ _ _ h) _ _ h2
  have h3 : Memory.Kept s3.mem := State.zeroRun_kept _ _ _ ht
  have h4 : Memory.Kept s4.mem := foldl_kept _ (fun s e h => State.zeroCluster_kept _ _ h) _ _ h3
  rw [State.modPart_mem, State.closeRequests_mem]
  exact h4
@[simp] theorem State.changeOwner_kept (s : State) (part : Nat) (owner : BitVec 32) (h : Memory.Kept s.mem) :
    Memory.Kept (s.changeOwner part owner).mem := by
  unfold State.changeOwner; extract_lets p; split
  · exact h
  · dsimp only
    rw [State.modPart_mem, State.freeFour_mem, State.noteOwner_mem]
    exact State.zeroPartition_kept _ _ (foldl_kept _ (fun s g h => State.dropGang_kept _ _ h) _ _ h)
@[simp] theorem State.writeClusters_kept (s : State) (part die : Nat) (mask : Word) (h : Memory.Kept s.mem) :
    Memory.Kept (s.writeClusters part die mask).mem := by
  unfold State.writeClusters; extract_lets p foreign; split
  · exact h
  · rw [State.modPart_mem]
    exact foldl_kept _ (fun s c h => by rw [State.noteOutgoing_mem]; exact State.releaseCluster_kept _ _ h) _ _ h
theorem execPartitionOwnerWrite_keeps (s : State) (h : Memory.Kept s.mem) : Keeps (execPartitionOwnerWrite s) := by
  exact (keeps_next _).2 (State.changeOwner_kept _ _ _ h)
theorem execPartitionClusterWrite_keeps (s : State) (h : Memory.Kept s.mem) : Keeps (execPartitionClusterWrite s) := by
  exact (keeps_next _).2 (State.writeClusters_kept _ _ _ _ h)
@[simp] theorem State.modService_mem (s : State) (f : Service → Service) : (s.modService f).mem = s.mem := (rfl)
@[simp] theorem State.wakeAll_kept (s : State) (h : Memory.Kept s.mem) : Memory.Kept s.wakeAll.mem :=
  foldl_kept _ (fun s n h => State.wakeArray_kept _ _ h) _ _ h
@[simp] theorem State.setClock_mem (s : State) (mhz : Nat) : (s.setClock mhz).mem = s.mem := by
  unfold State.setClock; by_cases c : s.service.mhz = mhz
  · rw [if_pos c]
  · rw [if_neg c]; rfl
@[simp] theorem State.enterPower_kept (s : State) (pst : BitVec 3) (cap : BitVec 16) (h : Memory.Kept s.mem) :
    Memory.Kept (s.enterPower pst cap).mem := by
  unfold State.enterPower; extract_lets was s1 s2 s3
  have h1 : Memory.Kept s1.mem := h
  have h2 : Memory.Kept s2.mem := by simp only [s2]; clear_value s1; split; exact State.wakeAll_kept _ h1; exact h1
  have h3 : Memory.Kept s3.mem := by
    simp only [s3]; clear_value s2; split
    · rw [State.setClock_mem]; exact h2
    · exact h2
  clear_value s3
  split
  · rw [State.sleepIdle_mem]; exact foldl_kept _ (fun s g h => by simp [h]) _ _ h3
  · exact h3
@[simp] theorem State.powerValues_mem (s : State) (v : Word) : (s.powerValues v).2.2.mem = s.mem := (rfl)
@[simp] theorem State.writePower_kept (s : State) (v : Word) (tmax : Nat) (h : Memory.Kept s.mem) :
    Memory.Kept (s.writePower v tmax).mem := by
  unfold State.writePower
  generalize e : s.powerValues v = x
  have hx : Memory.Kept x.2.2.mem := by rw [← e]; simp [h]
  obtain ⟨pst, cap, s1⟩ := x
  dsimp only at hx ⊢
  split
  · exact hx
  · exact State.enterPower_kept _ _ _ hx
theorem execPowerStateWrite_keeps (s : State) (h : Memory.Kept s.mem) : Keeps (execPowerStateWrite s) := by
  exact (keeps_next _).2 (State.writePower_kept _ _ _ h)
theorem execPower_keeps (s : State) (h : Memory.Kept s.mem) : Keeps (execPower s) := by
  refine packet_keeps h fun q k x => ?_
  extract_lets v pst cap s'; split
  · exact h
  · split
    · exact h
    · split
      · exact h
      · have h' : Memory.Kept s'.mem := by simp only [s']; split; exact h; exact State.enterPower_kept _ _ _ h
        split <;> exact h'
theorem State.writeQueue_kept {s t : State} {q off : Nat} {v : Word} (h : Memory.Kept s.mem)
    (e : s.writeQueue q off v = some t) : Memory.Kept t.mem := by
  unfold State.writeQueue at e
  split at e <;> cases e <;> first | exact h | (split <;> simp [h]) | simp [h]
@[simp] theorem State.pintoValue_mem (s : State) (v : BitVec 32) : (s.pintoValue v).2.mem = s.mem := (rfl)
theorem State.writeTranslation_kept {s t : State} {q off : Nat} {v : Word} (h : Memory.Kept s.mem)
    (e : s.writeTranslation q off v = some t) : Memory.Kept t.mem := by
  unfold State.writeTranslation at e; (try extract_lets +lift at e); split at e <;> cases e <;> first | exact h | simp [h]
theorem State.writePartition_kept {s t : State} {q off : Nat} {v : Word} (h : Memory.Kept s.mem)
    (e : s.writePartition q off v = some t) : Memory.Kept t.mem := by
  unfold State.writePartition at e
  generalize ((s.part q).st != 2) = b at e
  dsimp only at e
  split at e <;> cases e <;> first | exact h | (cases b <;> exact h) | simp [h]
theorem State.writeDump_kept {s t : State} {off : Nat} {v : Word} (h : Memory.Kept s.mem)
    (e : s.writeDump off v = some t) : Memory.Kept t.mem := by
  unfold State.writeDump at e; split at e <;> cases e <;> exact h
theorem State.writeService_kept {s t : State} {off tmax : Nat} {v : Word} (h : Memory.Kept s.mem)
    (e : s.writeService off v tmax = some t) : Memory.Kept t.mem := by
  unfold State.writeService at e; split at e
  all_goals try (cases e; first | exact h | exact State.writePower_kept _ _ _ h)
  split at e <;> cases e; exact h
theorem State.writeRegister_kept {s t : State} {off tmax : Nat} {v : Word} (h : Memory.Kept s.mem)
    (e : s.writeRegister off v tmax = some t) : Memory.Kept t.mem := by
  unfold State.writeRegister at e
  split at e
  · exact State.writeQueue_kept h e
  · split at e
    · exact State.writeTranslation_kept h e
    · split at e
      · exact State.writePartition_kept h e
      · split at e
        · exact State.writeDump_kept h e
        · split at e
          · exact State.writeService_kept h e
          · split at e <;> cases e
            exact h
theorem execRegisterWrite_keeps (s : State) (h : Memory.Kept s.mem) : Keeps (execRegisterWrite s) := by
  unfold execRegisterWrite; split
  · rename_i e; exact (keeps_next _).2 (State.writeRegister_kept h e)
  · simp

end Sys2Proof.Machine
end

