-- ==== Sys2Proof/Laws/KeptService.lean ====
section
/-! SUPPORT. The events of the service tile keep the canonical form of memory. -/

namespace Sys2Proof.Machine

@[simp] theorem State.tell_mem (s : State) (n : HostNotice) : (s.tell n).mem = s.mem := (rfl)
theorem execCapWindow_keeps (s : State) (h : Memory.Kept s.mem) : Keeps (execCapWindow s) := by
  unfold execCapWindow; split
  · simp [h]
  · have h' : Memory.Kept s.free.2.mem := h
    generalize s.free = y at h' ⊢
    obtain ⟨x, t⟩ := y
    dsimp only at h' ⊢
    split
    · simp [h']
    · split <;> simp [h']
theorem execThermalTrip_keeps (s : State) (h : Memory.Kept s.mem) : Keeps (execThermalTrip s) := by
  unfold execThermalTrip; extract_lets t; split <;> simp [h]
theorem execEnergySample_keeps (s : State) (h : Memory.Kept s.mem) : Keeps (execEnergySample s) := by
  exact (keeps_next _).2 h
theorem execEnergyCheckpoint_keeps (s : State) (h : Memory.Kept s.mem) : Keeps (execEnergyCheckpoint s) := by
  exact (keeps_next _).2 h
@[simp] theorem State.report_kept (s : State) (bytes : List Byte) (h : Memory.Kept s.mem) :
    Memory.Kept (s.report bytes).mem := State.pokes_kept _ _ _ h
theorem execSignedReading_keeps (s : State) (h : Memory.Kept s.mem) : Keeps (execSignedReading s) := by
  unfold execSignedReading; split
  · simp [h]
  · extract_lets item s'
    have h' : Memory.Kept s'.mem := h
    clear_value s' item
    exact (keeps_next _).2 (State.report_kept _ _ h')
theorem execAttestationReport_keeps (s : State) (h : Memory.Kept s.mem) : Keeps (execAttestationReport s) := by
  unfold execAttestationReport; extract_lets v signed; clear_value signed; split
  · simp [h]
  · exact (keeps_next _).2 (State.report_kept _ _ h)
@[simp] theorem State.takeOver_mem (s : State) (f : Service → Service) : (s.takeOver f).mem = s.mem := (rfl)
theorem execWatchdogTakeover_keeps (s : State) (h : Memory.Kept s.mem) : Keeps (execWatchdogTakeover s) := by
  unfold execWatchdogTakeover; split <;> simp [h]
theorem execLiveUpdate_keeps (s : State) (h : Memory.Kept s.mem) : Keeps (execLiveUpdate s) := by
  have w (f : Service → Service) : Keeps (.next (s.modService f)) := (keeps_next _).2 h
  unfold execLiveUpdate
  split
  · simp [h]
  · split
    · exact w _
    · split
      · exact w _
      · extract_lets image
        generalize Config.imageVerdict image = d
        obtain ⟨signed, accepted⟩ := d
        dsimp only
        split
        · exact w _
        · split
          · exact (keeps_next _).2 h
          · split <;> exact (keeps_next _).2 h
theorem execDeviceReset_keeps (s : State) (h : Memory.Kept s.mem) : Keeps (execDeviceReset s) := by
  exact (keeps_next _).2 (Memory.kept_filter _ _ h)
@[simp] theorem State.clearCluster_mem (s : State) (c : Nat) : (s.clearCluster c).mem = s.mem :=
  foldl_mem _ (fun s g => by simp) _ _
@[simp] theorem State.retireCluster_kept (s : State) (c : Nat) (h : Memory.Kept s.mem) :
    Memory.Kept (s.retireCluster c).mem := State.releaseCluster_kept s c h
theorem execInFieldTest_keeps (s : State) (h : Memory.Kept s.mem) : Keeps (execInFieldTest s) := by
  unfold execInFieldTest; split
  · simp [h]
  · split
    · simp [h]
    · extract_lets s1 pass s2
      have h1 : Memory.Kept s1.mem := h
      have h2 : Memory.Kept s2.mem := h
      clear_value s2 pass s1
      split
      · simp [h1]
      · by_cases c : pass = true
        · rw [if_pos c]; simp [h2]
        · rw [if_neg c]; simp [h2]
theorem State.pokesAll_kept (base : Nat) (l : List (Nat × Nat × Nat × List Byte)) (s : State) (h : Memory.Kept s.mem) :
    Memory.Kept (l.foldl (fun s e => s.pokes (base + e.1) e.2.2.2) s).mem :=
  foldl_kept _ (fun s e h => State.pokes_kept e.2.2.2 s (base + e.1) h) l s h
@[simp] theorem State.writeDumpRegion_kept (s : State) (reason unit : Nat) (h : Memory.Kept s.mem) :
    Memory.Kept (s.writeDumpRegion reason unit).mem := by
  unfold State.writeDumpRegion
  by_cases c : s.service.dlen = 0
  · simp only [c, if_true]; exact h
  · simp only [c, if_false]
    rw [State.modService_mem]
    exact State.pokesAll_kept _ _ _ (State.pokes_kept _ _ _ h)
theorem execFatalError_keeps (s : State) (h : Memory.Kept s.mem) : Keeps (execFatalError s) := by
  unfold execFatalError; extract_lets s1 unit reason
  have h1 : Memory.Kept s1.mem := h
  clear_value s1
  simp [h1]
theorem execFailedSubChannelMark_keeps (s : State) (h : Memory.Kept s.mem) : Keeps (execFailedSubChannelMark s) := by
  unfold execFailedSubChannelMark; extract_lets m; split <;> exact (keeps_next _).2 h
theorem execTbaseDiscipline_keeps (s : State) (h : Memory.Kept s.mem) : Keeps (execTbaseDiscipline s) := by
  exact (keeps_next _).2 h

end Sys2Proof.Machine
end

