-- ==== Sys2Proof/Laws/KeptTranslation.lean ====
section
/-! SUPPORT. Shootdowns, pins, the host link and migration keep the canonical form of memory. -/

namespace Sys2Proof.Machine

@[simp] theorem State.performRange_kept (s : State) (part lo hi : Nat) (h : Memory.Kept s.mem) :
    Memory.Kept (s.performRange part lo hi).mem :=
  State.flushL2Lines_kept _ _ (State.everyCore_kept _ _ (fun s n h => State.flushLines_kept _ _ _ h)
    (State.freeEntries_kept _ _ _ _ h))
theorem shootdown_keeps {kind : BitVec 2} {s : State} {k : Nat → Nat → Nat → Out} (h : Memory.Kept s.mem)
    (hk : ∀ a b c, Keeps (k a b c)) : Keeps (shootdown kind s k) := by
  unfold shootdown; extract_lets part p; split
  · exact hk _ _ _
  · simp [h]
@[simp] theorem State.endShootdown_kept (s : State) (part lo hi : Nat) (h : Memory.Kept s.mem) :
    Memory.Kept (s.endShootdown part lo hi).mem := by
  unfold State.endShootdown
  rw [State.modPart_mem]
  exact State.performRange_kept _ _ _ _ (by rw [State.dropLeaves_mem]; exact h)
theorem execShootdownDrop_keeps (s : State) (h : Memory.Kept s.mem) : Keeps (execShootdownDrop s) := by
  exact shootdown_keeps h fun a b c => by simp [h]
theorem execShootdownUnmap_keeps (s : State) (h : Memory.Kept s.mem) : Keeps (execShootdownUnmap s) := by
  exact shootdown_keeps h fun a b c => by split <;> simp [h]
@[simp] theorem State.moveBytes_kept (s : State) (src dst n : Nat) (h : Memory.Kept s.mem) :
    Memory.Kept (s.moveBytes src dst n).mem := Memory.kept_copyRun s.mem src dst n h
@[simp] theorem State.readFrame_kept (s : State) (gran : BitVec 2) (src n : Nat) (h : Memory.Kept s.mem) :
    Memory.Kept (s.readFrame gran src n).1.mem := foldl_kept _ (fun s b h => State.takeGranule_kept _ _ _ _ _ h) _ _ h
@[simp] theorem State.movePage_kept (s : State) (part base size : Nat) (e : Word) (frame : Nat)
    (h : Memory.Kept s.mem) : Memory.Kept (s.movePage part base size e frame).mem := by
  unfold State.movePage; extract_lets hi src
  have k := State.readFrame_kept _ (leafGran e) src size (State.performRange_kept s part base hi h)
  generalize State.readFrame _ _ _ _ = x at k ⊢
  obtain ⟨s1, lost⟩ := x
  dsimp only at k ⊢
  have k3 : Memory.Kept (lost.foldl (fun s b => s.poisonGranule (leafGran e) (b - src + frame))
      (s1.moveBytes src frame size)).mem := foldl_kept _ (fun s b h => by simp [h]) _ _ (State.moveBytes_kept _ _ _ _ k)
  rw [State.modPart_mem, State.dropLeaves_mem]
  exact State.rewriteLeaf_kept _ _ _ _ k3
theorem movePages_kept {part lo dest : Nat} (ls : List (Nat × Nat × Word)) {s t : State} (h : Memory.Kept s.mem)
    (e : movePages part lo dest ls s = .ok t) : Memory.Kept t.mem := by
  induction ls generalizing s with
  | nil => cases e; exact h
  | cons l ls ih =>
    obtain ⟨base, size, w⟩ := l
    unfold movePages at e; extract_lets frame at e; split at e
    · exact ih h e
    · split at e
      · cases e
      · exact ih (State.movePage_kept _ _ _ _ _ _ h) e
theorem execShootdownMove_keeps (s : State) (h : Memory.Kept s.mem) : Keeps (execShootdownMove s) := by
  refine shootdown_keeps h fun a b c => ?_
  split
  · simp [h]
  · extract_lets pages; split
    · simp
    · rename_i e; simp [movePages_kept _ h e]
@[simp] theorem State.takeSavedFault_mem (s : State) (g : Gang) (core ctx : Nat) (i : FaultInfo) :
    (s.takeSavedFault g core ctx i).mem = s.mem := by
  unfold State.takeSavedFault; split
  · rfl
  · simp
@[simp] theorem State.revokePin_kept (s : State) (part page : Nat) (t : Task) (h : Memory.Kept s.mem) :
    Memory.Kept (s.revokePin part page t).mem := by
  unfold State.revokePin; extract_lets s1 s2 s3
  have h1 : Memory.Kept s1.mem := State.performRange_kept _ _ _ _ h
  have h3 : Memory.Kept s3.mem := h1
  clear_value s3
  split
  · exact h3
  · split
    · split <;> simp [h3]
    · exact h3
theorem execPintoExpiry_keeps (s : State) (h : Memory.Kept s.mem) : Keeps (execPintoExpiry s) := by
  unfold execPintoExpiry; extract_lets part page; split
  · rename_i t since _ _
    by_cases c : s.clk ≥ since + (s.part part).pinto.toNat * Config.clkPerUs
    · rw [if_pos c]; simp [h]
    · rw [if_neg c]; simp [h]
  · simp [h]
@[simp] theorem State.declinePage_mem (s : State) (part page : Nat) (host : Bool) :
    (s.declinePage part page host).mem = s.mem :=
  foldl_mem _ (fun s w => by split <;> simp) _ _
theorem execPageGroupResponse_keeps (s : State) (h : Memory.Kept s.mem) : Keeps (execPageGroupResponse s) := by
  unfold execPageGroupResponse; extract_lets a page asked s1
  have h1 : Memory.Kept s1.mem := h
  clear_value s1; split
  · simp [h]
  · by_cases c : a.yes = true
    · rw [if_pos c]; simp [h1]
    · rw [if_neg c]; simp [h1]
theorem execAtsInvalidationRequest_keeps (s : State) (h : Memory.Kept s.mem) : Keeps (execAtsInvalidationRequest s) := by
  exact (keeps_next _).2 h
theorem execTranslationCompletion_keeps (s : State) (h : Memory.Kept s.mem) : Keeps (execTranslationCompletion s) := by
  unfold execTranslationCompletion; extract_lets a key s1 old new
  have h1 : Memory.Kept s1.mem := h
  clear_value old s1; split
  · simp [h]
  · split
    · split <;> simp [h1]
    · simp [h1]
theorem execMigrationTrigger_keeps (s : State) (h : Memory.Kept s.mem) : Keeps (execMigrationTrigger s) := by
  unfold execMigrationTrigger; extract_lets part die p; split
  · extract_lets k; split
    · simp [h]
    · split
      · simp [h]
      · split
        · simp [h]
        · split <;> simp [h]
  · simp [h]
theorem execSettledExpiry_keeps (s : State) (h : Memory.Kept s.mem) : Keeps (execSettledExpiry s) := by
  unfold execSettledExpiry; extract_lets part; split
  · extract_lets k
    by_cases c : (k.settledUntil.any fun t => decide (t ≤ s.clk)) = true
    · rw [if_pos c]; simp [h]
    · rw [if_neg c]; simp [h]
  · simp [h]

end Sys2Proof.Machine
end

