-- ==== Sys2Proof/Laws/KeptCoherence.lean ====
section
/-! SUPPORT. The directory, the arrays and the host keep the canonical form of memory. -/

namespace Sys2Proof.Machine

theorem execDirectoryRequest_keeps (s : State) (h : Memory.Kept s.mem) : Keeps (execDirectoryRequest s) := by
  unfold execDirectoryRequest; extract_lets a core part; split
  · simp [h]
  · split
    · simp [h]
    · split
      · simp [h]
      · rw [keeps_next]; split <;> simp [h]
theorem execDirectoryMerge_keeps (s : State) (h : Memory.Kept s.mem) : Keeps (execDirectoryMerge s) := by
  unfold execDirectoryMerge; extract_lets a l quiet; split
  · simp [h]
  · split
    · simp [h]
    · split
      · simp [h]
      · split
        · simp [h]
        · split <;> simp [h]
theorem execArrayWake_keeps (s : State) (h : Memory.Kept s.mem) : Keeps (execArrayWake s) := by
  exact (keeps_next _).2 (State.wakeArray_kept _ _ h)
@[simp] theorem State.physicalPoke_kept (s : State) (pa : Nat) (b : Byte) (h : Memory.Kept s.mem) :
    Memory.Kept (s.physicalPoke pa b).mem := by
  unfold State.physicalPoke; split
  · exact State.poke_kept _ _ _ (State.dirtyL2_kept _ _ (State.everyCore_kept _ _ (fun s n h => by simp [h]) h))
  · exact State.poke_kept _ _ _ (by simp [h])
theorem State.hostRead_keeps (s : State) (ps : List Place) (h : Memory.Kept s.mem) : Keeps (s.hostRead ps) := by
  unfold State.hostRead; dsimp only; exact (keeps_next _).2 h
theorem execHostAccess_keeps (s : State) (h : Memory.Kept s.mem) : Keeps (execHostAccess s) := by
  have hp : Memory.Kept ((((List.range 8).map (s.cur.args.addr + ·)).zip (bytesOfNat 8 s.cur.args.word.toNat)).foldl
      (fun s e => s.physicalPoke e.1 e.2) s).mem := foldl_kept _ (fun s e h => by simp [h]) _ _ h
  have hr (ps : List Place) : Keeps (s.hostRead ps) := State.hostRead_keeps s ps h
  have hu : Keeps (.next (s.tell .unsupportedRequest)) := (keeps_next _).2 h
  unfold execHostAccess; extract_lets a; split
  · simp [h]
  · split
    · split
      · exact hu
      · split
        · exact (keeps_next _).2 hp
        · exact hr _
    · split
      · split
        · exact (keeps_next _).2 (State.cmdStore_kept _ _ _ h)
        · simp
        · exact hu
      · split
        · exact hr _
        · simp
        · exact hu

end Sys2Proof.Machine
end

