-- ==== Sys2Proof/Laws/KeptRecovery.lean ====
section
/-! SUPPORT. Handlers, firmware's services, the block checker and rollback keep the canonical form of memory. -/

namespace Sys2Proof.Machine

theorem execHandlerStart_keeps (s : State) (h : Memory.Kept s.mem) : Keeps (execHandlerStart s) := by
  unfold execHandlerStart; split
  · simp [h]
  · split
    · simp [h]
    · extract_lets k; split <;> simp [h]
@[simp] theorem State.resumeStretcher_mem (s : State) (core leader : Nat) (st : Stop) (skip : Bool) :
    (s.resumeStretcher core leader st skip).mem = s.mem := by
  unfold State.resumeStretcher; dsimp only; by_cases c : ((s.core leader).stream.any fun i => decide (i.clk > st.at_)) = true
  · rw [if_pos c]; split <;> simp
  · rw [if_neg c]; simp
@[simp] theorem State.resumeContext_mem (s : State) (core ctx : Nat) (st : Stop) (skip : Bool) :
    (s.resumeContext core ctx st skip).mem = s.mem := by
  unfold State.resumeContext; extract_lets s1 s2
  have h1 : s1.mem = s.mem := by simp only [s1]; split <;> simp
  clear_value s1
  split
  · split
    · have h2 : s2.mem = s.mem := by simp only [s2]; simp [h1]
      clear_value s2
      split <;> simp [h2]
    · simp [h1]
  · simp [h1]
theorem execTretActionArrival_keeps (s : State) (h : Memory.Kept s.mem) : Keeps (execTretActionArrival s) := by
  unfold execTretActionArrival; extract_lets core ctx; split
  · simp [h]
  · extract_lets s1
    have h1 : Memory.Kept s1.mem := h
    clear_value s1
    split <;> simp [h1]
theorem mapPage_kept {cap ia target : Nat} {leaf : Word} (n : Nat) {lv t : Nat} {m m' : Memory} {pool pool' : List (Nat × Word)}
    (h : Memory.Kept m) (e : mapPage cap ia target leaf n lv t m pool = some (m', pool')) : Memory.Kept m' := by
  induction n generalizing lv t m pool with
  | zero => simp [mapPage] at e
  | succ n ih =>
    unfold mapPage at e
    split at e
    · cases e
    · extract_lets a w slots at e
      clear_value a w
      split at e
      · split at e
        · cases e
        · cases e
          have : ∀ (l : List Nat) (m : Memory), Memory.Kept m →
              Memory.Kept (l.foldl (fun m b => m.writeBytes b (wordBytes leaf)) m) := by
            intro l
            induction l with
            | nil => exact fun _ h => h
            | cons b l ih => exact fun m h => ih _ (Memory.kept_writeBytes m b _ h)
          exact this _ _ h
      · split at e
        · split at e
          · cases e
          · exact ih h e
        · split at e
          · cases e
          · extract_lets f m1 at e
            exact ih (Memory.kept_writeBytes _ _ _ (Memory.kept_clear m _ _ h)) e
@[simp] theorem State.pageGet_kept (s : State) (part : Nat) (ia lg : Word) (h : Memory.Kept s.mem) :
    Memory.Kept (s.pageGet part ia lg).2.mem := by
  unfold State.pageGet; extract_lets p; split
  · exact h
  · split
    · exact h
    · split
      · exact h
      · split
        · exact h
        · rename_i e; exact mapPage_kept _ h e
@[simp] theorem State.pagePut_kept (s : State) (part : Nat) (ia lg : Word) (h : Memory.Kept s.mem) :
    Memory.Kept (s.pagePut part ia lg).2.mem := by
  unfold State.pagePut; split
  · exact h
  · split
    · split
      · exact h
      · extract_lets s1 s2
        have h1 : Memory.Kept s1.mem := State.performRange_kept _ _ _ _ h
        have h2 : Memory.Kept s2.mem := by
          simp only [s2]; rw [State.dropLeaves_mem]; exact State.rewriteLeaf_kept _ _ _ _ h1
        exact h2
    · exact h
theorem State.serve_kept {s t : State} {part : Nat} {r : SyscRequest} {w : Word} (h : Memory.Kept s.mem)
    (e : s.serve part r = some (w, t)) : Memory.Kept t.mem := by
  unfold State.serve at e; split at e
  · cases e; exact h
  · have k := State.pageGet_kept s part r.s2 r.s3 h
    generalize s.pageGet part r.s2 r.s3 = x at e k
    cases e; exact k
  · split at e
    · cases e
    · have k := State.pagePut_kept s part r.s2 r.s3 h
      generalize s.pagePut part r.s2 r.s3 = x at e k
      cases e; exact k
  · cases e; exact h
@[simp] theorem State.beginPut_mem (s : State) (part : Nat) (mine : SyscRequest → Bool) (r : SyscRequest) :
    (s.beginPut part mine r).mem = s.mem := by unfold State.beginPut; split <;> rfl
theorem execSyscReply_keeps (s : State) (h : Memory.Kept s.mem) : Keeps (execSyscReply s) := by
  unfold execSyscReply; extract_lets a mine; split
  · split
    · simp [h]
    · extract_lets s1
      have h1 : Memory.Kept s1.mem := by simp [s1, h]
      split
      · simp [h1]
      · rename_i e
        have k := State.serve_kept h1 e
        split
        · exact (keeps_next _).2 k
        · rw [keeps_next, State.answer_mem]; exact k
  · simp [h]
theorem execSignatureCheck_keeps (s : State) (h : Memory.Kept s.mem) : Keeps (execSignatureCheck s) := by
  unfold execSignatureCheck; extract_lets core c; split
  · simp [h]
  · extract_lets s1
    have h1 : Memory.Kept s1.mem := h
    clear_value s1
    split <;> simp [h1]
theorem undoImages_kept (core n : Nat) (s : State) (h : Memory.Kept s.mem) : Memory.Kept (undoImages core n s).mem := by
  induction n generalizing s with
  | zero => exact h
  | succ n ih => exact ih _ (State.pokes_kept _ s _ h)
@[simp] theorem State.rollCore_kept (s : State) (core : Nat) (h : Memory.Kept s.mem) :
    Memory.Kept (s.rollCore core).mem := by
  unfold State.rollCore; extract_lets w s1 s2 x at_ s3
  have h1 : Memory.Kept s1.mem := undoImages_kept _ _ _ h
  clear_value s1
  have h2 : Memory.Kept s2.mem := Memory.kept_writeBytes _ _ _ h1
  clear_value s2
  have h3 : Memory.Kept s3.mem := h2
  clear_value s3
  simp [h3]
theorem execRollback_keeps (s : State) (h : Memory.Kept s.mem) : Keeps (execRollback s) := by
  unfold execRollback; split
  · simp [h]
  · rename_i g _
    split
    · simp [h]
    · split
      · simp [h]
      · have k : Memory.Kept (g.cores.foldl State.rollCore s).mem :=
          foldl_kept _ (fun s c h => State.rollCore_kept s c h) _ s h
        generalize g.cores.foldl State.rollCore s = t at k ⊢
        exact (keeps_next _).2 k
theorem execFetchFault_keeps (s : State) (h : Memory.Kept s.mem) : Keeps (execFetchFault s) := by
  unfold execFetchFault; extract_lets core ctx t
  have ht : Memory.Kept t.mem := h
  clear_value t
  split
  · simp [h]
  · split
    · simp [ht]
    · simp
    · simp [h]

end Sys2Proof.Machine
end

