-- ==== Sys2Proof/Laws/KeptTurns.lean ====
section
/-! SUPPORT. The clock and the turns leave memory alone. -/

namespace Sys2Proof.Machine

theorem State.takeTurn_mem (s : State) : s.takeTurn.2.mem = s.mem := by unfold State.takeTurn; split <;> rfl

@[simp] theorem State.withArgs_mem (s : State) (args : EventArgs) :
    (s.withArgs args).mem = s.mem := (rfl)
@[simp] theorem State.tick_mem (s : State) :
    (s.tick).mem = s.mem := (rfl)

end Sys2Proof.Machine
end

