-- ==== Sys2Proof/Laws/PerInstr.lean ====
section
/-! SUPPORT. The family Opcode of LAWS.json: what holds of the word of every instruction, one lemma per constructor. -/

namespace Sys2Proof.Laws.Opcode

/-- How many cells a row of the opcode map of R70 fills, its row index OPC[9:4]; row 0 is apart, as its column 0 is
ILLEGAL. -/
def filled : Nat → Nat
  | 0x01 | 0x02 | 0x03 | 0x08 | 0x09 | 0x0A | 0x10 | 0x16 | 0x1C | 0x1D => 16
  | 0x04 => 13
  | 0x0B => 9
  | 0x11 => 14
  | 0x17 => 4
  | 0x1E => 12
  | _ => 0

/-- The cell of an opcode in the map of R70 holds an instruction. -/
def cell (opc : BitVec 10) : Bool := opc == 1 || opc.toNat % 16 < filled (opc.toNat / 16)

/-- R70: the word of an instruction has an opcode whose cell of the map holds an instruction. -/
def Statement (i : Instr) : Prop := ∀ w : IWord, encode i = some w → cell (wOpc w) = true

/-- An event row has no word. -/
theorem of_none {i : Instr} (h : encode i = none) : Statement i := by
  intro w hw; rw [h] at hw; cases hw
/-- A format Q instruction whose opcode has a filled cell. -/
theorem of_FQ {i : Instr} {f : FQ} {opc : BitVec 10} (h : encode i = some (f.word opc)) (hc : cell opc = true) :
    Statement i := by
  intro w hw; rw [h] at hw; cases hw; rw [FQ.wOpc_word]; exact hc
/-- A format V instruction whose opcode has a filled cell. -/
theorem of_FV {i : Instr} {f : FV} {opc : BitVec 10} (h : encode i = some (f.word opc)) (hc : cell opc = true) :
    Statement i := by
  intro w hw; rw [h] at hw; cases hw; rw [FV.wOpc_word]; exact hc
/-- A format I instruction whose opcode has a filled cell. -/
theorem of_FI {i : Instr} {f : FI} {opc : BitVec 10} (h : encode i = some (f.word opc)) (hc : cell opc = true) :
    Statement i := by
  intro w hw; rw [h] at hw; cases hw; rw [FI.wOpc_word]; exact hc
/-- A format T instruction whose opcode has a filled cell. -/
theorem of_FT {i : Instr} {f : FT} {opc : BitVec 10} (h : encode i = some (f.word opc)) (hc : cell opc = true) :
    Statement i := by
  intro w hw; rw [h] at hw; cases hw; rw [FT.wOpc_word]; exact hc
/-- A format E instruction whose opcode has a filled cell. -/
theorem of_FE {i : Instr} {f : FE} {opc : BitVec 10} (h : encode i = some (f.word opc)) (hc : cell opc = true) :
    Statement i := by
  intro w hw; rw [h] at hw; cases hw; rw [FE.wOpc_word]; exact hc
/-- A format M instruction whose opcode has a filled cell. -/
theorem of_FM {i : Instr} {f : FM} {opc : BitVec 10} (h : encode i = some (f.word opc)) (hc : cell opc = true) :
    Statement i := by
  intro w hw; rw [h] at hw; cases hw; rw [FM.wOpc_word]; exact hc
/-- A format B instruction whose opcode has a filled cell. -/
theorem of_FB {i : Instr} {f : FB} {opc : BitVec 10} (h : encode i = some (f.word opc)) (hc : cell opc = true) :
    Statement i := by
  intro w hw; rw [h] at hw; cases hw; rw [FB.wOpc_word]; exact hc

end Sys2Proof.Laws.Opcode

open Sys2Proof

theorem Sys2Proof.Laws.Opcode.nop (f : FQ) : Statement (.nop f) := of_FQ (encode_nop f) rfl
theorem Sys2Proof.Laws.Opcode.add (f : FQ) : Statement (.add f) := of_FQ (encode_add f) rfl
theorem Sys2Proof.Laws.Opcode.sub (f : FQ) : Statement (.sub f) := of_FQ (encode_sub f) rfl
theorem Sys2Proof.Laws.Opcode.addi (f : FI) : Statement (.addi f) := of_FI (encode_addi f) rfl
theorem Sys2Proof.Laws.Opcode.mul (f : FQ) : Statement (.mul f) := of_FQ (encode_mul f) rfl
theorem Sys2Proof.Laws.Opcode.mulh (f : FQ) : Statement (.mulh f) := of_FQ (encode_mulh f) rfl
theorem Sys2Proof.Laws.Opcode.mulhu (f : FQ) : Statement (.mulhu f) := of_FQ (encode_mulhu f) rfl
theorem Sys2Proof.Laws.Opcode.div (f : FQ) : Statement (.div f) := of_FQ (encode_div f) rfl
theorem Sys2Proof.Laws.Opcode.divu (f : FQ) : Statement (.divu f) := of_FQ (encode_divu f) rfl
theorem Sys2Proof.Laws.Opcode.rem (f : FQ) : Statement (.rem f) := of_FQ (encode_rem f) rfl
theorem Sys2Proof.Laws.Opcode.remu (f : FQ) : Statement (.remu f) := of_FQ (encode_remu f) rfl
theorem Sys2Proof.Laws.Opcode.and (f : FQ) : Statement (.and f) := of_FQ (encode_and f) rfl
theorem Sys2Proof.Laws.Opcode.or (f : FQ) : Statement (.or f) := of_FQ (encode_or f) rfl
theorem Sys2Proof.Laws.Opcode.xor (f : FQ) : Statement (.xor f) := of_FQ (encode_xor f) rfl
theorem Sys2Proof.Laws.Opcode.andn (f : FQ) : Statement (.andn f) := of_FQ (encode_andn f) rfl
theorem Sys2Proof.Laws.Opcode.andi (f : FI) : Statement (.andi f) := of_FI (encode_andi f) rfl
theorem Sys2Proof.Laws.Opcode.ori (f : FI) : Statement (.ori f) := of_FI (encode_ori f) rfl
theorem Sys2Proof.Laws.Opcode.xori (f : FI) : Statement (.xori f) := of_FI (encode_xori f) rfl
theorem Sys2Proof.Laws.Opcode.shl (f : FQ) : Statement (.shl f) := of_FQ (encode_shl f) rfl
theorem Sys2Proof.Laws.Opcode.shr (f : FQ) : Statement (.shr f) := of_FQ (encode_shr f) rfl
theorem Sys2Proof.Laws.Opcode.sra (f : FQ) : Statement (.sra f) := of_FQ (encode_sra f) rfl
theorem Sys2Proof.Laws.Opcode.shli (f : FI) : Statement (.shli f) := of_FI (encode_shli f) rfl
theorem Sys2Proof.Laws.Opcode.shri (f : FI) : Statement (.shri f) := of_FI (encode_shri f) rfl
theorem Sys2Proof.Laws.Opcode.srai (f : FI) : Statement (.srai f) := of_FI (encode_srai f) rfl
theorem Sys2Proof.Laws.Opcode.rol (f : FQ) : Statement (.rol f) := of_FQ (encode_rol f) rfl
theorem Sys2Proof.Laws.Opcode.roli (f : FI) : Statement (.roli f) := of_FI (encode_roli f) rfl
theorem Sys2Proof.Laws.Opcode.clz (f : FQ) : Statement (.clz f) := of_FQ (encode_clz f) rfl
theorem Sys2Proof.Laws.Opcode.ctz (f : FQ) : Statement (.ctz f) := of_FQ (encode_ctz f) rfl
theorem Sys2Proof.Laws.Opcode.popc (f : FQ) : Statement (.popc f) := of_FQ (encode_popc f) rfl
theorem Sys2Proof.Laws.Opcode.min (f : FQ) : Statement (.min f) := of_FQ (encode_min f) rfl
theorem Sys2Proof.Laws.Opcode.max (f : FQ) : Statement (.max f) := of_FQ (encode_max f) rfl
theorem Sys2Proof.Laws.Opcode.minu (f : FQ) : Statement (.minu f) := of_FQ (encode_minu f) rfl
theorem Sys2Proof.Laws.Opcode.maxu (f : FQ) : Statement (.maxu f) := of_FQ (encode_maxu f) rfl
theorem Sys2Proof.Laws.Opcode.sext (f : FI) : Statement (.sext f) := of_FI (encode_sext f) rfl
theorem Sys2Proof.Laws.Opcode.zext (f : FI) : Statement (.zext f) := of_FI (encode_zext f) rfl
theorem Sys2Proof.Laws.Opcode.bfx (f : FI) : Statement (.bfx f) := of_FI (encode_bfx f) rfl
theorem Sys2Proof.Laws.Opcode.bfxSx (f : FI) : Statement (.bfxSx f) := of_FI (encode_bfxSx f) rfl
theorem Sys2Proof.Laws.Opcode.bfi (f : FI) : Statement (.bfi f) := of_FI (encode_bfi f) rfl
theorem Sys2Proof.Laws.Opcode.sel (f : FQ) : Statement (.sel f) := of_FQ (encode_sel f) rfl
theorem Sys2Proof.Laws.Opcode.cmp (f : FQ) : Statement (.cmp f) := of_FQ (encode_cmp f) rfl
theorem Sys2Proof.Laws.Opcode.cmpi (f : FI) : Statement (.cmpi f) := of_FI (encode_cmpi f) rfl
theorem Sys2Proof.Laws.Opcode.li (f : FI) : Statement (.li f) := of_FI (encode_li f) rfl
theorem Sys2Proof.Laws.Opcode.lih (f : FI) : Statement (.lih f) := of_FI (encode_lih f) rfl
theorem Sys2Proof.Laws.Opcode.mov (f : FQ) : Statement (.mov f) := of_FQ (encode_mov f) rfl
theorem Sys2Proof.Laws.Opcode.aadd (f : FQ) : Statement (.aadd f) := of_FQ (encode_aadd f) rfl
theorem Sys2Proof.Laws.Opcode.aaddi (f : FI) : Statement (.aaddi f) := of_FI (encode_aaddi f) rfl
theorem Sys2Proof.Laws.Opcode.mfc (f : FI) : Statement (.mfc f) := of_FI (encode_mfc f) rfl
theorem Sys2Proof.Laws.Opcode.mtc (f : FI) : Statement (.mtc f) := of_FI (encode_mtc f) rfl
theorem Sys2Proof.Laws.Opcode.pand (f : FQ) : Statement (.pand f) := of_FQ (encode_pand f) rfl
theorem Sys2Proof.Laws.Opcode.por (f : FQ) : Statement (.por f) := of_FQ (encode_por f) rfl
theorem Sys2Proof.Laws.Opcode.pxor (f : FQ) : Statement (.pxor f) := of_FQ (encode_pxor f) rfl
theorem Sys2Proof.Laws.Opcode.pnot (f : FQ) : Statement (.pnot f) := of_FQ (encode_pnot f) rfl
theorem Sys2Proof.Laws.Opcode.br (f : FB) : Statement (.br f) := of_FB (encode_br f) rfl
theorem Sys2Proof.Laws.Opcode.j (f : FB) : Statement (.j f) := of_FB (encode_j f) rfl
theorem Sys2Proof.Laws.Opcode.jr (f : FQ) : Statement (.jr f) := of_FQ (encode_jr f) rfl
theorem Sys2Proof.Laws.Opcode.loop (f : FB) : Statement (.loop f) := of_FB (encode_loop f) rfl
theorem Sys2Proof.Laws.Opcode.trap (f : FI) : Statement (.trap f) := of_FI (encode_trap f) rfl
theorem Sys2Proof.Laws.Opcode.chk (f : FI) : Statement (.chk f) := of_FI (encode_chk f) rfl
theorem Sys2Proof.Laws.Opcode.sysc (f : FI) : Statement (.sysc f) := of_FI (encode_sysc f) rfl
theorem Sys2Proof.Laws.Opcode.tret (f : FI) : Statement (.tret f) := of_FI (encode_tret f) rfl
theorem Sys2Proof.Laws.Opcode.halt (f : FI) : Statement (.halt f) := of_FI (encode_halt f) rfl
theorem Sys2Proof.Laws.Opcode.fenceI (f : FI) : Statement (.fenceI f) := of_FI (encode_fenceI f) rfl
theorem Sys2Proof.Laws.Opcode.yield (f : FI) : Statement (.yield f) := of_FI (encode_yield f) rfl
theorem Sys2Proof.Laws.Opcode.vadd (f : FV) : Statement (.vadd f) := of_FV (encode_vadd f) rfl
theorem Sys2Proof.Laws.Opcode.vsub (f : FV) : Statement (.vsub f) := of_FV (encode_vsub f) rfl
theorem Sys2Proof.Laws.Opcode.vmul (f : FV) : Statement (.vmul f) := of_FV (encode_vmul f) rfl
theorem Sys2Proof.Laws.Opcode.vfma (f : FV) : Statement (.vfma f) := of_FV (encode_vfma f) rfl
theorem Sys2Proof.Laws.Opcode.vfms (f : FV) : Statement (.vfms f) := of_FV (encode_vfms f) rfl
theorem Sys2Proof.Laws.Opcode.vdiv (f : FV) : Statement (.vdiv f) := of_FV (encode_vdiv f) rfl
theorem Sys2Proof.Laws.Opcode.vsqrt (f : FV) : Statement (.vsqrt f) := of_FV (encode_vsqrt f) rfl
theorem Sys2Proof.Laws.Opcode.vrcpe (f : FV) : Statement (.vrcpe f) := of_FV (encode_vrcpe f) rfl
theorem Sys2Proof.Laws.Opcode.vrsqe (f : FV) : Statement (.vrsqe f) := of_FV (encode_vrsqe f) rfl
theorem Sys2Proof.Laws.Opcode.vexp2 (f : FV) : Statement (.vexp2 f) := of_FV (encode_vexp2 f) rfl
theorem Sys2Proof.Laws.Opcode.vlog2 (f : FV) : Statement (.vlog2 f) := of_FV (encode_vlog2 f) rfl
theorem Sys2Proof.Laws.Opcode.vmin (f : FV) : Statement (.vmin f) := of_FV (encode_vmin f) rfl
theorem Sys2Proof.Laws.Opcode.vmax (f : FV) : Statement (.vmax f) := of_FV (encode_vmax f) rfl
theorem Sys2Proof.Laws.Opcode.vabs (f : FV) : Statement (.vabs f) := of_FV (encode_vabs f) rfl
theorem Sys2Proof.Laws.Opcode.vneg (f : FV) : Statement (.vneg f) := of_FV (encode_vneg f) rfl
theorem Sys2Proof.Laws.Opcode.vcmp (f : FV) : Statement (.vcmp f) := of_FV (encode_vcmp f) rfl
theorem Sys2Proof.Laws.Opcode.vsel (f : FV) : Statement (.vsel f) := of_FV (encode_vsel f) rfl
theorem Sys2Proof.Laws.Opcode.vcvt (f : FV) : Statement (.vcvt f) := of_FV (encode_vcvt f) rfl
theorem Sys2Proof.Laws.Opcode.viadd (f : FV) : Statement (.viadd f) := of_FV (encode_viadd f) rfl
theorem Sys2Proof.Laws.Opcode.visub (f : FV) : Statement (.visub f) := of_FV (encode_visub f) rfl
theorem Sys2Proof.Laws.Opcode.vimul (f : FV) : Statement (.vimul f) := of_FV (encode_vimul f) rfl
theorem Sys2Proof.Laws.Opcode.vimad (f : FV) : Statement (.vimad f) := of_FV (encode_vimad f) rfl
theorem Sys2Proof.Laws.Opcode.vimin (f : FV) : Statement (.vimin f) := of_FV (encode_vimin f) rfl
theorem Sys2Proof.Laws.Opcode.vimax (f : FV) : Statement (.vimax f) := of_FV (encode_vimax f) rfl
theorem Sys2Proof.Laws.Opcode.vand (f : FV) : Statement (.vand f) := of_FV (encode_vand f) rfl
theorem Sys2Proof.Laws.Opcode.vor (f : FV) : Statement (.vor f) := of_FV (encode_vor f) rfl
theorem Sys2Proof.Laws.Opcode.vxor (f : FV) : Statement (.vxor f) := of_FV (encode_vxor f) rfl
theorem Sys2Proof.Laws.Opcode.vshl (f : FV) : Statement (.vshl f) := of_FV (encode_vshl f) rfl
theorem Sys2Proof.Laws.Opcode.vshr (f : FV) : Statement (.vshr f) := of_FV (encode_vshr f) rfl
theorem Sys2Proof.Laws.Opcode.vsra (f : FV) : Statement (.vsra f) := of_FV (encode_vsra f) rfl
theorem Sys2Proof.Laws.Opcode.vclass (f : FV) : Statement (.vclass f) := of_FV (encode_vclass f) rfl
theorem Sys2Proof.Laws.Opcode.vmovv (f : FV) : Statement (.vmovv f) := of_FV (encode_vmovv f) rfl
theorem Sys2Proof.Laws.Opcode.vrsum (f : FV) : Statement (.vrsum f) := of_FV (encode_vrsum f) rfl
theorem Sys2Proof.Laws.Opcode.vrmax (f : FV) : Statement (.vrmax f) := of_FV (encode_vrmax f) rfl
theorem Sys2Proof.Laws.Opcode.vrmin (f : FV) : Statement (.vrmin f) := of_FV (encode_vrmin f) rfl
theorem Sys2Proof.Laws.Opcode.vscan (f : FV) : Statement (.vscan f) := of_FV (encode_vscan f) rfl
theorem Sys2Proof.Laws.Opcode.vbcast (f : FV) : Statement (.vbcast f) := of_FV (encode_vbcast f) rfl
theorem Sys2Proof.Laws.Opcode.vperm (f : FV) : Statement (.vperm f) := of_FV (encode_vperm f) rfl
theorem Sys2Proof.Laws.Opcode.vslide (f : FV) : Statement (.vslide f) := of_FV (encode_vslide f) rfl
theorem Sys2Proof.Laws.Opcode.vcomp (f : FV) : Statement (.vcomp f) := of_FV (encode_vcomp f) rfl
theorem Sys2Proof.Laws.Opcode.vexpd (f : FV) : Statement (.vexpd f) := of_FV (encode_vexpd f) rfl
theorem Sys2Proof.Laws.Opcode.viota (f : FV) : Statement (.viota f) := of_FV (encode_viota f) rfl
theorem Sys2Proof.Laws.Opcode.vgetl (f : FV) : Statement (.vgetl f) := of_FV (encode_vgetl f) rfl
theorem Sys2Proof.Laws.Opcode.vsetl (f : FV) : Statement (.vsetl f) := of_FV (encode_vsetl f) rfl
theorem Sys2Proof.Laws.Opcode.kpopc (f : FV) : Statement (.kpopc f) := of_FV (encode_kpopc f) rfl
theorem Sys2Proof.Laws.Opcode.kfirst (f : FV) : Statement (.kfirst f) := of_FV (encode_kfirst f) rfl
theorem Sys2Proof.Laws.Opcode.kand (f : FV) : Statement (.kand f) := of_FV (encode_kand f) rfl
theorem Sys2Proof.Laws.Opcode.kor (f : FV) : Statement (.kor f) := of_FV (encode_kor f) rfl
theorem Sys2Proof.Laws.Opcode.kxor (f : FV) : Statement (.kxor f) := of_FV (encode_kxor f) rfl
theorem Sys2Proof.Laws.Opcode.knot (f : FV) : Statement (.knot f) := of_FV (encode_knot f) rfl
theorem Sys2Proof.Laws.Opcode.kmov (f : FV) : Statement (.kmov f) := of_FV (encode_kmov f) rfl
theorem Sys2Proof.Laws.Opcode.vnsend (f : FV) : Statement (.vnsend f) := of_FV (encode_vnsend f) rfl
theorem Sys2Proof.Laws.Opcode.vnrecv (f : FV) : Statement (.vnrecv f) := of_FV (encode_vnrecv f) rfl
theorem Sys2Proof.Laws.Opcode.vlmul (f : FV) : Statement (.vlmul f) := of_FV (encode_vlmul f) rfl
theorem Sys2Proof.Laws.Opcode.vlsum (f : FV) : Statement (.vlsum f) := of_FV (encode_vlsum f) rfl
theorem Sys2Proof.Laws.Opcode.vlpack (f : FV) : Statement (.vlpack f) := of_FV (encode_vlpack f) rfl
theorem Sys2Proof.Laws.Opcode.vlunpk (f : FV) : Statement (.vlunpk f) := of_FV (encode_vlunpk f) rfl
theorem Sys2Proof.Laws.Opcode.ld (f : FM) : Statement (.ld f) := of_FM (encode_ld f) rfl
theorem Sys2Proof.Laws.Opcode.st (f : FM) : Statement (.st f) := of_FM (encode_st f) rfl
theorem Sys2Proof.Laws.Opcode.ldv (f : FM) : Statement (.ldv f) := of_FM (encode_ldv f) rfl
theorem Sys2Proof.Laws.Opcode.stv (f : FM) : Statement (.stv f) := of_FM (encode_stv f) rfl
theorem Sys2Proof.Laws.Opcode.ldvs (f : FM) : Statement (.ldvs f) := of_FM (encode_ldvs f) rfl
theorem Sys2Proof.Laws.Opcode.stvs (f : FM) : Statement (.stvs f) := of_FM (encode_stvs f) rfl
theorem Sys2Proof.Laws.Opcode.ldvx (f : FM) : Statement (.ldvx f) := of_FM (encode_ldvx f) rfl
theorem Sys2Proof.Laws.Opcode.stvx (f : FM) : Statement (.stvx f) := of_FM (encode_stvx f) rfl
theorem Sys2Proof.Laws.Opcode.ldk (f : FM) : Statement (.ldk f) := of_FM (encode_ldk f) rfl
theorem Sys2Proof.Laws.Opcode.stk (f : FM) : Statement (.stk f) := of_FM (encode_stk f) rfl
theorem Sys2Proof.Laws.Opcode.lda (f : FM) : Statement (.lda f) := of_FM (encode_lda f) rfl
theorem Sys2Proof.Laws.Opcode.strl (f : FM) : Statement (.strl f) := of_FM (encode_strl f) rfl
theorem Sys2Proof.Laws.Opcode.pref (f : FM) : Statement (.pref f) := of_FM (encode_pref f) rfl
theorem Sys2Proof.Laws.Opcode.amoadd (f : FM) : Statement (.amoadd f) := of_FM (encode_amoadd f) rfl
theorem Sys2Proof.Laws.Opcode.amomin (f : FM) : Statement (.amomin f) := of_FM (encode_amomin f) rfl
theorem Sys2Proof.Laws.Opcode.amomax (f : FM) : Statement (.amomax f) := of_FM (encode_amomax f) rfl
theorem Sys2Proof.Laws.Opcode.amominu (f : FM) : Statement (.amominu f) := of_FM (encode_amominu f) rfl
theorem Sys2Proof.Laws.Opcode.amomaxu (f : FM) : Statement (.amomaxu f) := of_FM (encode_amomaxu f) rfl
theorem Sys2Proof.Laws.Opcode.amoand (f : FM) : Statement (.amoand f) := of_FM (encode_amoand f) rfl
theorem Sys2Proof.Laws.Opcode.amoor (f : FM) : Statement (.amoor f) := of_FM (encode_amoor f) rfl
theorem Sys2Proof.Laws.Opcode.amoxor (f : FM) : Statement (.amoxor f) := of_FM (encode_amoxor f) rfl
theorem Sys2Proof.Laws.Opcode.amoswp (f : FM) : Statement (.amoswp f) := of_FM (encode_amoswp f) rfl
theorem Sys2Proof.Laws.Opcode.amocas (f : FM) : Statement (.amocas f) := of_FM (encode_amocas f) rfl
theorem Sys2Proof.Laws.Opcode.amofadd (f : FM) : Statement (.amofadd f) := of_FM (encode_amofadd f) rfl
theorem Sys2Proof.Laws.Opcode.fence (f : FI) : Statement (.fence f) := of_FI (encode_fence f) rfl
theorem Sys2Proof.Laws.Opcode.fenceSs (f : FI) : Statement (.fenceSs f) := of_FI (encode_fenceSs f) rfl
theorem Sys2Proof.Laws.Opcode.fenceLl (f : FI) : Statement (.fenceLl f) := of_FI (encode_fenceLl f) rfl
theorem Sys2Proof.Laws.Opcode.fenceS (f : FI) : Statement (.fenceS f) := of_FI (encode_fenceS f) rfl
theorem Sys2Proof.Laws.Opcode.cmoClean (f : FM) : Statement (.cmoClean f) := of_FM (encode_cmoClean f) rfl
theorem Sys2Proof.Laws.Opcode.cmoInval (f : FM) : Statement (.cmoInval f) := of_FM (encode_cmoInval f) rfl
theorem Sys2Proof.Laws.Opcode.cmoFlush (f : FM) : Statement (.cmoFlush f) := of_FM (encode_cmoFlush f) rfl
theorem Sys2Proof.Laws.Opcode.cmoZero (f : FM) : Statement (.cmoZero f) := of_FM (encode_cmoZero f) rfl
theorem Sys2Proof.Laws.Opcode.waitm (f : FM) : Statement (.waitm f) := of_FM (encode_waitm f) rfl
theorem Sys2Proof.Laws.Opcode.waitmCmp (f : FM) : Statement (.waitmCmp f) := of_FM (encode_waitmCmp f) rfl
theorem Sys2Proof.Laws.Opcode.ldsec (f : FM) : Statement (.ldsec f) := of_FM (encode_ldsec f) rfl
theorem Sys2Proof.Laws.Opcode.stsec (f : FM) : Statement (.stsec f) := of_FM (encode_stsec f) rfl
theorem Sys2Proof.Laws.Opcode.tset (f : FI) : Statement (.tset f) := of_FI (encode_tset f) rfl
theorem Sys2Proof.Laws.Opcode.tget (f : FI) : Statement (.tget f) := of_FI (encode_tget f) rfl
theorem Sys2Proof.Laws.Opcode.tld (f : FM) : Statement (.tld f) := of_FM (encode_tld f) rfl
theorem Sys2Proof.Laws.Opcode.tst (f : FM) : Statement (.tst f) := of_FM (encode_tst f) rfl
theorem Sys2Proof.Laws.Opcode.tzero (f : FT) : Statement (.tzero f) := of_FT (encode_tzero f) rfl
theorem Sys2Proof.Laws.Opcode.tmov (f : FT) : Statement (.tmov f) := of_FT (encode_tmov f) rfl
theorem Sys2Proof.Laws.Opcode.gissue (f : FE) : Statement (.gissue f) := of_FE (encode_gissue f) rfl
theorem Sys2Proof.Laws.Opcode.tmma (f : FT) : Statement (.tmma f) := of_FT (encode_tmma f) rfl
theorem Sys2Proof.Laws.Opcode.tmmal (f : FT) : Statement (.tmmal f) := of_FT (encode_tmmal f) rfl
theorem Sys2Proof.Laws.Opcode.tscale (f : FT) : Statement (.tscale f) := of_FT (encode_tscale f) rfl
theorem Sys2Proof.Laws.Opcode.tadd (f : FT) : Statement (.tadd f) := of_FT (encode_tadd f) rfl
theorem Sys2Proof.Laws.Opcode.tmul (f : FT) : Statement (.tmul f) := of_FT (encode_tmul f) rfl
theorem Sys2Proof.Laws.Opcode.tcvt (f : FT) : Statement (.tcvt f) := of_FT (encode_tcvt f) rfl
theorem Sys2Proof.Laws.Opcode.ttrans (f : FT) : Statement (.ttrans f) := of_FT (encode_ttrans f) rfl
theorem Sys2Proof.Laws.Opcode.trsum (f : FT) : Statement (.trsum f) := of_FT (encode_trsum f) rfl
theorem Sys2Proof.Laws.Opcode.trmax (f : FT) : Statement (.trmax f) := of_FT (encode_trmax f) rfl
theorem Sys2Proof.Laws.Opcode.tv2t (f : FT) : Statement (.tv2t f) := of_FT (encode_tv2t f) rfl
theorem Sys2Proof.Laws.Opcode.tt2v (f : FT) : Statement (.tt2v f) := of_FT (encode_tt2v f) rfl
theorem Sys2Proof.Laws.Opcode.tbcst (f : FT) : Statement (.tbcst f) := of_FT (encode_tbcst f) rfl
theorem Sys2Proof.Laws.Opcode.tstat (f : FI) : Statement (.tstat f) := of_FI (encode_tstat f) rfl
theorem Sys2Proof.Laws.Opcode.hstart (f : FE) : Statement (.hstart f) := of_FE (encode_hstart f) rfl
theorem Sys2Proof.Laws.Opcode.hend (f : FE) : Statement (.hend f) := of_FE (encode_hend f) rfl
theorem Sys2Proof.Laws.Opcode.hjoin (f : FE) : Statement (.hjoin f) := of_FE (encode_hjoin f) rfl
theorem Sys2Proof.Laws.Opcode.hstat (f : FE) : Statement (.hstat f) := of_FE (encode_hstat f) rfl
theorem Sys2Proof.Laws.Opcode.gdetach (f : FE) : Statement (.gdetach f) := of_FE (encode_gdetach f) rfl
theorem Sys2Proof.Laws.Opcode.gdetachJoin (f : FE) : Statement (.gdetachJoin f) := of_FE (encode_gdetachJoin f) rfl
theorem Sys2Proof.Laws.Opcode.gattach (f : FE) : Statement (.gattach f) := of_FE (encode_gattach f) rfl
theorem Sys2Proof.Laws.Opcode.gmerge (f : FE) : Statement (.gmerge f) := of_FE (encode_gmerge f) rfl
theorem Sys2Proof.Laws.Opcode.barw (f : FE) : Statement (.barw f) := of_FE (encode_barw f) rfl
theorem Sys2Proof.Laws.Opcode.bara (f : FE) : Statement (.bara f) := of_FE (encode_bara f) rfl
theorem Sys2Proof.Laws.Opcode.barq (f : FE) : Statement (.barq f) := of_FE (encode_barq f) rfl
theorem Sys2Proof.Laws.Opcode.barqTest (f : FE) : Statement (.barqTest f) := of_FE (encode_barqTest f) rfl
theorem Sys2Proof.Laws.Opcode.xph (f : FE) : Statement (.xph f) := of_FE (encode_xph f) rfl
theorem Sys2Proof.Laws.Opcode.xsend (f : FE) : Statement (.xsend f) := of_FE (encode_xsend f) rfl
theorem Sys2Proof.Laws.Opcode.xmux (f : FE) : Statement (.xmux f) := of_FE (encode_xmux f) rfl
theorem Sys2Proof.Laws.Opcode.xend (f : FE) : Statement (.xend f) := of_FE (encode_xend f) rfl
theorem Sys2Proof.Laws.Opcode.cpy (f : FE) : Statement (.cpy f) := of_FE (encode_cpy f) rfl
theorem Sys2Proof.Laws.Opcode.cpyn (f : FE) : Statement (.cpyn f) := of_FE (encode_cpyn f) rfl
theorem Sys2Proof.Laws.Opcode.cpyc (f : FE) : Statement (.cpyc f) := of_FE (encode_cpyc f) rfl
theorem Sys2Proof.Laws.Opcode.cpyr (f : FE) : Statement (.cpyr f) := of_FE (encode_cpyr f) rfl
theorem Sys2Proof.Laws.Opcode.cpycmb (f : FE) : Statement (.cpycmb f) := of_FE (encode_cpycmb f) rfl
theorem Sys2Proof.Laws.Opcode.wmset (f : FE) : Statement (.wmset f) := of_FE (encode_wmset f) rfl
theorem Sys2Proof.Laws.Opcode.wmclr (f : FE) : Statement (.wmclr f) := of_FE (encode_wmclr f) rfl
theorem Sys2Proof.Laws.Opcode.wmrd (f : FE) : Statement (.wmrd f) := of_FE (encode_wmrd f) rfl
theorem Sys2Proof.Laws.Opcode.wmrdAddr (f : FE) : Statement (.wmrdAddr f) := of_FE (encode_wmrdAddr f) rfl
theorem Sys2Proof.Laws.Opcode.crwait (f : FE) : Statement (.crwait f) := of_FE (encode_crwait f) rfl
theorem Sys2Proof.Laws.Opcode.crpop (f : FE) : Statement (.crpop f) := of_FE (encode_crpop f) rfl
theorem Sys2Proof.Laws.Opcode.cbinit (f : FE) : Statement (.cbinit f) := of_FE (encode_cbinit f) rfl
theorem Sys2Proof.Laws.Opcode.cbacqRd (f : FE) : Statement (.cbacqRd f) := of_FE (encode_cbacqRd f) rfl
theorem Sys2Proof.Laws.Opcode.cbacqWr (f : FE) : Statement (.cbacqWr f) := of_FE (encode_cbacqWr f) rfl
theorem Sys2Proof.Laws.Opcode.cbrelRd (f : FE) : Statement (.cbrelRd f) := of_FE (encode_cbrelRd f) rfl
theorem Sys2Proof.Laws.Opcode.cbrelWr (f : FE) : Statement (.cbrelWr f) := of_FE (encode_cbrelWr f) rfl
theorem Sys2Proof.Laws.Opcode.gather (f : FE) : Statement (.gather f) := of_FE (encode_gather f) rfl
theorem Sys2Proof.Laws.Opcode.evset (f : FE) : Statement (.evset f) := of_FE (encode_evset f) rfl
theorem Sys2Proof.Laws.Opcode.evclr (f : FE) : Statement (.evclr f) := of_FE (encode_evclr f) rfl
theorem Sys2Proof.Laws.Opcode.evwaitAny (f : FE) : Statement (.evwaitAny f) := of_FE (encode_evwaitAny f) rfl
theorem Sys2Proof.Laws.Opcode.evwaitAll (f : FE) : Statement (.evwaitAll f) := of_FE (encode_evwaitAll f) rfl
theorem Sys2Proof.Laws.Opcode.mpost (f : FE) : Statement (.mpost f) := of_FE (encode_mpost f) rfl
theorem Sys2Proof.Laws.Opcode.mrecv (f : FE) : Statement (.mrecv f) := of_FE (encode_mrecv f) rfl
theorem Sys2Proof.Laws.Opcode.mrecvTest (f : FE) : Statement (.mrecvTest f) := of_FE (encode_mrecvTest f) rfl
theorem Sys2Proof.Laws.Opcode.waitt (f : FE) : Statement (.waitt f) := of_FE (encode_waitt f) rfl
theorem Sys2Proof.Laws.Opcode.waittAbs (f : FE) : Statement (.waittAbs f) := of_FE (encode_waittAbs f) rfl
theorem Sys2Proof.Laws.Opcode.tqput (f : FE) : Statement (.tqput f) := of_FE (encode_tqput f) rfl
theorem Sys2Proof.Laws.Opcode.hodq (f : FE) : Statement (.hodq f) := of_FE (encode_hodq f) rfl
theorem Sys2Proof.Laws.Opcode.hodr (f : FE) : Statement (.hodr f) := of_FE (encode_hodr f) rfl
theorem Sys2Proof.Laws.Opcode.hodrTest (f : FE) : Statement (.hodrTest f) := of_FE (encode_hodrTest f) rfl
theorem Sys2Proof.Laws.Opcode.cellDef (f : FE) : Statement (.cellDef f) := of_FE (encode_cellDef f) rfl
theorem Sys2Proof.Laws.Opcode.cellBind (f : FE) : Statement (.cellBind f) := of_FE (encode_cellBind f) rfl
theorem Sys2Proof.Laws.Opcode.cellPut (f : FE) : Statement (.cellPut f) := of_FE (encode_cellPut f) rfl
theorem Sys2Proof.Laws.Opcode.cellGet (f : FE) : Statement (.cellGet f) := of_FE (encode_cellGet f) rfl
theorem Sys2Proof.Laws.Opcode.cellCommit (f : FE) : Statement (.cellCommit f) := of_FE (encode_cellCommit f) rfl
theorem Sys2Proof.Laws.Opcode.cellState (f : FE) : Statement (.cellState f) := of_FE (encode_cellState f) rfl
theorem Sys2Proof.Laws.Opcode.cellStateFlip (f : FE) : Statement (.cellStateFlip f) := of_FE (encode_cellStateFlip f) rfl
theorem Sys2Proof.Laws.Opcode.cellStateAbort (f : FE) : Statement (.cellStateAbort f) := of_FE (encode_cellStateAbort f) rfl
theorem Sys2Proof.Laws.Opcode.cellDrop (f : FE) : Statement (.cellDrop f) := of_FE (encode_cellDrop f) rfl
theorem Sys2Proof.Laws.Opcode.registerWrite : Statement .registerWrite := of_none encode_registerWrite
theorem Sys2Proof.Laws.Opcode.queueDoorbell : Statement .queueDoorbell := of_none encode_queueDoorbell
theorem Sys2Proof.Laws.Opcode.queueEnable : Statement .queueEnable := of_none encode_queueEnable
theorem Sys2Proof.Laws.Opcode.dispatch : Statement .dispatch := of_none encode_dispatch
theorem Sys2Proof.Laws.Opcode.cmoRangeClean : Statement .cmoRangeClean := of_none encode_cmoRangeClean
theorem Sys2Proof.Laws.Opcode.cmoRangeInval : Statement .cmoRangeInval := of_none encode_cmoRangeInval
theorem Sys2Proof.Laws.Opcode.cmoRangeFlush : Statement .cmoRangeFlush := of_none encode_cmoRangeFlush
theorem Sys2Proof.Laws.Opcode.cmoRangeAttr : Statement .cmoRangeAttr := of_none encode_cmoRangeAttr
theorem Sys2Proof.Laws.Opcode.eventSet : Statement .eventSet := of_none encode_eventSet
theorem Sys2Proof.Laws.Opcode.eventWait : Statement .eventWait := of_none encode_eventWait
theorem Sys2Proof.Laws.Opcode.indirect : Statement .indirect := of_none encode_indirect
theorem Sys2Proof.Laws.Opcode.timestamp : Statement .timestamp := of_none encode_timestamp
theorem Sys2Proof.Laws.Opcode.cellWave : Statement .cellWave := of_none encode_cellWave
theorem Sys2Proof.Laws.Opcode.power : Statement .power := of_none encode_power
theorem Sys2Proof.Laws.Opcode.launchPlacement : Statement .launchPlacement := of_none encode_launchPlacement
theorem Sys2Proof.Laws.Opcode.startTimeReached : Statement .startTimeReached := of_none encode_startTimeReached
theorem Sys2Proof.Laws.Opcode.gangEnd : Statement .gangEnd := of_none encode_gangEnd
theorem Sys2Proof.Laws.Opcode.preemptionRequest : Statement .preemptionRequest := of_none encode_preemptionRequest
theorem Sys2Proof.Laws.Opcode.drainExpiry : Statement .drainExpiry := of_none encode_drainExpiry
theorem Sys2Proof.Laws.Opcode.saveComplete : Statement .saveComplete := of_none encode_saveComplete
theorem Sys2Proof.Laws.Opcode.gangRestore : Statement .gangRestore := of_none encode_gangRestore
theorem Sys2Proof.Laws.Opcode.longWaitSwap : Statement .longWaitSwap := of_none encode_longWaitSwap
theorem Sys2Proof.Laws.Opcode.resumeIntervalExpiry : Statement .resumeIntervalExpiry := of_none encode_resumeIntervalExpiry
theorem Sys2Proof.Laws.Opcode.swapWake : Statement .swapWake := of_none encode_swapWake
theorem Sys2Proof.Laws.Opcode.btoExpiry : Statement .btoExpiry := of_none encode_btoExpiry
theorem Sys2Proof.Laws.Opcode.barrierCompletion : Statement .barrierCompletion := of_none encode_barrierCompletion
theorem Sys2Proof.Laws.Opcode.joinCompletion : Statement .joinCompletion := of_none encode_joinCompletion
theorem Sys2Proof.Laws.Opcode.sequencerStep : Statement .sequencerStep := of_none encode_sequencerStep
theorem Sys2Proof.Laws.Opcode.streamConditionReport : Statement .streamConditionReport := of_none encode_streamConditionReport
theorem Sys2Proof.Laws.Opcode.memoryReply : Statement .memoryReply := of_none encode_memoryReply
theorem Sys2Proof.Laws.Opcode.channelArrival : Statement .channelArrival := of_none encode_channelArrival
theorem Sys2Proof.Laws.Opcode.xmuxCapture : Statement .xmuxCapture := of_none encode_xmuxCapture
theorem Sys2Proof.Laws.Opcode.xcollideSense : Statement .xcollideSense := of_none encode_xcollideSense
theorem Sys2Proof.Laws.Opcode.holdRaise : Statement .holdRaise := of_none encode_holdRaise
theorem Sys2Proof.Laws.Opcode.holdRelease : Statement .holdRelease := of_none encode_holdRelease
theorem Sys2Proof.Laws.Opcode.throttleChange : Statement .throttleChange := of_none encode_throttleChange
theorem Sys2Proof.Laws.Opcode.throttleLimitExpiry : Statement .throttleLimitExpiry := of_none encode_throttleLimitExpiry
theorem Sys2Proof.Laws.Opcode.copyLanding : Statement .copyLanding := of_none encode_copyLanding
theorem Sys2Proof.Laws.Opcode.copyComplete : Statement .copyComplete := of_none encode_copyComplete
theorem Sys2Proof.Laws.Opcode.copyFault : Statement .copyFault := of_none encode_copyFault
theorem Sys2Proof.Laws.Opcode.combinePacketArrival : Statement .combinePacketArrival := of_none encode_combinePacketArrival
theorem Sys2Proof.Laws.Opcode.combineEntryTimeout : Statement .combineEntryTimeout := of_none encode_combineEntryTimeout
theorem Sys2Proof.Laws.Opcode.gatherReply : Statement .gatherReply := of_none encode_gatherReply
theorem Sys2Proof.Laws.Opcode.taskDispatch : Statement .taskDispatch := of_none encode_taskDispatch
theorem Sys2Proof.Laws.Opcode.footprintComplete : Statement .footprintComplete := of_none encode_footprintComplete
theorem Sys2Proof.Laws.Opcode.pintoExpiry : Statement .pintoExpiry := of_none encode_pintoExpiry
theorem Sys2Proof.Laws.Opcode.pageGroupResponse : Statement .pageGroupResponse := of_none encode_pageGroupResponse
theorem Sys2Proof.Laws.Opcode.atsInvalidationRequest : Statement .atsInvalidationRequest := of_none encode_atsInvalidationRequest
theorem Sys2Proof.Laws.Opcode.translationCompletion : Statement .translationCompletion := of_none encode_translationCompletion
theorem Sys2Proof.Laws.Opcode.shootdownDrop : Statement .shootdownDrop := of_none encode_shootdownDrop
theorem Sys2Proof.Laws.Opcode.shootdownUnmap : Statement .shootdownUnmap := of_none encode_shootdownUnmap
theorem Sys2Proof.Laws.Opcode.shootdownMove : Statement .shootdownMove := of_none encode_shootdownMove
theorem Sys2Proof.Laws.Opcode.migrationTrigger : Statement .migrationTrigger := of_none encode_migrationTrigger
theorem Sys2Proof.Laws.Opcode.settledExpiry : Statement .settledExpiry := of_none encode_settledExpiry
theorem Sys2Proof.Laws.Opcode.helperReturnMessage : Statement .helperReturnMessage := of_none encode_helperReturnMessage
theorem Sys2Proof.Laws.Opcode.directoryRequest : Statement .directoryRequest := of_none encode_directoryRequest
theorem Sys2Proof.Laws.Opcode.directoryMerge : Statement .directoryMerge := of_none encode_directoryMerge
theorem Sys2Proof.Laws.Opcode.arrayWake : Statement .arrayWake := of_none encode_arrayWake
theorem Sys2Proof.Laws.Opcode.hostAccess : Statement .hostAccess := of_none encode_hostAccess
theorem Sys2Proof.Laws.Opcode.eventDelivery : Statement .eventDelivery := of_none encode_eventDelivery
theorem Sys2Proof.Laws.Opcode.messageDelivery : Statement .messageDelivery := of_none encode_messageDelivery
theorem Sys2Proof.Laws.Opcode.handlerStart : Statement .handlerStart := of_none encode_handlerStart
theorem Sys2Proof.Laws.Opcode.tretActionArrival : Statement .tretActionArrival := of_none encode_tretActionArrival
theorem Sys2Proof.Laws.Opcode.monitorWake : Statement .monitorWake := of_none encode_monitorWake
theorem Sys2Proof.Laws.Opcode.syscReply : Statement .syscReply := of_none encode_syscReply
theorem Sys2Proof.Laws.Opcode.waittExpiry : Statement .waittExpiry := of_none encode_waittExpiry
theorem Sys2Proof.Laws.Opcode.formulaTaskPlacement : Statement .formulaTaskPlacement := of_none encode_formulaTaskPlacement
theorem Sys2Proof.Laws.Opcode.formulaTaskEnd : Statement .formulaTaskEnd := of_none encode_formulaTaskEnd
theorem Sys2Proof.Laws.Opcode.waveFlip : Statement .waveFlip := of_none encode_waveFlip
theorem Sys2Proof.Laws.Opcode.waveAbort : Statement .waveAbort := of_none encode_waveAbort
theorem Sys2Proof.Laws.Opcode.signatureCheck : Statement .signatureCheck := of_none encode_signatureCheck
theorem Sys2Proof.Laws.Opcode.rollback : Statement .rollback := of_none encode_rollback
theorem Sys2Proof.Laws.Opcode.inFieldTest : Statement .inFieldTest := of_none encode_inFieldTest
theorem Sys2Proof.Laws.Opcode.fatalError : Statement .fatalError := of_none encode_fatalError
theorem Sys2Proof.Laws.Opcode.watchdogTakeover : Statement .watchdogTakeover := of_none encode_watchdogTakeover
theorem Sys2Proof.Laws.Opcode.liveUpdate : Statement .liveUpdate := of_none encode_liveUpdate
theorem Sys2Proof.Laws.Opcode.powerStateWrite : Statement .powerStateWrite := of_none encode_powerStateWrite
theorem Sys2Proof.Laws.Opcode.capWindow : Statement .capWindow := of_none encode_capWindow
theorem Sys2Proof.Laws.Opcode.thermalTrip : Statement .thermalTrip := of_none encode_thermalTrip
theorem Sys2Proof.Laws.Opcode.energySample : Statement .energySample := of_none encode_energySample
theorem Sys2Proof.Laws.Opcode.energyCheckpoint : Statement .energyCheckpoint := of_none encode_energyCheckpoint
theorem Sys2Proof.Laws.Opcode.signedReading : Statement .signedReading := of_none encode_signedReading
theorem Sys2Proof.Laws.Opcode.attestationReport : Statement .attestationReport := of_none encode_attestationReport
theorem Sys2Proof.Laws.Opcode.partitionOwnerWrite : Statement .partitionOwnerWrite := of_none encode_partitionOwnerWrite
theorem Sys2Proof.Laws.Opcode.partitionClusterWrite : Statement .partitionClusterWrite := of_none encode_partitionClusterWrite
theorem Sys2Proof.Laws.Opcode.deviceReset : Statement .deviceReset := of_none encode_deviceReset
theorem Sys2Proof.Laws.Opcode.fetchFault : Statement .fetchFault := of_none encode_fetchFault
theorem Sys2Proof.Laws.Opcode.failedSubChannelMark : Statement .failedSubChannelMark := of_none encode_failedSubChannelMark
theorem Sys2Proof.Laws.Opcode.tbaseDiscipline : Statement .tbaseDiscipline := of_none encode_tbaseDiscipline
end

