-- ==== Sys2Proof/Laws/Visit.lean ====
section
/-! SUPPORT. What bringing in lines does while no byte is in error and no core holds a dirty SI line: memory, the error
marks and every register stay as they are; the caches, the L2, the directory and the monitors may change. -/

namespace Sys2Proof.Machine

/-- No byte is in error, and every dirty line of a core's cache is a DT line, whose bytes the home has already. -/
def Settled (s : State) : Prop := Intact s ∧ ∀ n, ∀ l ∈ (s.core n).dcache, l.quiet

theorem Plain.settled {s : State} {ps : List Place} (h : Plain s ps) : Settled s := ⟨h.intact, h.clean⟩

/-- From `s` to `t` no more changes than the lines of the core data caches, the L2, the directory, RD, the cached leaves
with their counts, the evictions of the clock, and the monitors. -/
structure BringsIn (s t : State) : Prop where
  settled : Settled t
  cores : ∀ n, SameButLines (s.core n) (t.core n)
  machine : { t with cores := s.cores, l2 := s.l2, monitors := s.monitors, dirs := s.dirs, rd := s.rd,
                     attrCache := s.attrCache, memXlat := s.memXlat, parts := s.parts, evictions := s.evictions } = s

theorem BringsIn.refl {s : State} (h : Settled s) : BringsIn s s := ⟨h, fun _ => rfl, rfl⟩

theorem BringsIn.trans {s t u : State} (h : BringsIn s t) (k : BringsIn t u) : BringsIn s u where
  settled := k.settled
  cores n := by
    have a := h.cores n
    have b := k.cores n
    unfold SameButLines at *
    rw [← b] at a
    exact a
  machine := by
    have a := h.machine
    rw [← k.machine] at a
    exact a

/-- A fold brings in what each of its steps does. -/
theorem foldl_bringsIn {α : Type} (f : State → α → State) (hf : ∀ s x, Settled s → BringsIn s (f s x)) :
    ∀ (l : List α) (s : State), Settled s → BringsIn s (l.foldl f s)
  | [], _, h => .refl h
  | x :: l, s, h => (hf s x h).trans (foldl_bringsIn f hf l _ (hf s x h).settled)

/-! The memory and the rest of the machine, read off. -/

theorem BringsIn.mem {s t : State} (h : BringsIn s t) : t.mem = s.mem := by have e := congrArg State.mem h.machine; exact e
theorem BringsIn.cur {s t : State} (h : BringsIn s t) : t.cur = s.cur := by have e := congrArg State.cur h.machine; exact e
theorem BringsIn.clk {s t : State} (h : BringsIn s t) : t.clk = s.clk := by have e := congrArg State.clk h.machine; exact e
theorem BringsIn.gangs {s t : State} (h : BringsIn s t) : t.gangs = s.gangs := by have e := congrArg State.gangs h.machine; exact e
theorem BringsIn.posts {s t : State} (h : BringsIn s t) : t.posts = s.posts := by have e := congrArg State.posts h.machine; exact e
theorem BringsIn.tasks {s t : State} (h : BringsIn s t) : t.tasks = s.tasks := by have e := congrArg State.tasks h.machine; exact e
theorem BringsIn.service {s t : State} (h : BringsIn s t) : t.service = s.service := by have e := congrArg State.service h.machine; exact e
theorem BringsIn.notices {s t : State} (h : BringsIn s t) : t.notices = s.notices := by have e := congrArg State.notices h.machine; exact e
theorem BringsIn.ctxs {s t : State} (h : BringsIn s t) (n : Nat) : (t.core n).ctxs = (s.core n).ctxs :=
  by have e := congrArg Core.ctxs (h.cores n); exact e

/-! The L2: without errors it changes alone. -/

/-- Nothing but the L2 changes. -/
def OnlyL2 (s t : State) : Prop := { t with l2 := s.l2 } = s

theorem OnlyL2.refl (s : State) : OnlyL2 s s := rfl
theorem OnlyL2.trans {s t u : State} (h : OnlyL2 s t) (k : OnlyL2 t u) : OnlyL2 s u := by
  unfold OnlyL2 at *
  rw [← k] at h
  exact h
theorem OnlyL2.intact {s t : State} (h : OnlyL2 s t) (i : Intact s) : Intact t := by
  have e := congrArg State.errs h
  have b := congrArg State.bad h
  exact ⟨e.trans i.1, b.trans i.2⟩
theorem OnlyL2.core {s t : State} (h : OnlyL2 s t) (n : Nat) : t.core n = s.core n := by
  have e := congrArg (fun u : State => u.core n) h
  exact e
theorem OnlyL2.bringsIn {s t : State} (h : OnlyL2 s t) (i : Settled s) : BringsIn s t where
  settled := ⟨h.intact i.1, fun n l hl => i.2 n l (h.core n ▸ hl)⟩
  cores n := by unfold SameButLines; rw [h.core n]
  machine := by rw [← show { t with l2 := s.l2 } = s from h]

theorem foldl_onlyL2 {α : Type} (f : State → α → State) (hf : ∀ s x, Intact s → OnlyL2 s (f s x)) :
    ∀ (l : List α) (s : State), Intact s → OnlyL2 s (l.foldl f s)
  | [], s, _ => .refl s
  | x :: l, s, h => (hf s x h).trans (foldl_onlyL2 f hf l _ ((hf s x h).intact h))

theorem setL2_onlyL2 (s : State) (n : Nat) (l : List L2Line) : OnlyL2 s (s.setL2 n l) := rfl

theorem takeGranule_intact (s : State) (gran : BitVec 2) (base : Nat) (p : Nat → Bool) (later : Bool) (i : Intact s) :
    s.takeGranule gran base p later = s := by simp [State.takeGranule, i.1]

theorem writeUnit_intact (s : State) (gran : BitVec 2) (base : Nat) (i : Intact s) : s.writeUnit gran base = s := by
  obtain ⟨e, b⟩ := i
  cases s
  simp_all [State.writeUnit, State.badIn, State.writeGranule]

theorem forget_intact (s : State) (lo n : Nat) (i : Intact s) : s.forget lo n = s := by
  obtain ⟨e, b⟩ := i
  cases s
  simp_all [State.forget]

theorem cleanL2_onlyL2 (s : State) (l : L2Line) : OnlyL2 s (s.cleanL2 l) := rfl

theorem gangWriteback_onlyL2 (s : State) (l : L2Line) (i : Intact s) : OnlyL2 s (s.gangWriteback l) := by
  unfold State.gangWriteback
  simp only [takeGranule_intact s _ _ _ _ i, ite_self, writeUnit_intact s _ _ i]
  exact foldl_onlyL2 _ (fun s l _ => cleanL2_onlyL2 s l) _ s i

theorem writeBackL2_onlyL2 (s : State) (l : L2Line) (i : Intact s) : OnlyL2 s (s.writeBackL2 l) := by
  unfold State.writeBackL2
  split
  · exact .refl s
  · split
    · exact gangWriteback_onlyL2 s l i
    · split
      · exact (foldl_onlyL2 _ (fun s k i => by
          split
          · rw [writeUnit_intact s _ _ i]; exact .refl s
          · exact .refl s) _ s i).trans (cleanL2_onlyL2 _ l)
      · rw [writeUnit_intact s _ _ i]; exact cleanL2_onlyL2 s l

theorem evictL2_onlyL2 (s : State) (l : L2Line) (i : Intact s) : OnlyL2 s (s.evictL2 l) := by
  have h := writeBackL2_onlyL2 s l i
  unfold State.evictL2
  rw [forget_intact _ _ _ (h.intact i)]
  exact h.trans (setL2_onlyL2 _ _ _)

theorem enterL2_onlyL2 (s : State) (l : L2Line) (i : Intact s) : OnlyL2 s (s.enterL2 l) := by
  unfold State.enterL2
  dsimp only
  refine OnlyL2.trans ?_ (setL2_onlyL2 _ _ _)
  split
  · exact .refl s
  · exact evictL2_onlyL2 s _ i

theorem fillOne_onlyL2 (s : State) (h : Home) (bits : BitVec 2) (i : Intact s) : OnlyL2 s (s.fillOne h bits) :=
  enterL2_onlyL2 s _ i

theorem correctable_intact (s : State) (gran : BitVec 2) (base : Nat) (i : Intact s) : s.correctable gran base = false := by
  simp [State.correctable, i.1]

theorem fillL2_onlyL2 (s : State) (h : Home) (i : Intact s) : OnlyL2 s (s.fillL2 h) := by
  unfold State.fillL2
  simp only [takeGranule_intact s _ _ _ _ i, correctable_intact s _ _ i, Bool.and_false, Bool.false_eq_true, if_false]
  (repeat' split) <;> first
    | with_reducible exact .refl s
    | with_reducible exact enterL2_onlyL2 s _ i
    | with_reducible exact fillOne_onlyL2 s _ _ i
    | with_reducible exact foldl_onlyL2 _ (fun s k i => fillOne_onlyL2 s _ _ i) _ s i

theorem dirtyL2_onlyL2 (s : State) (h : Home) (i : Intact s) : OnlyL2 s (s.dirtyL2 h) := by
  have f := fillL2_onlyL2 s h i
  unfold State.dirtyL2
  dsimp only
  (repeat' split) <;> first
    | with_reducible exact .refl s
    | with_reducible exact f
    | with_reducible exact f.trans (enterL2_onlyL2 _ _ (f.intact i))

theorem homeRead_onlyL2 (s : State) (core : Nat) (p : Place) (i : Intact s) : OnlyL2 s (s.homeRead core p) := by
  unfold State.homeRead
  split
  · exact fillL2_onlyL2 s _ i
  · exact .refl s

theorem flushL2Lines_onlyL2 (s : State) (sel : L2Line → Bool) (i : Intact s) : OnlyL2 s (s.flushL2Lines sel) :=
  foldl_onlyL2 _ (fun s l i => by
    split
    · exact evictL2_onlyL2 s _ i
    · exact .refl s) _ s i

/-! The core data caches. -/

theorem core_modCore (s : State) (n m : Nat) (f : Core → Core) :
    (s.modCore n f).core m = if m = n then f (s.core n) else s.core m := by
  by_cases h : m = n
  · subst h; simp [State.modCore]
  · simp [h, State.modCore, State.core_setCore_ne s _ h]

/-- A change of one core's lines. -/
theorem modLines_bringsIn (s : State) (n : Nat) (f : Core → Core) (i : Settled s) (same : ∀ c, SameButLines c (f c))
    (clean : ∀ l ∈ (f (s.core n)).dcache, l.quiet) : BringsIn s (s.modCore n f) where
  settled := ⟨i.1, fun m l hl => by
    rw [core_modCore] at hl
    split at hl
    · exact clean l hl
    · exact i.2 m l hl⟩
  cores m := by
    rw [core_modCore]
    split
    · rename_i h; subst h; exact same _
    · rfl
  machine := rfl

theorem writeBackLine_bringsIn (s : State) (l : CacheLine) (i : Settled s) (h : l.quiet) :
    BringsIn s (s.writeBackLine l) := by
  unfold State.writeBackLine State.poisonLine
  rw [if_pos h.2]
  replace h := h.1
  unfold State.writeBackBytes
  dsimp only
  split
  · exact .refl i
  · rename_i hd
    rw [if_pos (h.resolve_right hd)]
    exact (foldl_onlyL2 _ (fun s k i => by
      split
      · exact dirtyL2_onlyL2 s _ i
      · exact .refl s) _ s i.1).bringsIn i

theorem foldl_writeBack_bringsIn : ∀ (ls : List CacheLine) (s : State), Settled s → (∀ l ∈ ls, l.quiet) →
    BringsIn s (ls.foldl State.writeBackLine s)
  | [], _, i, _ => .refl i
  | l :: ls, s, i, h =>
    have a := writeBackLine_bringsIn s l i (h l (by simp))
    a.trans (foldl_writeBack_bringsIn ls _ a.settled (fun k hk => h k (by simp [hk])))

theorem cleanLines_bringsIn (s : State) (core : Nat) (sel : CacheLine → Bool) (i : Settled s) :
    BringsIn s (s.cleanLines core sel) := by
  have a := foldl_writeBack_bringsIn ((s.core core).dcache.filter sel) s i
    (fun l hl => i.2 core l (List.mem_of_mem_filter hl))
  unfold State.cleanLines
  refine a.trans (modLines_bringsIn _ _ _ a.settled (fun _ => rfl) ?_)
  intro l hl
  simp only [List.mem_map] at hl
  obtain ⟨k, hk, rfl⟩ := hl
  split
  · exact ⟨.inr rfl, (a.settled.2 core k hk).2⟩
  · exact a.settled.2 core k hk

theorem dropLines_bringsIn (s : State) (core : Nat) (sel : CacheLine → Bool) (i : Settled s) :
    BringsIn s (s.dropLines core sel) := by
  unfold State.dropLines
  dsimp only
  refine BringsIn.trans (t := { s with monitors := s.monitors.map _ }) ⟨i, fun _ => rfl, rfl⟩
    (modLines_bringsIn _ _ _ i (fun _ => rfl) (fun l hl => i.2 core l (List.mem_of_mem_filter hl)))

theorem flushLines_bringsIn (s : State) (core : Nat) (sel : CacheLine → Bool) (i : Settled s) :
    BringsIn s (s.flushLines core sel) :=
  have a := cleanLines_bringsIn s core sel i
  a.trans (dropLines_bringsIn _ core sel a.settled)

theorem release_bringsIn (s : State) (core : Nat) (i : Settled s) : BringsIn s (s.release core) :=
  cleanLines_bringsIn s core _ i

theorem acquire_bringsIn (s : State) (core : Nat) (wide : Bool) (i : Settled s) : BringsIn s (s.acquire core wide) := by
  unfold State.acquire
  split
  · exact flushLines_bringsIn s core _ i
  · exact .refl i

theorem everyCore_bringsIn (s : State) (f : State → Nat → State) (hf : ∀ s n, Settled s → BringsIn s (f s n))
    (i : Settled s) : BringsIn s (s.everyCore f) := foldl_bringsIn f hf _ s i

theorem evictLines_bringsIn (s : State) (core : Nat) (sel : CacheLine → Bool) (i : Settled s) :
    BringsIn s (s.evictLines core sel) := by
  have a := flushLines_bringsIn s core sel i
  unfold State.evictLines
  dsimp only
  split
  · exact .refl i
  · exact a.trans ⟨a.settled, fun _ => rfl, rfl⟩

theorem makeRoom_bringsIn (s : State) (core part ia : Nat) (i : Settled s) : BringsIn s (s.makeRoom core part ia) := by
  have a := evictLines_bringsIn s core (fun l => l.part == part && l.line == ia / 64) i
  unfold State.makeRoom State.displace
  dsimp only
  (repeat' split) <;> first
    | with_reducible exact a
    | with_reducible exact a.trans (evictLines_bringsIn _ core _ a.settled)

theorem enterLine_bringsIn (s : State) (core : Nat) (h : Home) (coh : BitVec 2) (i : Settled s) :
    BringsIn s (s.enterLine core h coh) := by
  have a := makeRoom_bringsIn s core h.part h.ia i
  unfold State.enterLine
  refine a.trans (modLines_bringsIn _ core _ a.settled (fun _ => rfl) ?_)
  intro l hl
  simp only [List.mem_cons] at hl
  rcases hl with rfl | hl
  · exact ⟨.inr rfl, rfl⟩
  · exact a.settled.2 core l hl

theorem fillTracked_bringsIn (s : State) (core : Nat) (h : Home) (i : Settled s) : BringsIn s (s.fillTracked core h) := by
  have f := (fillL2_onlyL2 s h i.1).bringsIn i
  unfold State.fillTracked
  split
  · exact .refl i
  · exact f.trans (enterLine_bringsIn _ core h 0 f.settled)

/-! The directory. -/

theorem setSlice_bringsIn (s : State) (n : Nat) (l : List DirEntry) (i : Settled s) : BringsIn s (s.setSlice n l) :=
  ⟨i, fun _ => rfl, rfl⟩

theorem recall_bringsIn (s : State) (slice : Nat) (e : DirEntry) (c : Nat) (i : Settled s) :
    BringsIn s (s.recall slice e c) := foldl_bringsIn _ (fun s n i => flushLines_bringsIn s n _ i) _ s i

theorem downgrade_bringsIn (s : State) (slice : Nat) (e : DirEntry) (c : Nat) (i : Settled s) :
    BringsIn s (s.downgrade slice e c) := foldl_bringsIn _ (fun s n i => cleanLines_bringsIn s n _ i) _ s i

theorem recallDies_bringsIn (s : State) (mask : BitVec 4) (part ia : Nat) (i : Settled s) :
    BringsIn s (s.recallDies mask part ia) := by
  unfold State.recallDies
  split
  · exact .refl i
  · refine everyCore_bringsIn s _ (fun s n i => ?_) i
    split
    · exact flushLines_bringsIn s n _ i
    · exact .refl i

theorem recallRdie_bringsIn (s : State) (slice : Nat) (e : DirEntry) (i : Settled s) :
    BringsIn s (s.recallRdie slice e) := by
  unfold State.recallRdie
  split
  · exact .refl i
  · refine everyCore_bringsIn s _ (fun s n i => ?_) i
    split
    · exact flushLines_bringsIn s n _ i
    · exact .refl i

theorem freeEntry_bringsIn (s : State) (slice : Nat) (e : DirEntry) (i : Settled s) : BringsIn s (s.freeEntry slice e) := by
  have a := foldl_bringsIn (fun s c => s.recall slice e c) (fun s c i => recall_bringsIn s slice e c i) (e.heldBy slice) s i
  have b := a.trans (recallRdie_bringsIn _ slice e a.settled)
  exact b.trans (setSlice_bringsIn _ _ _ b.settled)

theorem freeEntries_bringsIn (s : State) (part lo hi : Nat) (i : Settled s) : BringsIn s (s.freeEntries part lo hi) := by
  have a := foldl_bringsIn
    (fun s (d : Nat × List DirEntry) => (d.2.filter (·.meets part lo hi)).foldl (fun s e => s.freeEntry d.1 e) s)
    (fun s d i => foldl_bringsIn _ (fun s e i => freeEntry_bringsIn s d.1 e i) _ s i) s.dirs s i
  exact a.trans (everyCore_bringsIn _ _ (fun s n i => flushLines_bringsIn s n _ i) a.settled)

theorem evictOver_bringsIn (s : State) (slice limit : Nat) (i : Settled s) : BringsIn s (s.evictOver slice limit) := by
  unfold State.evictOver
  dsimp only
  (repeat' split) <;> first
    | with_reducible exact .refl i
    | with_reducible exact freeEntry_bringsIn s slice _ i

theorem putEntries_bringsIn (s : State) (slice : Nat) (old : DirEntry) (new : List DirEntry) (i : Settled s) :
    BringsIn s (s.putEntries slice old new) :=
  have a := setSlice_bringsIn s slice _ i
  a.trans (evictOver_bringsIn _ slice 16384 a.settled)

theorem entryFor_bringsIn (s : State) (slice part ia : Nat) (i : Settled s) : BringsIn s (s.entryFor slice part ia).2 := by
  have a := evictOver_bringsIn s slice 16383 i
  unfold State.entryFor
  split
  · exact .refl i
  · exact a.trans (setSlice_bringsIn _ _ _ a.settled)

theorem dirRead_bringsIn (s : State) (slice : Nat) (e : DirEntry) (c : Nat) (i : Settled s) :
    BringsIn s (s.dirRead slice e c) := by
  have a := foldl_bringsIn (fun s h => s.downgrade slice e h) (fun s h i => downgrade_bringsIn s slice e h i) (e.heldBy slice) s i
  unfold State.dirRead
  (repeat' split) <;> first
    | with_reducible exact putEntries_bringsIn s _ _ _ i
    | with_reducible exact a.trans (putEntries_bringsIn _ _ _ _ a.settled)

theorem recallOthers_bringsIn (s : State) (slice : Nat) (e : DirEntry) (c ia : Nat) (i : Settled s) :
    BringsIn s (s.recallOthers slice e c ia).2 :=
  foldl_bringsIn (fun s h => s.recall slice e h) (fun s h i => recall_bringsIn s slice e h i) _ s i

theorem putWritten_bringsIn (s : State) (slice : Nat) (e mine other : DirEntry) (clash : Bool) (ia : Nat) (i : Settled s) :
    BringsIn s (s.putWritten slice e mine other clash ia) := by
  unfold State.putWritten
  split <;> exact putEntries_bringsIn s _ _ _ i

theorem dirWrite_bringsIn (s : State) (slice : Nat) (e : DirEntry) (c ia : Nat) (i : Settled s) :
    BringsIn s (s.dirWrite slice e c ia) := by
  have a := recallOthers_bringsIn s slice e c ia i
  unfold State.dirWrite
  dsimp only
  (repeat' split) <;> first
    | with_reducible exact putEntries_bringsIn s _ _ _ i
    | with_reducible exact a.trans (putWritten_bringsIn _ _ _ _ _ _ _ a.settled)

theorem dirAway_bringsIn (s : State) (slice : Nat) (e : DirEntry) (ia : Nat) (write : Bool) (i : Settled s) :
    BringsIn s (s.dirAway slice e ia write) := by
  have a := foldl_bringsIn (fun s h => s.downgrade slice e h) (fun s h i => downgrade_bringsIn s slice e h i) (e.heldBy slice) s i
  have b := recallOthers_bringsIn s slice e 256 ia i
  unfold State.dirAway
  dsimp only
  (repeat' split) <;> first
    | with_reducible exact putEntries_bringsIn s _ _ _ i
    | with_reducible exact a.trans (putEntries_bringsIn _ _ _ _ a.settled)
    | with_reducible exact b.trans (putWritten_bringsIn _ _ _ _ _ _ _ b.settled)

theorem dirResolve_bringsIn (s : State) (slice part ia : Nat) (away gang : Bool) (cluster : Nat) (write : Bool)
    (i : Settled s) : BringsIn s (s.dirResolve slice part ia away gang cluster write) := by
  have a := entryFor_bringsIn s slice part ia i
  unfold State.dirResolve
  dsimp only
  (repeat' split) <;> first
    | with_reducible exact .refl i
    | with_reducible exact a.trans (dirAway_bringsIn _ _ _ _ _ a.settled)
    | with_reducible exact a.trans (dirWrite_bringsIn _ _ _ _ _ a.settled)
    | with_reducible exact a.trans (dirRead_bringsIn _ _ _ _ a.settled)

theorem setRd_bringsIn (s : State) (slice : Nat) (gran : BitVec 2) (loc part ia : Nat) (v : BitVec 4) (i : Settled s) :
    BringsIn s (s.setRd slice gran loc part ia v) := by
  unfold State.setRd
  split
  · exact setSlice_bringsIn s _ _ i
  · unfold State.writeH
    obtain ⟨⟨e, b⟩, c⟩ := i
    refine ⟨⟨⟨by simp [e], b⟩, c⟩, fun _ => rfl, ?_⟩
    cases s
    simp_all

theorem recallAway_bringsIn (s : State) (slice : Nat) (gran : BitVec 2) (loc part ia : Nat) (i : Settled s) :
    BringsIn s (s.recallAway slice gran loc part ia) := by
  unfold State.recallAway
  dsimp only
  split
  · exact .refl i
  · have a := recallDies_bringsIn s (s.rdOf slice gran loc part ia) part ia i
    exact a.trans (setRd_bringsIn _ _ _ _ _ _ _ a.settled)

theorem requestLine_bringsIn (s : State) (core : Nat) (h : Home) (write : Bool) (i : Settled s) :
    BringsIn s (s.requestLine core h write) := by
  unfold State.requestLine
  dsimp only
  have a := dirResolve_bringsIn s (s.homeSlice (h.loc / 2 ^ 46) h.ia) h.part h.ia (dieOf core != h.loc / 2 ^ 46) (h.gran == 2)
    (clusterOf core) write i
  have b := a.trans (recallAway_bringsIn _ (s.homeSlice (h.loc / 2 ^ 46) h.ia) h.gran (h.loc - h.loc % 64) h.part h.ia a.settled)
  (repeat' split) <;> first
    | with_reducible exact a
    | with_reducible exact b
    | with_reducible exact a.trans (setRd_bringsIn _ _ _ _ _ _ _ a.settled)
    | with_reducible exact b.trans (setRd_bringsIn _ _ _ _ _ _ _ b.settled)

theorem homeRequest_bringsIn (s : State) (h : Home) (write : Bool) (i : Settled s) : BringsIn s (s.homeRequest h write) := by
  unfold State.homeRequest
  dsimp only
  have a := dirResolve_bringsIn s (s.homeSlice (h.loc / 2 ^ 46) h.ia) h.part h.ia true true 0 write i
  (repeat' split) <;> first
    | with_reducible exact .refl i
    | with_reducible exact a
    | with_reducible exact recallAway_bringsIn s _ _ _ _ _ i
    | with_reducible exact a.trans (recallAway_bringsIn _ _ _ _ _ _ a.settled)

/-! What an access brings in. -/

theorem countAccess_bringsIn (s : State) (die home : Nat) (l : CachedLeaf) (i : Settled s) :
    BringsIn s (s.countAccess die home l) := by
  unfold State.countAccess
  split
  · exact .refl i
  · exact ⟨i, fun _ => rfl, rfl⟩

theorem noteLeaf_bringsIn (s : State) (core die : Nat) (p : Place) (reaches : Bool) (i : Settled s) :
    BringsIn s (s.noteLeaf core die p reaches) := by
  unfold State.noteLeaf
  split
  · exact .refl i
  · rename_i l _
    dsimp only
    have a : ∀ c, BringsIn s { s with attrCache := c } := fun c => ⟨i, fun _ => rfl, rfl⟩
    have b : ∀ c, BringsIn s (State.countAccess { s with attrCache := c } die (p.loc / 2 ^ 46) l) := fun c =>
      (a c).trans (countAccess_bringsIn _ _ _ _ (a c).settled)
    have d := countAccess_bringsIn s die (p.loc / 2 ^ 46) l i
    (repeat' split) <;> first
      | with_reducible exact .refl i
      | with_reducible exact a _
      | with_reducible exact b _
      | with_reducible exact d
      | exact (b _).trans ⟨(b _).settled, fun _ => rfl, rfl⟩
      | exact d.trans ⟨d.settled, fun _ => rfl, rfl⟩

/-- One line: what is brought in under the premise that its page is not of class SI. -/
theorem visitLine_bringsIn (s : State) (core : Nat) (ch : BitVec 2) (write : Bool) (p : Place) (i : Settled s)
    (si : p.si = false) : BringsIn s (s.visitLine core ch write p) := by
  have a := noteLeaf_bringsIn s core (s.dieHere core) p (s.reachesHome core write p) i
  unfold State.visitLine
  dsimp only
  split
  · rename_i h _
    simp only [si, Bool.false_eq_true, if_false]
    have q := a.trans (requestLine_bringsIn _ core h write a.settled)
    have d := a.trans ((dirtyL2_onlyL2 _ h a.settled.1).bringsIn a.settled)
    have f := a.trans ((fillL2_onlyL2 _ h a.settled.1).bringsIn a.settled)
    have g := q.trans ((fillL2_onlyL2 _ h q.settled.1).bringsIn q.settled)
    have k := q.trans (fillTracked_bringsIn _ core h q.settled)
    have m := a.trans (fillTracked_bringsIn _ core h a.settled)
    (repeat' split) <;> first
      | with_reducible exact d
      | with_reducible exact f
      | exact g.trans (cleanLines_bringsIn _ core _ g.settled)
      | exact f.trans (cleanLines_bringsIn _ core _ f.settled)
      | with_reducible exact k
      | with_reducible exact m
  · exact a

theorem mem_lineHeads {p : Place} : ∀ {ps : List Place}, p ∈ lineHeads ps → p ∈ ps
  | [], h => by simp [lineHeads] at h
  | q :: ps, h => by
    simp only [lineHeads, List.mem_cons] at h
    rcases h with rfl | h
    · simp
    · exact List.mem_cons_of_mem _ (mem_lineHeads (List.mem_of_mem_filter h))

/-- Everything that an access brings in, where no page it meets is of class SI. -/
theorem visit_bringsIn (s : State) (core : Nat) (ch : BitVec 2) (write : Bool) (ps : List Place) (i : Settled s)
    (si : ∀ p ∈ ps, p.si = false) : BringsIn s (s.visit core ch write ps) := by
  have h : ∀ p ∈ lineHeads (ps.filter (fun p => p.leaf.isSome)), p.si = false := fun p hp =>
    si p (List.mem_of_mem_filter (mem_lineHeads hp))
  unfold State.visit
  generalize lineHeads (ps.filter (fun p => p.leaf.isSome)) = l at h ⊢
  induction l generalizing s with
  | nil => exact .refl i
  | cons p l ih =>
    have a := visitLine_bringsIn s core ch write p i (h p (by simp))
    exact a.trans (ih _ a.settled (fun q hq => h q (by simp [hq])))

/-! What the engines and a shootdown bring in. -/

theorem performRange_bringsIn (s : State) (part lo hi : Nat) (i : Settled s) : BringsIn s (s.performRange part lo hi) := by
  have a := freeEntries_bringsIn s part lo hi i
  have b := a.trans (everyCore_bringsIn _ (fun s n => s.flushLines n (lineIn part lo hi))
    (fun s n i => flushLines_bringsIn s n _ i) a.settled)
  exact b.trans ((flushL2Lines_onlyL2 _ _ b.settled.1).bringsIn b.settled)

theorem engineVisit_bringsIn (s : State) (core : Nat) (write : Bool) (ps : List Place) (i : Settled s) :
    BringsIn s (s.engineVisit core write ps) := by
  unfold State.engineVisit
  refine foldl_bringsIn _ (fun s p i => ?_) _ s i
  have a := noteLeaf_bringsIn s core (dieOf core) p true i
  dsimp only
  split
  · rename_i h _
    have q := a.trans (homeRequest_bringsIn _ h write a.settled)
    have d := a.trans ((dirtyL2_onlyL2 _ h a.settled.1).bringsIn a.settled)
    have f := a.trans ((fillL2_onlyL2 _ h a.settled.1).bringsIn a.settled)
    have dq := q.trans ((dirtyL2_onlyL2 _ h q.settled.1).bringsIn q.settled)
    have fq := q.trans ((fillL2_onlyL2 _ h q.settled.1).bringsIn q.settled)
    (repeat' split) <;> first
      | with_reducible exact d
      | with_reducible exact f
      | with_reducible exact dq
      | with_reducible exact fq
  · exact a

end Sys2Proof.Machine
end

