-- ==== Sys2Proof/Tests/Slice0.lean ====
section
/-! SUPPORT. Tests: ill-formed terms that the check refuses, words written out from the encoding tables of the spec,
results worked out from the spec, and for each statement with hypotheses a state and operands that meet them. -/

open Sys2Proof Sys2Proof.Machine

namespace Sys2Proof.Tests

set_option Elab.async false

/-- The machine with one core placed, its control context's turn. -/
def base : State := State.reset.withFetchWord 96 0

/-- With a change of the context whose turn it is. -/
def ctxWith (f : Context → Context) : State := base.modMy f
/-- With a change of the core. -/
def coreWith (f : Core → Core) : State := base.modMe f

/-- With some s and a registers, by number. -/
def regs (rs : List (BitVec 8 × Word)) : State := rs.foldl (fun s r => s.setSA r.1 r.2) base

/-- In another context. -/
def inCtx (x : Fin 12) : State := { base with cur := { base.cur with ctx := x } }

/-- Some property of the next state. -/
def nextIs (o : Host.Outcome State Fault Refusal) (p : State → Bool) : Bool :=
  match o with
  | .next t => p t
  | _ => false

/-- A format Q form without guard. -/
def q (d a b : BitVec 8) (c : BitVec 8 := 0) (t1 t2 : BitVec 4 := 0) (sat na : BitVec 1 := 0) : FQ :=
  { g := 0, gn := 0, var := 0, d, a, b, c, t1, t2, rm := 0, sat, na, nc := 0 }
/-- A vector form without guard. -/
def v (d a b : BitVec 8) (c : BitVec 8 := 0) (t1 t2 : BitVec 4 := 0) (var : BitVec 2 := 0) (imm : BitVec 32 := 0) : FV :=
  { g := 0, gn := 0, var, d, a, b, c, t1, t2, rm := 0, sat := 0, na := 0, nc := 0, imm }
/-- A format I form without guard. -/
def im (d a b : BitVec 8) (imm : BitVec 32) (sh : BitVec 8 := 0) (t1 t2 : BitVec 4 := 0) (var : BitVec 2 := 0) : FI :=
  { g := 0, gn := 0, var, d, a, b, t1, t2, sh, imm }
/-- A format T form without guard. -/
def ti (d a b : BitVec 8) (ta tb tc kb : BitVec 4 := 0) (var : BitVec 2 := 0) : FT :=
  { g := 0, gn := 0, var, d, a, b, ta, tb, tc, kb }
/-- A format E form without guard. -/
def e (d a b c : BitVec 8) (imm : BitVec 32 := 0) (sub flg : BitVec 8 := 0) (var : BitVec 2 := 0) : FE :=
  { g := 0, gn := 0, var, d, a, b, c, sub, flg, imm }
/-- A format M form without guard. -/
def mem (v base idx : BitVec 8) (am w : BitVec 3) (disp : BitVec 32 := 0) (vw ch : BitVec 2 := 0) (shx col scp : BitVec 3 := 0)
    (var : BitVec 2 := 0) : FM :=
  { g := 0, gn := 0, var, v, base, idx, am, w, col, scp, vw, ch, shx, disp }
/-- A format B form without guard. -/
def br (c : BitVec 8) (cc : BitVec 4) (l : BitVec 8) (tslot : BitVec 3) (dline : BitVec 32) : FB :=
  { g := 0, gn := 0, var := 0, c, cc, l, tslot, dline }

/-- The gang supervised by its own core. -/
def supervised : State := { base with gangs := [{ loadedGang with supervisor := some 0 }] }

/-- A step whose event names a core and a context. -/
def forCore (s : State) (core ctx : Nat) : State :=
  { s with cur := { s.cur with args := { core := core, ctx := Fin.ofNat 12 ctx, gid := 1 } } }

/-- v1 and v2 hold one value in every lane. -/
def lanes (a b : Lane) : State := coreWith (fun c =>
  { c with v := (c.v.setIfInBounds 1 (Vector.replicate 64 a)).setIfInBounds 2 (Vector.replicate 64 b) })

/-- What holds of every core in the table, and of a core after reset, holds of every core. -/
theorem all_cores {s : State} (p : Core → Bool) (h : s.cores.all (fun c => p c.2) = true) (h0 : p Core.reset = true) (n : Nat) :
    p (s.core n) = true := by
  unfold State.core
  cases e : Table.find s.cores n with
  | none => exact h0
  | some c =>
    suffices ∀ l : Table Core, l.all (fun c => p c.2) = true → Table.find l n = some c → p c = true from this _ h e
    intro l
    induction l with
    | nil => intro _ e; cases e
    | cons x l ih =>
      intro h e
      simp only [List.all_cons, Bool.and_eq_true] at h
      unfold Table.find at e
      split at e
      · cases e; exact h.1
      · exact ih h.2 e
/-- A core that keeps no undo log, and whose dirty lines are DT lines. -/
def tidy (c : Core) : Bool := !c.resil && c.dcache.all (fun l => (l.coh == 0 || l.dirty == 0) && l.bad == 0)
/-- The places of an access are found, and meet nothing that `Plain` shuts out. -/
def plainOk (s : State) (f : FM) (need : Need) (os : List (Nat × Word)) : Bool :=
  s.cores.all (fun c => tidy c.2) && s.errs.isEmpty && s.bad.isEmpty && decide (s.setCore s.cur.core s.me = s) &&
  match s.places s.cur.core s.cur.ctx.val (access119 s f need) os with
  | .ok ps => ps.all (fun p => !p.si)
  | .error _ => false
theorem tidy_of {s : State} (h : s.cores.all (fun c => tidy c.2) = true) (n : Nat) :
    (s.core n).resil = false ∧ ∀ l ∈ (s.core n).dcache, l.quiet := by
  have t := all_cores tidy h rfl n
  simp only [tidy, Bool.and_eq_true, Bool.not_eq_true', List.all_eq_true, Bool.or_eq_true, beq_iff_eq] at t
  exact t
theorem reaches_of {s : State} {f : FM} {need : Need} {os : List (Nat × Word)} (h : plainOk s f need os = true) :
    ∃ ps, reaches s f need os ps := by
  unfold plainOk at h
  simp only [Bool.and_eq_true, decide_eq_true_eq] at h
  obtain ⟨⟨⟨⟨h1, h2⟩, h3⟩, h4⟩, h5⟩ := h
  split at h5
  · rename_i ps e
    refine ⟨ps, e, ?_, fun n => (tidy_of h1 n).1, fun n => (tidy_of h1 n).2, ⟨by simpa using h2, by simpa using h3⟩, h4⟩
    intro p hp
    simpa using List.all_eq_true.mp h5 p hp
  · cases h5

/-- a1 holds an address in window 0, a2 one in the scratchpad. -/
def pointing : State := regs [(33, 0x48), (34, 0x1FFF8), (2, 0x1122334455667788), (3, 1)]
/-! Results worked out from the spec. -/

/-- R76: under SAT with T1 = 3 the sum clamps to 2^63 - 1. -/
theorem test_add_clamps :
    nextIs (exec (.add (q 1 2 3 0 3 0 1)) (regs [(2, 0x7FFFFFFFFFFFFFFF), (3, 1)]))
      (fun t => t.sa 1 == 0x7FFFFFFFFFFFFFFF) = true := by decide +kernel
/-- R76: without SAT it wraps. -/
theorem test_add_wraps :
    nextIs (exec (.add (q 1 2 3)) (regs [(2, 0xFFFFFFFFFFFFFFFF), (3, 2)])) (fun t => t.sa 1 == 1) = true := by
  decide +kernel
/-- R77: the quotient is truncated toward zero; -7 / 2 is -3. -/
theorem test_div_truncates :
    nextIs (exec (.div (q 1 2 3)) (regs [(2, 0xFFFFFFFFFFFFFFF9), (3, 2)])) (fun t => t.sa 1 == 0xFFFFFFFFFFFFFFFD) = true := by
  decide +kernel
/-- R77: the remainder takes the sign of the dividend. -/
theorem test_rem_sign :
    nextIs (exec (.rem (q 1 2 3)) (regs [(2, 0xFFFFFFFFFFFFFFF9), (3, 2)])) (fun t => t.sa 1 == 0xFFFFFFFFFFFFFFFF) = true := by
  decide +kernel
/-- R17: a write to s0 is discarded. -/
theorem test_s0_discards :
    nextIs (exec (.addi (im 0 2 0 5)) (regs [(2, 1)])) (fun t => t.sa 0 == 0 && t.my.pc == 1) = true := by decide +kernel
/-- Table 4-5: GT is not taken on equal operands. -/
theorem test_br_gt_equal :
    nextIs (exec (.br (br 2 7 0 0 4)) (regs [(2, 0)])) (fun t => t.my.pc == 1) = true := by decide +kernel
/-- R84: LOOP decrements and takes while the count is not zero; the line is 4 lines on. -/
theorem test_loop_takes :
    nextIs (exec (.loop (br 2 0 0 2 4)) (regs [(2, 5)])) (fun t => t.sa 2 == 4 && t.my.pc == 0x102) = true := by
  decide +kernel

/-! Witnesses. -/

theorem witness_SaturatingArithmetic :
    base.guard 0 0 = true ∧ okSat 0 0 = true ∧ okSat 1 3 = true ∧ okSat 1 7 = true := by decide +kernel
theorem witness_Division :
    let s := regs [(2, 7)]
    s.guard 0 0 = true ∧ s.sa 2 ≠ 0 ∧ s.sa 3 = 0 := by decide +kernel
theorem witness_ScalarLogic :
    base.guard 0 0 = true ∧ okCmp 2 0 = true ∧ okCmp 3 9 = true ∧ okP 48 = true := by decide +kernel
theorem witness_GuardedOff :
    base.isControl = true ∧ base.cur.forwarded = none ∧ base.guard 0 1 = false ∧
      (inCtx 3).isControl = false ∧ (inCtx 3).guard 0 1 = false ∧ (mem 1 32 0 0 3).am ≠ 4 := by decide +kernel
theorem witness_Moves :
    base.guard 0 0 = true ∧ okSAK 1 = true ∧ okK 56 = true ∧ base.isControl = true ∧ (inCtx 1).isControl = false ∧
      (inCtx 1).guard 0 0 = true ∧ okK 2 = false := by decide +kernel
theorem witness_MovesInFollower :
    let s := { base with cur := { base.cur with forwarded := some { taken := true, next := 0, guard := true } } }
    s.guard 0 0 = true ∧ s.cur.forwarded.isSome = true ∧ s.guard 0 1 = false := by decide +kernel
theorem witness_ControlRegisters :
    base.guard 0 0 = true ∧ okCr 0x020 = true ∧ okCr 0x12F = true ∧ base.isControl = true ∧
      0x100 ∉ [0x020, 0x021, 0x040, 0x041, 0x060, 0x070] ∧ (inCtx 11).isControl = false := by decide +kernel
theorem witness_Branches :
    let s := regs [(2, 1), (3, 0x40), (4, 0x3F)]
    s.cur.forwarded = none ∧ okPc s.my.pc = true ∧ s.guard 0 0 = true ∧ okS 5 = true ∧ legalBr (br 2 1 5 4 1) = true ∧
      taken84 s (br 2 1 5 4 1) = true ∧ taken84 s (br 2 0 5 4 1) = false ∧ s.sa 2 - 1 = 0 ∧ s.sa 3 - 1 ≠ 0 ∧
      ((s.sa 3).extractLsb' 3 3 = 0 ∧ ((s.sa 3).extractLsb' 0 3).toNat ≤ 4) ∧
      ¬ ((s.sa 4).extractLsb' 3 3 = 0 ∧ ((s.sa 4).extractLsb' 0 3).toNat ≤ 4) := by decide +kernel


/-- R87, R354: TRAP holds its PC, its class is 19 and FLTREC2[63:56] is zero over IMM32. -/
theorem test_trap_record :
    nextIs (exec (.trap (im 0 0 0 0x1234)) supervised) (fun t =>
      t.me.fltrec.w1 == 0 && t.me.fltrec.w2 == 0x1234 && t.me.fltrec.w0.extractLsb' 16 8 == 19 && t.my.stop.isSome) = true := by
  decide +kernel
/-- R88: a CHK that fails holds 0x01, the tag, the condition and the low word compared. -/
theorem test_chk_fails :
    nextIs (exec (.chk (im 0 2 0 8 5 3 6)) (regs [(2, 9)])) (fun t => t.me.fltrec.w2 == 0x0105600000000009) = true := by
  decide +kernel
/-- R15: a vector instruction in a helper is ILLEGAL, class 1, over word bits [95:32]. -/
theorem test_vector_in_helper :
    nextIs (exec (.vadd (v 64 65 66)) (inCtx 1)) (fun t => t.me.fltrec.w0.extractLsb' 16 8 == 1 &&
      t.me.fltrec.w2 == 0x2000404142000000) = true := by decide +kernel
/-- R93: HALT stores its exit code. -/
theorem test_halt_exit :
    nextIs (exec (.halt (im 0 0 0 7)) base) (fun t => t.my.halted && !t.my.live && t.me.exit == 7) = true := by decide +kernel
/-- R92: SYSC waits and sends s2 and s3. -/
theorem test_sysc_sends :
    nextIs (exec (.sysc (im 0 0 0 2)) (regs [(2, 5), (3, 6)]))
      (fun t => t.my.wait.isSome && t.sysc.length == 1 && t.sysc.all (fun r => r.service == 2 && r.s2 == 5 && r.s3 == 6)) = true := by
  decide +kernel
/-- R82, Table 1-7: WAITTH clamps to 1,024 from below. -/
theorem test_mtc_clamps :
    nextIs (exec (.mtc (im 0 2 0 0x020)) (regs [(2, 5)])) (fun t => t.readCr 0x020 == 0 || t.me.waitth == 1024) = true := by
  decide +kernel

theorem witness_TakingAFault :
    FaultClass.trap ≠ .uce ∧ (supervised.gang? supervised.me.gid).isSome = true ∧
      (∃ g ∈ base.gangs, g.supervisor = none) ∧ State.reset.gang? State.reset.me.gid = none := by decide +kernel
theorem witness_TrapsAndChecks :
    let s := regs [(2, 9)]
    s.guard 0 0 = true ∧ legalChk (im 0 2 0 8 5 3 6) = true ∧ legalChk (im 0 2 0 8 255 2 9) = true ∧
      decode 0x118000000000000000000001 = .ok (.trap (im 0 0 0 1)) := by decide +kernel
theorem witness_Classes :
    (inCtx 3).isControl = false ∧ (inCtx 11).isHod = true ∧ base.isHod = false ∧ base.isControl = true ∧
      (encode (.vadd (v 64 65 66))).isSome = true ∧ (encode (.hend (e 0 0 0 0))).isSome = true ∧ base.guard 0 0 = true ∧
      (1 ≤ (inCtx 10).cur.ctx.val ∧ (inCtx 10).cur.ctx.val ≤ 10) ∧ (encode (.cpyc (e 1 0 0 0 1))).isSome = true := by
  decide +kernel
theorem witness_SystemCalls :
    base.guard 0 0 = true ∧ base.my.wait = none ∧
      base.sysc.any (fun r => r.gid == base.me.gid && r.core == base.cur.core && r.ctx == base.cur.ctx.val) = false := by
  decide +kernel
/-- A call of service 0 and one of an unknown service, each alone. -/
def calling (n : BitVec 16) : State := { forCore base 0 0 with
  sysc := [{ core := 0, ctx := 0, gid := 1, service := n, since := 0, begun := false, s2 := 5, s3 := 6, answer := none }] }
theorem witness_SystemReplies :
    (calling 0).serving = true ∧ (calling 0).gang? (calling 0).cur.args.gid = some loadedGang ∧
      loadedGang.state ≠ .saved ∧ loadedGang.saveDone = false ∧ (calling 3).serving = true ∧
      (calling 3).sysc.length = 1 ∧ (calling 3).cur.args.core = 0 ∧ (calling 3).cur.args.gid = 1 ∧
      (calling 3).sysc.all (fun r => r.core == 0 && r.gid == 1 && r.ctx == 0 && r.answer.isNone && r.service == 3) = true ∧ 3 ≤ (3#16).toNat := by decide +kernel
/-- R92: the reply of service 0 gives status 0; that of a service which Table 4-10 does not list gives 1. -/
theorem test_sysc_reply :
    nextIs (exec .syscReply (calling 0)) (fun t => t.sa 1 == 0 && t.sa 2 == 5 && t.my.pc == 1) = true ∧
    nextIs (exec .syscReply (calling 9)) (fun t => t.sa 1 == 1) = true := by decide +kernel

/-- The handler h10 of the supervisor core, with one context of that core stopped by a fault. -/
def handling (cls : FaultClass) (pc : Word) : State :=
  let stopped := { Context.reset with live := true, stop := some { cls := cls, pc := pc } }
  let c := { loadedCore with ctxs := loadedCore.ctxs.setIfInBounds 2 stopped }
  { supervised with cores := [(0, c)], cur := { supervised.cur with ctx := 10 } }
theorem witness_Tret :
    let s := (handling .prot 0x40).setSA 2 0x20000
    (inCtx 3).isHandler = false ∧ s.isHandler = true ∧ s.guard 0 0 = true ∧ s.namedCore (s.sa 2) = some 0 ∧
      ((s.core 0).ctx ((s.sa 2).extractLsb' 16 4).toNat).stop.isSome = true ∧
      ((s.core 0).ctx ((s.sa 0).extractLsb' 16 4).toNat).stop = none ∧
      s.namedCore 0x3F = none ∧ 12 ≤ ((0xF0000 : Word).extractLsb' 16 4).toNat := by decide +kernel
/-- R91: action 1 goes on at the PC that follows the fault's. -/
theorem test_tret_action :
    let s := forCore { handling .prot 0x44 with posts := [.tret 0 2 1] } 0 2
    nextIs (exec .tretActionArrival s) (fun t => ((t.core 0).ctx 2).pc == 0x80 && ((t.core 0).ctx 2).stop.isNone) = true := by
  decide +kernel
theorem witness_Resumes :
    let s := forCore { handling .resFmt 0x44 with posts := [.tret 0 2 1] } 0 2
    s.posts = [.tret s.cur.args.core s.cur.args.ctx.val 1] ∧ ((s.core 0).ctx 2).stop.isSome = true ∧
      (FaultClass.resFmt ≠ .barTimeout) ∧ (s.cur.args.ctx.val ≠ 0 ∨ s.leader 0 = none) := by decide +kernel
theorem witness_Halt :
    base.isControl = true ∧ (inCtx 11).isHod = true ∧ base.me.dcache = [] ∧ base.cur.forwarded = none ∧
      base.guard 0 0 = true ∧ base.guard 0 1 = false := by decide +kernel
/-- A fault record in the supervisor's mailbox. -/
def record1 : Message := { kind := 1, ctx := 2, vx := 0, vy := 0, data := 0 }
/-- A machine in which it lies there. -/
def recorded : State :=
  forCore ({ supervised with cores := [(0, { loadedCore with mbox := [record1] })] }) 0 0
theorem witness_Handler :
    (∀ g ∈ recorded.gangs, g.supervisor = some 0 ∧ g.state = .running ∧ g.stopping = false ∧ g.fate = none) ∧
      recorded.gang? recorded.cur.args.gid = some { loadedGang with supervisor := some 0 } ∧
      ((recorded.core 0).ctx 10).live = false ∧ (∃ m ∈ (recorded.core 0).mbox, m.kind = 1) := by decide +kernel
theorem witness_Arrivals :
    let m : Message := { kind := 0, ctx := 0, vx := 0, vy := 0, data := 0 }
    let s := forCore { base with posts := [.event 0 255 true, .message 0 m] } 0 0
    s.posts = [] ++ .event s.cur.args.core 255 true :: [.message 0 m] ∧
      s.posts = [.event 0 255 true] ++ .message s.cur.args.core m :: [] ∧ (∀ p ∈ [Post.event 0 255 true], p ≠ .message 0 m) ∧
      ((s.core 0).mbox.filter (fun k => k.kind == m.kind)).length < (if m.kind = 0 then 16 else 64) := by decide +kernel

/-! The lanes. -/

/-- R101: 1.5 + 2.5 is 4.0 in the lanes that k0 selects. -/
theorem test_vadd :
    nextIs (exec (.vadd (v 67 65 66)) ((lanes 0x3FC00000 0x40200000).modMe (fun c => { c with k := c.k.setIfInBounds 0 2 })))
      (fun t => lane t 67 0 == 0x40800000 && lane t 67 1 == 0) = true := by decide +kernel
/-- R32: 1 / 0 is infinity and raises DZ. -/
theorem test_vdiv_by_zero :
    nextIs (exec (.vdiv (v 67 65 66)) ((lanes 0x3F800000 0).modMe (fun c => { c with k := c.k.setIfInBounds 0 2 })))
      (fun t => lane t 67 0 == 0x7F800000 && t.me.fpflags == 8) = true := by decide +kernel
theorem witness_Lanes :
    let s := (lanes 1 2).modMe (fun c => { c with k := c.k.setIfInBounds 0 2 })
    s.isControl = true ∧ s.guard 0 0 = true ∧ s.active 0 = true ∧ s.active 1 = false ∧ okFloat 8 = true ∧ okFloat 11 = true ∧
      legalVcmp (v 57 65 66 0 2 9) = true ∧ legalVcmp (v 57 65 66 0 8 0) = true := by decide +kernel
theorem witness_Formats :
    (∃ c < 256, (f8.value false c).1 ≠ .nan) ∧ (f8.value false 0).1 ≠ .nan := by
  refine ⟨⟨0, by decide, ?_⟩, ?_⟩ <;> decide +kernel

/-- Lane 0 alone is active. -/
def oneLane (a b : Lane) : State := (lanes a b).modMe (fun c => { c with k := c.k.setIfInBounds 0 (BitVec.allOnes 64 - 1) })
/-- R108: int8 saturation: 127 + 1 is 127, in the low 8 bits of the lane. -/
theorem test_viadd_saturates :
    nextIs (exec (.viadd { v 67 65 66 with sat := 1 }) (oneLane 0x7F 1)) (fun t => lane t 67 0 == 0x7F && lane t 67 1 == 0) = true := by
  decide +kernel
/-- R108: a count is taken modulo the width: 9 is 1 for int8. -/
theorem test_vshl_modulo :
    nextIs (exec (.vshl (v 67 65 66)) (oneLane 0x41 9)) (fun t => lane t 67 0 == 0x82) = true := by decide +kernel
/-- R109: inactive lanes enter the sum as minus zero. -/
theorem test_vrsum :
    nextIs (exec (.vrsum (v 1 65 0 0 8)) (oneLane 0x40400000 0)) (fun t => t.sa 1 == 0x40400000) = true := by decide +kernel
/-- R113: KFIRST of an empty mask is 64. -/
theorem test_kfirst_empty :
    nextIs (exec (.kfirst (v 1 57 0)) base) (fun t => t.sa 1 == 64) = true := by decide +kernel
/-- R114: a send off the edge is discarded. -/
theorem test_vnsend_edge :
    nextIs (exec (.vnsend (v 0 65 0 0 0 0 0 2)) (lanes 1 1)) (fun t => t.posts.isEmpty && t.my.pc == 1) = true := by decide +kernel
/-- R37: the reserved L8 code in an active lane is RESFMT. -/
theorem test_vlmul_reserved :
    nextIs (exec (.vlmul (v 67 65 66 0 12)) (oneLane 0xC0 1)) (fun t => t.me.fltrec.w0.extractLsb' 16 8 == 4) = true := by
  decide +kernel

theorem witness_IntegerLanes :
    let s := oneLane 5 3
    s.isControl = true ∧ s.guard 0 0 = true ∧ okInt 0 = true ∧ okInt 6 = true ∧ s.active 0 = true ∧ s.active 63 = false := by
  decide +kernel
theorem witness_VectorForms :
    let s := (oneLane 5 3).modMe (fun c => { c with k := c.k.setIfInBounds 2 3 })
    s.isControl = true ∧ s.guard 0 0 = true ∧ ((s.kreg 58).getLsbD 0 && s.active 0) = true ∧ 1 ≤ (v 1 65 66 0 0 0 1).var.toNat := by
  decide +kernel
/-- Two cores side by side in one gang. -/
def pair : State :=
  let g := { loadedGang with w := 2, cores := [0, 1] }
  let other := { loadedCore with vx := 1, gwm1 := 1 }
  { base with gangs := [g], cores := [(0, { loadedCore with gwm1 := 1 }), (1, other)] }
theorem witness_Channels :
    let s := { forCore base 0 0 with posts := [.channel 0 0 0 (Vector.replicate 64 1)] }
    s.isControl = true ∧ s.guard 0 0 = true ∧ base.neighbour 0 2 = none ∧ base.neighbour 0 3 = none ∧
      pair.neighbour 0 0 = some 1 ∧ base.posts = [] ∧ s.cur.args.index < 4 ∧
      s.posts = [] ++ .channel s.cur.args.core s.cur.args.index 0 (Vector.replicate 64 1) :: [] ∧ 0 ≤ s.clk := by
  decide +kernel
theorem witness_Logarithmic :
    okL 12 = true ∧ okL 13 = true ∧ okLaneType 13 = true ∧ okLaneType 8 = true ∧ (oneLane 0xC0 1).active 0 = true ∧
      (lane (oneLane 0xC0 1) 65 0).toNat % 2 ^ 8 = 2 ^ 7 + 2 ^ 6 ∧ (lane (oneLane 0x30 1) 65 0).toNat % 2 ^ 6 = 2 ^ 5 + 2 ^ 4 ∧
      (∀ n, n < 64 → ((oneLane 1 1).active n && decide ((lane (oneLane 1 1) 65 n).toNat % 2 ^ 8 = 2 ^ 7 + 2 ^ 6)) = false) := by
  decide +kernel

theorem witness_ScalarLoads :
    (∃ ps, reaches pointing (mem 1 33 0 0 3) { r := true } (offsets 0 (offset120 pointing (mem 1 33 0 0 3)) 8) ps) ∧
    (∃ ps, reaches pointing (mem 1 34 0 1 3) { r := true } (offsets 0 (offset120 pointing (mem 1 34 0 1 3)) 8) ps) ∧
    (∃ ps, reaches pointing (mem 56 34 0 1 3) { r := true } (offsets 0 (offset120 pointing (mem 56 34 0 1 3)) 8) ps) ∧
    (offset120 pointing (mem 1 33 0 0 3)).toNat % 8 = 0 ∧ (offset120 pointing (mem 1 33 0 0 3 1)).toNat % 8 ≠ 0 :=
  ⟨reaches_of (by decide +kernel), reaches_of (by decide +kernel), reaches_of (by decide +kernel), by decide +kernel,
    by decide +kernel⟩
theorem witness_ScalarStores :
    (∃ ps, reaches pointing (mem 2 33 0 0 3) { w := true } (offsets 0 (offset120 pointing (mem 2 33 0 0 3)) 8) ps) ∧
    (∃ ps, reaches pointing (mem 2 34 0 1 0) { w := true } (offsets 0 (offset120 pointing (mem 2 34 0 1 0)) 1) ps) ∧
    (∃ ps, reaches pointing (mem 64 34 3 1 0) { w := true } (offsets 0 (plain120 pointing (mem 64 34 3 1 0 0xFFFFFFE8)) 8) ps) ∧
    (plain120 pointing (mem 64 33 3 0 0 0xFFFFFFF8)).toNat % 32 = 0 :=
  ⟨reaches_of (by decide +kernel), reaches_of (by decide +kernel), reaches_of (by decide +kernel), by decide +kernel⟩
/-- Table 6-2: the last byte of the scratchpad in mode 1, and offset 131,072, which is PROT 4. -/
theorem test_local_modes :
    (match base.placeByte 0 0 { am := 1, need := { r := true } } 0 131071 with | .ok p => p.loc == Config.spLoc 0 131071 | _ => false) = true ∧
    (match base.placeByte 0 0 { am := 1, need := { r := true } } 0 131072 with | .error (.fault .prot 4 o) => o == 131072 | _ => false) = true ∧
    (match base.placeByte 0 0 { am := 4, need := { r := true } } 5 256 with | .error (.fault .prot 4 _) => true | _ => false) = true := by decide +kernel
/-- R125: a byte loads sign-extended under VAR 01. -/
theorem test_ld_sign :
    let s := { pointing with mem := pointing.mem.write (Config.spLoc 0 0x1FFF8) 0x80 }
    nextIs (exec (.ld (mem 1 34 0 1 0 0 0 0 0 0 0 1)) s) (fun t => t.sa 1 == 0xFFFFFFFFFFFFFF80) = true := by decide +kernel
/-- R125: a store writes its low bytes, the least first, and no other. -/
theorem test_st_bytes :
    nextIs (exec (.st (mem 2 34 0 1 1)) pointing) (fun t => t.mem.read (Config.spLoc 0 0x1FFF8) == 0x88 &&
      t.mem.read (Config.spLoc 0 0x1FFF9) == 0x77 && t.mem.read (Config.spLoc 0 0x1FFFA) == 0) = true := by decide +kernel
/-- Table 6-3: an address in no window is WINMISS, class 5. -/
theorem test_ld_winmiss :
    nextIs (exec (.ld (mem 1 33 0 0 3)) (regs [(33, 0x20000)])) (fun t => t.me.fltrec.w0.extractLsb' 16 8 == 5 &&
      t.me.fltrec.w2 == 0x20000) = true := by decide +kernel
theorem witness_InForce : InForce27 base 0 0 (base.core 0).windows := .inl ⟨by decide +kernel, by decide +kernel, rfl⟩
theorem witness_InForceHeld :
    let w := { kind := .evwait, since := 0, limit := 9 : Wait }
    InForce27 (ctxWith (fun x => { x with wait := some w, held := (base.core 0).windows })) 0 0 (base.core 0).windows :=
  .inr ⟨by decide +kernel, by decide +kernel, by decide +kernel⟩
theorem witness_Windows :
    let c := base.core 0
    (c.vwl.getD 0 0).getLsbD 8 = true ∧ (c.vwl.getD 1 0).getLsbD 8 = false ∧ (c.vwi.getD 0 0).getLsbD 2 = true ∧
      ((c.vwl.getD 0 0).extractLsb' 0 6).toNat = 16 := by decide +kernel
theorem witness_Leaves :
    (match base.leafOf (clusterOf 0) 0 0x40 with
     | .ok l => (l.leaf.extractLsb' 60 4).toNat == 0 && l.leaf.extractLsb' 4 2 != 3 && l.leaf.extractLsb' 6 2 != 3 &&
         l.leaf.getLsbD 1 && l.leaf.getLsbD 2 && !l.leaf.getLsbD 8 && !l.leaf.getLsbD 57 && !l.leaf.getLsbD 9
     | _ => false) = true ∧ base.memXlat = [] ∧ base.okPa 0x8040 = true := by decide +kernel

/-- All lanes but lane 3 inactive. -/
def lane3 : State := pointing.modMe (fun c => { c with k := c.k.setIfInBounds 0 (BitVec.allOnes 64 - 8) })
theorem witness_VectorAccesses :
    (∃ ps, reaches lane3 (mem 64 34 0 1 2 0xFFFFFFE8) { r := true } (touched127 lane3 4
      (fun i => offset120 lane3 (mem 64 34 0 1 2 0xFFFFFFE8) + BitVec.ofNat 64 (i * 4))) ps) ∧
    (∃ ps, reaches lane3 (mem 64 33 0 0 0) { w := true } (touched127 lane3 1 (fun _ => 0x48)) ps) ∧
    (∃ ps, reaches lane3 (mem 64 34 0 1 0 0xFFFFFFE8) { r := true } (offsets 0 (plain120 lane3 (mem 64 34 0 1 0 0xFFFFFFE8)) 32) ps) ∧
    (plain120 lane3 (mem 64 34 0 1 0 0xFFFFFFE8)).toNat % 32 = 0 ∧ (plain120 lane3 (mem 64 34 0 1 0)).toNat % 32 ≠ 0 ∧
    lane3.isControl = true ∧ lane3.guard 0 0 = true :=
  ⟨reaches_of (by decide +kernel), reaches_of (by decide +kernel), reaches_of (by decide +kernel), by decide +kernel,
    by decide +kernel, by decide +kernel, by decide +kernel⟩
/-- R129: lane i takes the element at the offset i times its size beyond. -/
theorem test_ldv_lane :
    let s := { lane3 with mem := lane3.mem.write (Config.spLoc 0 12) 7 }
    nextIs (exec (.ldv (mem 65 35 0 1 2)) s) (fun t => lane t 65 3 == 7) = true := by decide +kernel
theorem witness_Atomics :
    (∃ ps, reaches pointing (mem 1 33 2 0 3) { r := true, w := true } (offsets 0 (plain120 pointing (mem 1 33 2 0 3)) 8) ps) ∧
    (∃ ps, reaches pointing (mem 1 34 2 1 2) { r := true, w := true } (offsets 0 (plain120 pointing (mem 1 34 2 1 2)) 4) ps) ∧
    (plain120 pointing (mem 1 33 2 0 3)).toNat % 8 = 0 ∧ (plain120 pointing (mem 1 33 2 0 3 4)).toNat % 8 ≠ 0 ∧ okSA 1 = true :=
  ⟨reaches_of (by decide +kernel), reaches_of (by decide +kernel), by decide +kernel, by decide +kernel, by decide +kernel⟩
/-- R133: an AMOADD in the scratchpad gives the old value and stores the sum. -/
theorem test_amoadd :
    let s := { pointing with mem := pointing.mem.write (Config.spLoc 0 0x1FFF8) 5 }
    nextIs (exec (.amoadd (mem 1 34 3 1 3)) s) (fun t => t.sa 1 == 5 && t.mem.read (Config.spLoc 0 0x1FFF8) == 6) = true := by
  decide +kernel
/-- R134: AMOCAS stores only where the old value is reg(V). -/
theorem test_amocas_unequal :
    nextIs (exec (.amocas (mem 3 34 2 1 3)) pointing) (fun t => t.sa 3 == 0 && t.mem.read (Config.spLoc 0 0x1FFF8) == 0) = true := by
  decide +kernel

/-- A dirty line of class SI at 0x8040, of the core's partition and tag. -/
def siLine : CacheLine :=
  { part := 0, line := 1, loc := 0x8040, tag := 0, era := 0, coh := 1, gran := 1, data := BitVec.ofNat 512 0x5A, dirty := 1 }
/-- A core that holds it, on a page whose leaf is SI. -/
def withLine : State :=
  let s := { pointing with mem := pointing.mem.writeBytes 0x5000 (bytesOfNat 8 0x805F) }
  s.modMe (fun c => { c with dcache := [siLine] })
/-- R316: a release fence at .dev writes the dirty byte home and keeps the line. -/
theorem test_fence_release :
    nextIs (exec (.fenceSs (im 0 0 0 0x405 0 0 0 1)) withLine) (fun t => t.mem.read 0x8040 == 0x5A &&
      t.me.dcache == [{ siLine with dirty := 0 }]) = true := by decide +kernel
/-- R261, R316: a full fence at .core writes the dirty byte home too, and keeps the line. -/
theorem test_fence_core :
    nextIs (exec (.fence (im 0 0 0 0)) withLine) (fun t => t.mem.read 0x8040 == 0x5A && t.me.dcache == [{ siLine with dirty := 0 }]) = true := by
  decide +kernel
theorem witness_Fences :
    Intact withLine ∧ withLine.guard 0 0 = true ∧ withLine.me.dcache.filter (fun l => l.coh == 1) = [siLine] ∧
      (im 0 0 0 0x405).imm.extractLsb' 8 3 ≠ 0 ∧ (im 0 0 0 5).imm.extractLsb' 8 3 = 0 := ⟨⟨rfl, rfl⟩, by decide +kernel⟩
/-- The one place of a CMO's line. -/
def oneLineOk (s : State) (f : FM) (need : Need) (upkeep : Bool) : Bool :=
  decide ((s.sa f.idx).toNat ≤ 1048576) &&
  decide ((plain120 s f).toNat / 64 = (plain120 s f + BitVec.ofNat 64 (max (s.sa f.idx).toNat 1 - 1)).toNat / 64) &&
  s.cores.all (fun c => !c.2.resil) && s.errs.isEmpty && s.bad.isEmpty &&
  match s.places s.cur.core s.cur.ctx.val { access119 s f need with upkeep := upkeep, unread := true } [(0, (plain120 s f) &&& ~~~63)] with
  | .ok [_] => true
  | _ => false
theorem oneLine_of {s : State} {f : FM} {need : Need} {u : Bool} (h : oneLineOk s f need u = true) : ∃ p, OneLine s f need u p := by
  unfold oneLineOk at h
  simp only [Bool.and_eq_true, decide_eq_true_eq] at h
  obtain ⟨⟨⟨⟨⟨h1, h2⟩, h3⟩, h5⟩, h6⟩, h4⟩ := h
  split at h4
  · rename_i p e
    exact ⟨p, h1, h2, e, fun n => by simpa using all_cores (fun c => !c.resil) h3 rfl n, by simpa using h5, by simpa using h6⟩
  · cases h4
/-- The place of a CMO ZERO's line meets nothing that `Plain` shuts out. -/
theorem zero_of {s : State} {f : FM} (h : oneLineOk s f { r := true, w := true } false = true)
    (t : s.cores.all (fun c => tidy c.2) = true) (l : s.setCore s.cur.core s.me = s)
    (p : (match s.places s.cur.core s.cur.ctx.val { access119 s f { r := true, w := true } with upkeep := false, unread := true }
      [(0, (plain120 s f) &&& ~~~63)] with | .ok [p] => !p.si && decide (p.loc < 2 ^ 70) | _ => false) = true) :
    ∃ p, OneLine s f { r := true, w := true } false p ∧ Plain s [p] ∧ p.loc < 2 ^ 70 := by
  obtain ⟨q, o⟩ := oneLine_of h
  rw [o.place] at p
  simp only [Bool.and_eq_true, Bool.not_eq_true', decide_eq_true_eq] at p
  exact ⟨q, o, ⟨by simpa using p.1, fun n => (tidy_of t n).1, fun n => (tidy_of t n).2, o.intact, l⟩, p.2⟩
theorem witness_CacheMaintenance :
    (∃ p, OneLine withLine (mem 0 33 3 0 0) { r := true } true p) ∧
    (∃ p, OneLine withLine (mem 0 33 3 0 0) { r := true, w := true } true p) ∧
    (∃ p, OneLine pointing (mem 0 33 0 0 0 0xFFFFFFF8) { r := true, w := true } false p ∧ Plain pointing [p] ∧ p.loc < 2 ^ 70) ∧
    (pointing.sa 0).toNat % 64 = 0 ∧
    1048576 < (pointing.sa 2).toNat ∧ (plain120 pointing (mem 0 33 3 0 0)).toNat % 64 ≠ 0 ∧
    (plain120 pointing (mem 0 33 3 0 0 0xFFFFFFF8)).toNat % 64 = 0 :=
  ⟨oneLine_of (by decide +kernel), oneLine_of (by decide +kernel), zero_of (by decide +kernel) (by decide +kernel) (by decide +kernel) (by decide +kernel),
    by decide +kernel, by decide +kernel, by decide +kernel, by decide +kernel⟩

/-- A monitor of the control context, hit or not. -/
def watching (hit : Bool) : State :=
  let m : Monitor := { core := 0, ctx := 0, reg := 1, sector := Config.spLoc 0 0 / 32, am := 1, gid := 1, hit := hit }
  forCore { pointing with monitors := [m] } 0 0
theorem witness_Monitors :
    pointing.monitorOf 0 0 = none ∧ pointing.my.wait = none ∧ (watching true).monitors.length = 1 ∧
      ((watching true).monitorOf 0 0).isSome = true ∧ (watching true).monitors.all (·.hit) = true ∧
      (watching false).cur.args.index = 0 ∧
      (match pointing.placeByte 0 0 (access119 pointing (mem 1 34 2 1 3) { r := true }) 0 (plain120 pointing (mem 1 34 2 1 3)) with
       | .ok _ => true | _ => false) = true ∧ (plain120 pointing (mem 1 34 2 1 3)).toNat % 8 = 0 := by decide +kernel
theorem witness_MonitoredCompare :
    ∃ ps, reaches pointing (mem 1 34 2 1 3) { r := true } (offsets 0 (plain120 pointing (mem 1 34 2 1 3)) 8) ps :=
  reaches_of (by decide +kernel)
/-- R139: MONADDR holds the sector with bit 0 set, and the context waits. -/
theorem test_waitm_arms :
    nextIs (exec (.waitm (mem 1 34 2 1 3)) pointing) (fun t => t.my.monaddr == 0x1FFE1 && t.my.wait.isSome && t.my.pc == 0) = true := by
  decide +kernel
/-- Table 6-7: the compare form ends with reason 4 where the value differs. -/
theorem test_waitm_cmp :
    nextIs (exec (.waitmCmp (mem 1 34 2 1 3 0 0 0 0 0 0 1)) pointing) (fun t => t.sa 1 == 4 && t.my.pc == 1) = true := by
  decide +kernel
/-- A core whose context waits for a reply, and one that has a condition to report. -/
def replying (r : Reply) : State := forCore (ctxWith (fun c => { c with replies := [r] })) 0 0
theorem witness_Replies :
    ((replying (.word 5 9)).core 0).ctx 0 = { ((base.core 0).ctx 0) with replies := [.word 5 9] } ∧ okK 5 = false ∧ okK 57 = true ∧
      okV 64 = true ∧ okT 96 = true ∧ base.my.wait = none ∧ (base.core 0).mode = .attached ∧
      base.gangOf 0 = some loadedGang ∧ 4 = 4 + 2 * ((loadedGang.w + 7) / 8 - 1) + 2 * ((loadedGang.h + 3) / 4 - 1) := by
  decide +kernel
/-- R208: the reply of a load writes its register. -/
theorem test_reply :
    nextIs (exec .memoryReply (replying (.word 5 9))) (fun t => t.sa 5 == 9 && t.my.replies.isEmpty) = true := by decide +kernel

/-! Tiles. -/

/-- t0 is 2 rows of 4 F32 elements, t1 the same, t2 4 rows of 4. -/
def shaped : State := coreWith (fun c =>
  { c with tshp := ((c.tshp.setIfInBounds 0 0x80204).setIfInBounds 1 0x80204).setIfInBounds 2 0x80404 })
/-- R148: TSET writes the shape, TGET reads it with its extent of 16,384 / 4,096 bytes at reset. -/
theorem test_tget :
    nextIs (exec (.tget (im 1 96 0 0)) base) (fun t => t.sa 1 == 0x0000100000082020) = true := by decide +kernel
theorem test_tset :
    nextIs (exec (.tset (im 96 0 0 0x92040)) base) (fun t => t.me.tshp.getD 0 0 == 0x92040) = true := by decide +kernel
theorem witness_Tiles :
    let d := shaped.me.shape 96
    shaped.isControl = true ∧ shaped.guard 0 0 = true ∧ d.ty = 8 ∧ (shaped.sa 2).toNat % 64 < d.rows ∧
      (regs [(2, 63)]).me.shape 96 = base.me.shape 97 ∧ (base.me.shape 96).rows ≤ ((regs [(2, 63)]).sa 2).toNat % 64 ∧
      (mem 96 34 0 1 0).idx = 0 ∧ shaped.me.seq.instr = none := by decide +kernel
theorem witness_TileAccess :
    (∃ ps, reaches shaped (mem 96 34 0 1 0) { r := true } (offsets150 shaped (mem 96 34 0 1 0) (shaped.me.shape 96)) ps) ∧
    (∃ ps, reaches shaped (mem 96 34 0 1 0) { w := true } (offsets150 shaped (mem 96 34 0 1 0) (shaped.me.shape 96)) ps) :=
  ⟨reaches_of (by decide +kernel), reaches_of (by decide +kernel)⟩

theorem witness_MacroOperations :
    let x := base.me.shape 96
    base.isControl = true ∧ base.guard 0 0 = true ∧ x.ty = 8 ∧ base.me.tshpOf 97 = base.me.tshpOf 96 ∧
      shaped.me.tshpOf 96 ≠ shaped.me.tshpOf 98 ∧ base.my.afterGissue = false ∧ x.rows = x.cols ∧
      (ctxWith (fun c => { c with afterGissue := true })).my.afterGissue = true := by decide +kernel
/-- A core whose t0 is of type L8 with the reserved code as element 1. -/
def reservedTile : State := coreWith (fun c =>
  { c with tshp := (c.tshp.setIfInBounds 0 0xC0204).setIfInBounds 1 0x80204, t := c.t.setIfInBounds 0 0xC000 })
theorem witness_ReservedCode :
    (reservedTile.me.shape 96).ty = 12 ∧ elem (reservedTile.treg 96) 8 1 = 0xC0 ∧ elem (reservedTile.treg 96) 8 0 ≠ 0xC0 ∧
      ((reservedTile.me.shape 96).rows, (reservedTile.me.shape 96).cols) = ((reservedTile.me.shape 97).rows, (reservedTile.me.shape 97).cols) := by
  decide +kernel
/-- R152: a product that does not follow GISSUE is ILLEGAL; R144: a step count is the rows of D. -/
theorem test_tmma_needs_gissue :
    nextIs (exec (.tmma (ti 98 96 97 8 8 8)) base) (fun t => t.me.fltrec.w0.extractLsb' 16 8 == 1) = true := by decide +kernel
theorem test_tzero_enters :
    nextIs (exec (.tzero (ti 96 0 0)) shaped) (fun t => t.me.seq.total == 2 && t.me.seq.busy && t.my.pc == 1) = true := by
  decide +kernel
/-- A sequencer that runs a macro-operation. -/
def running (i : Instr) (total : Nat) (joining : Bool := false) : State :=
  (forCore base 0 0).modMe (fun c => { c with
    tshp := ((c.tshp.setIfInBounds 0 0x80204).setIfInBounds 1 0x80204).setIfInBounds 2 0x80204
    t := (c.t.setIfInBounds 0 0x3F800000).setIfInBounds 1 0x40000000
    seq := { c.seq with instr := some i, busy := true, joining := joining, guard := true, total := total } })
theorem witness_Steps :
    let s := running (.tadd (ti 98 96 97 8 8 8)) 2
    (s.core s.cur.args.core).seq.busy = true ∧ (s.core s.cur.args.core).seq.joining = false ∧
      (s.core s.cur.args.core).seq.since ≤ s.clk ∧ (s.core s.cur.args.core).seq.instr = some (.tadd (ti 98 96 97 8 8 8)) ∧ ((s.core 0).shape 98).ty = 8 := by decide +kernel
/-- R157: a step of TADD adds row 0: 1.0 and 2.0 give 3.0. -/
theorem test_tadd_step :
    nextIs (exec .sequencerStep (running (.tadd (ti 98 96 97 8 8 8)) 2)) (fun t =>
      elem (t.me.tile 98) 32 0 == 0x40400000 && t.me.seq.step == 1 && t.me.seq.busy) = true := by decide +kernel
/-- A product that waits at its join. -/
def joining : State := running (.tmmal (ti 98 96 97 12 12 8)) 1 true
theorem witness_Join :
    joining.segment joining.cur.args.core = [0] ∧ joining.me.seq.joining = true ∧ joining.cur.core = 0 ∧ joining.cur.ctx = 0 ∧
      joining.me.excluded = false ∧ joining.me.seq.guard = true := by decide +kernel
/-- R153: the join completes once every core of the segment has arrived. -/
theorem test_join :
    nextIs (exec .joinCompletion (running (.tmma (ti 98 96 97 8 8 8)) 1 true)) (fun t => !t.me.seq.joining && t.me.seq.busy) = true := by
  decide +kernel

/-! Helpers, bonds, barriers, phases. -/

/-- A state whose helper h1 is live. -/
def helped : State := base.modMe (fun c => c.modCtx 1 (fun x => { x with live := true }))
theorem witness_Helpers :
    base.isControl = true ∧ (inCtx 1).isControl = false ∧ (base.me.ctx 1).live = false ∧ (base.me.ctx 1).ticket = none ∧
      base.gangOf 0 = some loadedGang ∧ loadedGang.supervisor = none ∧ (helped.me.ctx 1).live = true ∧
      (base.me.ctx 11).live = false ∧ (base.me.ctx 11).halted = false ∧ ((helped.me.ctx 1).live = true ∧ helped.my.wait = none) ∧
      (inCtx 11).isHod = true ∧ (inCtx 10).my.shippedTo = none ∧ 1 ≤ (inCtx 10).cur.ctx.val := by decide +kernel
theorem witness_HelperReturn :
    let s := { forCore base 0 3 with posts := [.helperReturn 0 3] }
    Post.helperReturn s.cur.args.core s.cur.args.ctx.val ∈ s.posts := by decide +kernel
/-- R166: HSTART without a helper named starts the lowest free one, its argument in s2. -/
theorem test_hstart_lowest :
    nextIs (exec (.hstart (e 1 0 2 0 1)) (helped.setSA 2 7)) (fun t => t.sa 1 == 2 && (t.me.ctx 2).live &&
      (t.me.ctx 2).sa 2 == 7 && (t.me.ctx 2).pc == 0x40) = true := by decide +kernel
/-- R166: in a helper HSTART answers 3. -/
theorem test_hstart_in_helper :
    nextIs (exec (.hstart (e 1 0 0 0)) (inCtx 2)) (fun t => t.my.sa 1 == 3) = true := by decide +kernel
/-- A stretcher to the east of its neighbour, and one that follows the bond of that neighbour. -/
def stretcher (m : StreamMode) : State :=
  { pair with cores := [(0, { loadedCore with gwm1 := 1, mode := m }), (1, { loadedCore with vx := 1, gwm1 := 1 })],
              cur := { pair.cur with core := 1 } }
theorem witness_Bonds :
    let s := stretcher .bondHeader
    s.isControl = true ∧ s.guard 0 0 = true ∧ s.me.vx ≠ 0 ∧ s.me.mode = .attached ∧ base.me.vx = 0 ∧
      s.peer s.cur.core (s.me.vx.toNat - 1) s.me.vy.toNat = some 0 ∧ (s.core 0).mode = .bondHeader ∧
      ((stretcher .attached).core 0).mode = .attached ∧ okPc (linePc s.my.pc 1 0) = true ∧ okPc (linePc s.my.pc 1 5) = false := by
  decide +kernel
theorem lone_stretcher (n : Nat) : ((stretcher .attached).core n).mode ≠ .follower (stretcher .attached).cur.core := by
  rcases n with _ | _ | n
  · decide +kernel
  · decide +kernel
  · intro h; cases h
/-- A core in a bond, and an origin whose stream holds a GMERGE of label 7. -/
def merging : State :=
  let i : StreamItem := { pc := 0, instr := .gmerge (e 0 0 0 0 7), next := 1, taken := false, guard := true, clk := 3, word := 0,
                          lineWord := 0, last := none, sig := none, again := false }
  { pair with clk := 9, cores := [(0, { loadedCore with gwm1 := 1, stream := [i] }),
              (1, { loadedCore with vx := 1, gwm1 := 1, mode := .bondHeader })], cur := { pair.cur with core := 1 } }
theorem witness_Gattach :
    merging.me.mode ≠ .attached ∧ (merging.gangOf 1).map (·.origin) = some 0 ∧ (merging.core 0).stream.length = 1 ∧
      ((stretcher .attached).core 0).stream = [] ∧ (stretcher .attached).my.wait = none := by decide +kernel
/-- R215: a core that waits since before it takes the GMERGE of its label; without one it waits. -/
theorem test_gattach :
    let w := { kind := .gattach 7, since := 2, limit := 100 : Wait }
    nextIs (exec (.gattach (e 1 0 0 0 7)) (merging.modMy (fun c => { c with wait := some w })))
      (fun t => t.me.mode == .attached && t.sa 1 == 0 && t.me.spos == 1) = true := by decide +kernel
/-- A core whose last arrival at .gang is pending. -/
def arrived : State := (forCore base 0 0).modMe (fun c => { c with bars := c.bars.setIfInBounds 2 { count := 1, pending := true, number := 3 } })
/-- As it, at the completion of the scope .gang: four clocks after the last arrival. -/
def completing : State := { arrived with clk := 4, cur := { arrived.cur with args := { arrived.cur.args with index := 3 } } }
theorem witness_Barriers :
    base.me.phase ≠ .openPhase ∧ (base.me.bars.getD 2 {}).pending = false ∧ base.my.wait = none ∧
      (arrived.me.bars.getD 2 {}).pending = true ∧ (coreWith (fun c => { c with phase := .openPhase })).me.phase = .openPhase := by
  decide +kernel
theorem witness_BarrierCompletion :
    let s := completing
    s.participants s.cur.args.core 3 = [0] ∧ (s.barrierGangs s.cur.args.core 3).all (fun g => g.state == .running) = true ∧
      s.gangOf s.cur.args.core = some loadedGang ∧ (s.gangs.map (·.gid)).Nodup ∧
      ((s.core 0).bars.getD 2 {}).at_ + clocks172 loadedGang s.cur.args.index = s.clk ∧
      [0].Nodup ∧ ((s.core 0).bars.getD 2 {}).pending = true ∧ ((s.core 0).bars.getD 2 {}).number = 3 ∧
      (s.core 0).dcache = [] ∧ (s.core 0).resil = false ∧ s.cur.args.index = 3 := by decide +kernel
/-- R171: BARA arrives and goes on; R172: completion clears the arrival. -/
theorem test_bara :
    nextIs (exec (.bara (e 0 0 0 0 5 3)) base) (fun t => (t.me.bars.getD 2 {}).pending && (t.me.bars.getD 2 {}).number == 5 && t.my.pc == 1) = true := by
  decide +kernel
theorem test_barrier_completes :
    nextIs (exec .barrierCompletion completing) (fun t => !(t.me.bars.getD 2 {}).pending && t.me.barSince) = true := by decide +kernel
/-- A core that has waited for the other of its gang longer than its BTO of 10. -/
def overdue : State :=
  let w := { kind := .barDone 3 none, since := 0, limit := 10 : Wait }
  let c := { loadedCore with gwm1 := 1, bars := loadedCore.bars.setIfInBounds 2 { count := 1, pending := true, number := 3 },
                             ctxs := loadedCore.ctxs.setIfInBounds 0 { Context.reset with live := true, wait := some w } }
  forCore { pair with clk := 11, cores := [(0, c), (1, { loadedCore with vx := 1, gwm1 := 1 })] } 0 0
theorem witness_BarTimeout :
    let s := overdue
    let x := (s.core 0).ctx 0
    x.stop = none ∧ x.halted = false ∧ (s.core 0).parked = false ∧ (s.core 0).seq.joining = false ∧ s.isHeld 0 = false ∧
      x.wait = some { kind := .barDone 3 none, since := 0, limit := 10 } ∧ 10 < s.clk - 0 ∧
      ((s.core 0).bars.getD 2 {}).raised = false ∧ s.participants 0 3 = [0, 1] ∧
      [0, 1].filter (fun n => !((s.core n).bars.getD 2 {}).pending && !((s.core n).ctx 0).halted) = [1] ∧ s.cur.core = 0 := by
  decide +kernel
/-- R172: the operand of BARTIMEOUT: the first absent core, how many are absent, the number and the scope. -/
theorem test_bartimeout :
    nextIs (exec .btoExpiry overdue) (fun t => t.me.fltrec.w0.extractLsb' 16 8 == 15 && t.me.fltrec.w2 == 0x0000000100010303) = true := by
  decide +kernel

/-- The entry: LEN 20, wires 0 to 10. -/
def entry : PlanEntry := BitVec.ofNat 128 (20 + 10 * 2 ^ 32)
/-- A gang whose slot table holds it, its core in phase `p`, at clock `clk`. -/
def phased (p : Phase) (clk : Nat) (ds : List Driving := []) : State :=
  let c := { loadedCore with phase := p, barSince := true }
  forCore { base with clk := clk, gangs := [{ loadedGang with plan := [entry], drivings := ds }], cores := [(0, c)] } 0 0
theorem witness_Exchange :
    sound235 (inForce (phased .compute 0) 0) ∧ (inForce (phased .compute 0) 0).getLsbD 48 = false ∧
      ((phased .compute 0).gangOf 0).map (·.plan.length) = some 1 ∧ (phased .compute 0).me.phase = .compute ∧
      (phased .compute 0).me.barSince = true ∧ (phased .openPhase 3).me.phase = .openPhase ∧
      wired235 entry 10 ∧ (entry.extractLsb' 16 10).toNat ≤ 10 ∧ (10 : Nat) ≤ (entry.extractLsb' 32 10).toNat ∧
      ¬ wired235 entry 960 ∧ (phased .openPhase 20).phaseClock 0 = (phased .openPhase 20).me.phaseStart + (entry.extractLsb' 0 16).toNat ∧
      (phased .openPhase 20).collided 0 = none ∧ (phased .openPhase 20).me.captures = [] ∧ (phased .openPhase 20).my.wait = none ∧
      (inCtx 11).isControl = false := by
  unfold sound235 wired235; decide +kernel
/-- R235: XPH opens the phase at its clock; an XEND off its clock is XPHASE. -/
theorem test_xph :
    nextIs (exec (.xph (e 0 0 0 0 0)) (phased .compute 7)) (fun t => t.me.phase == .openPhase && t.me.phaseStart == 7) = true := by
  decide +kernel
theorem test_xend_early :
    nextIs (exec (.xend (e 0 0 0 0)) (phased .openPhase 19)) (fun t => t.me.fltrec.w0.extractLsb' 16 8 == 9) = true := by
  decide +kernel
/-- R236: XSEND drives its wire with reg(A) at its phase clock. -/
theorem test_xsend :
    nextIs (exec (.xsend (e 0 5 0 0 3)) ((phased .openPhase 4).setSA 5 9)) (fun t => t.gangs.all (fun g =>
      g.drivings == [{ core := 0, wire := 3, val := 9, clk := 4, pc := 0, ref := 4, die := 0 }])) = true := by decide +kernel
/-- A driving of wire 3 and a capture of it at the clock at which it is present at the tap. -/
def capturing : State :=
  let d : Driving := { core := 0, wire := 3, val := 9, clk := 4, pc := 0, ref := 4, die := 0 }
  let s := phased .openPhase 12 [d]
  s.modMe (fun c => { c with captures := [{ reg := 5, wire := 3, phaseClk := 4 + s.delay 0 0, pc := 0 }] })
theorem witness_Capture :
    let s := capturing
    s.me.captures = [{ reg := 5, wire := 3, phaseClk := 4 + s.delay 0 0, pc := 0 }] ∧ 4 + s.delay 0 0 ≤ s.phaseClock 0 ∧
      s.me.excluded = false ∧ (3#10).toNat < 960 ∧ (s.gangOf 0).isSome = true := by decide +kernel
/-- R236: a capture reads the one driving that is present. -/
theorem test_capture :
    nextIs (exec .xmuxCapture capturing) (fun t => t.sa 5 == 9 && t.me.captures.isEmpty) = true := by decide +kernel
/-- Two cores that drive one wire at one clock. -/
def colliding : State :=
  let d : Driving := { core := 0, wire := 3, val := 9, clk := 4, pc := 0, ref := 4, die := 0 }
  let g := { loadedGang with w := 2, cores := [0, 1], plan := [entry], drivings := [d, { d with core := 1, ref := 3 }] }
  let c := { loadedCore with gwm1 := 1, phase := .openPhase }
  let done := { c with vx := 1, ctxs := c.ctxs.setIfInBounds 0 { Context.reset with halted := true } }
  let s := { base with clk := 40, gangs := [g], cores := [(0, c), (1, done)] }
  { s with cur := { s.cur with args := { core := 0, index := 3, gid := 1 } } }
theorem witness_Hold :
    (∃ n ∈ loadedGang.cores, ((phased .openPhase 3).core n).phase = .openPhase) ∧
      (phased .openPhase 3).cur.args.index ∉ ([] : List Nat) ∧ (phased .openPhase 3).gang? 1 ≠ none ∧
      (¬ ∃ n ∈ loadedGang.cores, ((phased .compute 3).core n).phase = .openPhase) := by decide +kernel
/-- A gang that a throttle has reached, at a barrier, outside a phase, and one whose limit is over. -/
def throttled (barrierAt clk : Nat) : State :=
  let s := phased .compute clk
  { s with gangs := [{ loadedGang with throttle := some (900, 0), barrierAt := barrierAt }] }
theorem witness_Throttle :
    let s := throttled 7 7
    let u := throttled 0 (1000 * Config.clkPerUs)
    s.gang? s.cur.args.gid = some { loadedGang with throttle := some (900, 0), barrierAt := 7 } ∧ s.gangs.length = 1 ∧ s.clk = 7 ∧
      u.gang? u.cur.args.gid = some { loadedGang with throttle := some (900, 0), barrierAt := 0 } ∧ u.gangs.length = 1 ∧
      (¬ ∃ n ∈ loadedGang.cores, (u.core n).phase = .openPhase) ∧ max 0 0 + 1000 * Config.clkPerUs ≤ u.clk := by decide +kernel
/-- R242: the first agent that holds sets HOLD 4 clk later in a gang of one course. -/
theorem test_hold :
    nextIs (exec .holdRaise (phased .openPhase 3)) (fun t => t.gangs.all (fun g => g.holders == [0] && g.holds == [(7, none)])) = true := by
  decide +kernel

/-! Copies. -/

/-- The hod, whose a registers name the scratchpad and whose s1 holds 8. -/
def hod : State := ((inCtx 11).setSA 33 64).setSA 34 128 |>.setSA 1 8
/-- CPY.sp.sp id 5 of 8 bytes. -/
def cpy5 : FE := e 0 33 34 1 5 0x11
/-- The copy that it starts. -/
def copy5 : Copy := newCopy hod cpy5 { kind := .cpy, dam := 1, sam := 1, dst := 64, src := 128, esz := 1, dims := [(8, 1, 1)] }
theorem witness_CopyCommands :
    hod.isHod = true ∧ hod.guard 0 0 = true ∧ 0 < (hod.sa 1).toNat ∧ (hod.sa 1).toNat ≤ 2 ^ 40 ∧ (hod.sa 0).toNat = 0 ∧
      hod.me.entries = [] ∧ hod.my.wait = none ∧ (hod.sa 33).toNat % 32 = 0 ∧ (hod.sa 1).toNat % 32 ≠ 0 ∧
      badRecord 0 = true ∧ badRecord (2 ^ (8 * 0x11) + 8 * 2 ^ (8 * 0x18) + 0x11 * 2 ^ (8 * 0x12)) = false ∧
      used174 copy5 = true ∧ used174 { copy5 with state := .complete } = false ∧ (copy5.state = .running ∨ copy5.state = .frozen) := by
  decide +kernel
theorem witness_Readable : Readable187 hod 32 128 (hod.sa 33) := by unfold Readable187; decide +kernel
/-- R175: CPY starts a running copy of the length in reg(C), with the number in IMM32. -/
theorem test_cpy_starts :
    nextIs (exec (.cpy cpy5) hod) (fun t => t.me.copies.map (fun k => (k.id, k.total, k.state)) == [(5, 8, .running)]) = true := by
  decide +kernel
/-- R175: a length of zero is PROT 4. -/
theorem test_cpy_zero :
    nextIs (exec (.cpy { cpy5 with c := 0 }) hod) (fun t => t.me.fltrec.w0.extractLsb' 0 24 == 0x070004) = true := by decide +kernel
/-- The copy before its last byte, and one of two sectors at the last byte of the first. -/
def copy7 : Copy := { copy5 with count := 7 }
def copy64 : Copy := { copy5 with src := 256, dims := [(64, 1, 1)], total := 64, count := 31 }
/-- A core whose copy is in a state and has moved some bytes. -/
def copying (k : Copy) : State := (forCore hod 0 0).modMe (fun c => { c with copies := [k], copySeq := 1 })
theorem witness_Landing :
    let meets := fun (k : Copy) => let s := copying k
      s.me.entries[s.cur.args.index]? = some k ∧ k.state = .running ∧ k.kind ≠ .cpycmb ∧ k.count < k.total ∧
      s.heldByEarlier 0 k = false ∧ k.refused = false ∧ s.cur.args.count ≤ 1 ∧ 1 ≤ k.esz ∧ k.esz ≤ 64 ∧ s.errs = [] ∧ s.bad = [] ∧
      s.me.copies = [k] ∧ s.me.resil = false ∧
      (match s.placeRun 0 k 1 { r := true } (run (k.src + BitVec.ofInt 64 (strideSum (·.2.2) k.dims k.count)) k.esz) with
       | .ok [_] => true | _ => false) = true ∧
      (match s.placeRun 0 k 1 { w := true } (run (k.dst + BitVec.ofInt 64 (strideSum (·.2.1) k.dims k.count)) k.esz) with
       | .ok [_] => true | _ => false) = true
    meets copy7 ∧ copy7.count + 1 = copy7.total ∧ copy7.ring = none ∧ meets { copy7 with ring := some 0x200 } ∧
      meets copy64 ∧ copy64.count + 1 < copy64.total ∧
      (copy64.dst + BitVec.ofInt 64 (strideSum (·.2.1) copy64.dims 32)).toNat / 32 ≠
        (copy64.dst + BitVec.ofInt 64 (strideSum (·.2.1) copy64.dims 31)).toNat / 32 := by decide +kernel
theorem witness_CopyFault :
    let k := { copy5 with src := 0x20000 }
    let s := copying k
    k.state = .running ∧ (match s.copyTrap 0 k with | some (.fault .prot 4 _) => true | _ => false) = true ∧ s.me.programsEnded = false := by
  decide +kernel
/-- R220: an element lands; R225: a trap freezes the copy. -/
theorem test_landing :
    let s := copying copy7
    nextIs (exec .copyLanding { s with mem := s.mem.write (Config.spLoc 0 135) 7 }) (fun t =>
      t.mem.read (Config.spLoc 0 71) == 7 && t.me.copies.all (fun k => k.count == 8 && k.state == .complete)) = true := by decide +kernel
theorem test_copy_freezes :
    nextIs (exec .copyFault (copying { copy5 with src := 0x20000 })) (fun t => t.me.copies.all (fun k => k.state == .frozen)) = true := by
  decide +kernel
/-- A completion ring at 0x200 of two records at 0x300 in the own scratchpad (mode 1, log 1). -/
def ringed : State :=
  let s := copying { copy5 with ring := some 0x200, owed := [{ status := 0, fcode := 0, count := 8 }], count := 8 }
  { s with mem := (s.mem.writeBytes (Config.spLoc 0 0x200) (bytesOfNat 8 0x300)).writeBytes (Config.spLoc 0 0x208) (bytesOfNat 8 0x101) }
theorem witness_Ring :
    let x := ringed.spNat 0 0x200 32
    x / 2 ^ 64 % 4 = 1 ∧ x / 2 ^ 72 % 32 = 1 ∧ (BitVec.ofNat 64 (x / 2 ^ 128) - BitVec.ofNat 64 (x / 2 ^ 192) : Word).toNat ≠ 2 ^ 1 ∧
      (match ringed.placeRun 0 { copy5 with ring := some 0x200, owed := [{ status := 0, fcode := 0, count := 8 }], count := 8 } 1 { w := true } (run 0x300 32) with
       | .ok ps => ps.length == 32 | _ => false) = true := by decide +kernel
/-- R179: the record of COMPLETE stands at HEAD, and HEAD advances. -/
theorem test_copy_completes :
    nextIs (exec .copyComplete ringed) (fun t => t.mem.read (Config.spLoc 0 0x300) == 5 && t.mem.read (Config.spLoc 0 0x210) == 1 &&
      t.me.copies.all (fun k => k.state == .complete)) = true := by decide +kernel

/-! Watermarks, buffers, gathers. -/

/-- A buffer of two slots of 32 bytes, one filled. -/
def buffered : State := hod.modMe (fun c =>
  { c with cbuf := c.cbuf.setIfInBounds 0 { base := 0x100, size := 32, slots := 2, free := 1, filled := 1 } })
theorem witness_Watermarks :
    (∀ k ∈ hod.me.entries, k.id ≠ 5) ∧ (copying copy5).me.entries = [] ++ copy5 :: [] ∧ copy5.id = 5 ∧
      (hod.me.wm.getD 0 Watermark.clear).copy = none ∧ (hod.me.cbuf.getD 0 {}).filled = 0 ∧ (hod.me.cbuf.getD 0 {}).free = 0 ∧
      0 < (buffered.me.cbuf.getD 0 {}).filled ∧ 0 < (buffered.me.cbuf.getD 0 {}).free ∧ (hod.sa 33).toNat % 32 = 0 ∧
      (hod.sa 34).toNat % 32 = 0 ∧ 32 ≤ (hod.sa 34).toNat ∧ (hod.sa 33).toNat + (hod.sa 34).toNat * 1 ≤ 131072 ∧
      (hod.sa 1).toNat % 32 ≠ 0 := by decide +kernel
theorem witness_CompletionRing :
    Readable187 hod 32 32 (hod.sa 33) ∧ Readable187 (ringed.setSA 33 0x200) 32 32 0x200 := by unfold Readable187; decide +kernel
/-- R178: a register bound to a copy that has landed nothing reads its id and ARM. -/
theorem test_wmset :
    nextIs (exec (.wmset (e 104 0 0 0 5)) (copying copy5)) (fun t => (t.me.wm.getD 0 Watermark.clear).copy == some 0) = true := by
  decide +kernel
theorem test_wmrd_unbound :
    nextIs (exec (.wmrd (e 1 104 0 0)) hod) (fun t => t.sa 1 == 0) = true := by decide +kernel
/-- R227: CBACQ.RD takes the slot at RCUR. -/
theorem test_cbacq :
    nextIs (exec (.cbacqRd (e 1 0 0 0 0)) buffered) (fun t => t.sa 1 == 0x100 && (t.me.cbuf.getD 0 {}).filled == 0 &&
      (t.me.cbuf.getD 0 {}).rcur == 1) = true := by decide +kernel
theorem test_crpop_empty :
    nextIs (exec (.crpop (e 1 33 34 0)) hod) (fun t => t.sa 1 == 0) = true := by decide +kernel
theorem witness_Gather :
    let s := oneLane 0 0
    s.isControl = true ∧ s.guard 0 0 = true ∧ s.gatherHeld (offsets 0 (s.sa 33) 4) = (none, false) ∧ lanes97 s = [0] := by decide +kernel
/-- A gather of one lane on its way. -/
def gathering : State :=
  let s := { oneLane 0 0 with posts := [.gather 0 67 1 [(0, 0x48)] [(base.me.vwb.getD 0 0, base.me.vwl.getD 0 0, base.me.vwi.getD 0 0)] 0] }
  forCore { s with mem := s.mem.write 0x8048 0x5A } 0 0
theorem witness_GatherReply :
    (match gathering.gatherPlaces 0 [(base.me.vwb.getD 0 0, base.me.vwl.getD 0 0, base.me.vwi.getD 0 0)] (offsets 0 0x48 1) with
     | .ok ps => ps.map (fun p => gathering.mem.read p.loc) == [0x5A] | _ => false) = true ∧
      gathering.posts = [] ++ .gather 0 67 1 [(0, 0x48)] [(base.me.vwb.getD 0 0, base.me.vwl.getD 0 0, base.me.vwi.getD 0 0)] 0 :: [] ∧
      gathering.errs = [] ∧ gathering.bad = [] := by decide +kernel
/-- R246: the reply fills the lane with the byte that the window names. -/
theorem test_gather_reply :
    nextIs (exec .gatherReply gathering) (fun t => lane t 67 0 == 0x5A && lane t 67 1 == 0 && t.posts.isEmpty) = true := by decide +kernel
/-- A contribution of one byte, at a router or at its home. -/
def packet (at_ : Nat) : CombinePacket :=
  { part := 0, id := 5, dst := 0x40, len := 4, ty := 0, n := 2, chunk := 0, sum := [1, 0, 0, 0], cnt := 1, at_ := at_, die := 0, overflow := false,
    since := 0, from_ := [(0, 0, 0)] }
/-- Two of them, one at the router's table. -/
def combining (at_ : Nat) : State :=
  { base with packets := [packet at_], combiners := [(if base.chunkHome (packet at_) = at_ then 256 + at_ else at_, [packet at_])], clk := 20 }
theorem witness_Combine :
    let h := base.chunkHome (packet 0)
    (combining (h + 1)).packets[(combining (h + 1)).cur.args.index]? = some (packet (h + 1)) ∧ (packet h).meets (packet h) = true ∧
      (packet (h + 1)).at_ ≠ (combining (h + 1)).chunkHome (packet (h + 1)) ∧ (packet h).at_ = (combining h).chunkHome (packet h) ∧
      (packet h).since + 16 ≤ (combining h).clk ∧ ({ packet h with id := 6 } : CombinePacket).meets (packet h) = false := by decide +kernel
/-- A contribution of 64 bytes whose sum has landed up to the end of its first sector. -/
def contributing : Copy :=
  { copy64 with kind := .cpycmb, dam := 0, dst := 0, combine := some (1, 0), windows := windows221 base }
/-- The whole sum at its home, the contributions sent. -/
def summing : State :=
  let p := { packet 0 with dst := 0, len := 64, n := 1, sum := List.replicate 64 1 }
  { copying { contributing with sent := true } with combiners := [(256, [p])] }
theorem witness_Contributions :
    let s := copying { contributing with count := 0 }
    let u := summing
    let k := { contributing with sent := true }
    s.me.entries[s.cur.args.index]? = some { contributing with count := 0 } ∧
      (match s.placeRun 0 { contributing with count := 0 } 1 { r := true } (run contributing.src contributing.total) with
       | .ok ps => ps.length == 64 | _ => false) = true ∧
      (match s.placeCopy 0 { contributing with count := 0 } 0 { w := true } contributing.dst with
       | .ok p => p.loc == 0x8000 | _ => false) = true ∧ s.errs = [] ∧ s.bad = [] ∧
      u.me.entries[u.cur.args.index]? = some k ∧ k.summed = false ∧
      (u.staged 0 k).map (·.map (·.from_)) = some [[(0, 0, 0)]] ∧ u.contributorHeld (0, 0, 0) = false ∧
      u.contributorCore (0, 0, 0) = some 0 ∧ k.count + 1 < k.total ∧ u.cur.args.count ≤ 1 ∧
      (k.dstOf (k.count + 1)).toNat / 32 ≠ (k.dstOf k.count).toNat / 32 ∧ u.me.resil = false ∧
      (match u.placeCopy 0 k 0 { w := true } (k.dst + BitVec.ofNat 64 k.count) with
       | .ok p => p.loc == 0x801F | _ => false) = true ∧ u.errs = [] ∧ u.bad = [] := by decide +kernel

theorem witness_Collision :
    (colliding.collisions 0 3).length = 2 ∧ (colliding.collisions 0 3).map (·.core) = [0, 1] ∧ colliding.cur.core = 0 ∧
      colliding.my.stop = none ∧ colliding.my.halted = false ∧ ((colliding.core 1).ctx 0).halted = true ∧ colliding.my.wait = none ∧
      (colliding.collisions 0 3).all (fun d => !d.reported) = true ∧
      (colliding.gangOf 0).map (·.drivings) = some (colliding.collisions 0 3) := by
  decide +kernel

/-! Events, mailboxes, tasks, cells. -/

/-- s2 holds 5, a1 an offset in the scratchpad, a2 an offset outside it; the word 0 of events is 6. -/
def eventful : State := (regs [(2, 5), (33, 0x40), (34, 0x20000)]).modMe (fun c => { c with evw := c.evw.setIfInBounds 0 6 })
theorem witness_Events :
    eventful.guard 0 0 = true ∧ eventful.namedCore 0x3F = none ∧ eventful.namedCore 0 = some 0 ∧
      (eventful.me.evw.getD 0 0) &&& 5 ≠ 0 ∧ (eventful.me.evw.getD 0 0) &&& 5 ≠ 5 ∧ (eventful.me.evw.getD 0 0) &&& 1 = 0 ∧
      (eventful.me.evw.getD 0 0) &&& 6 = 6 ∧ eventful.my.wait = none ∧ eventful.me.dcache = [] ∧ eventful.me.resil = false ∧
      eventful.me.mbox = [] ∧ (eventful.sa 33).toNat + 32 ≤ 131072 ∧ recorded.me.mbox = [record1] ∧ eventful.my.waitt = none ∧
      (eventful.sa 0).toNat = 0 ∧ (eventful.sa 2).toNat ≠ 0 ∧ (eventful.sa 0).toNat ≤ eventful.tbase.toNat ∧
      eventful.tbase.toNat < (eventful.sa 2).toNat := by decide +kernel
theorem witness_Mailboxes : Readable187 eventful 1 32 (eventful.sa 33) ∧
    ((eventful.core 0).mbox.filter (·.kind == 0)).length + (eventful.posts.filter (Post.messageFor 0 0)).length < 16 := by
  unfold Readable187; decide +kernel
/-- R182: EVWAIT.ANY answers the word that it read. -/
theorem test_evwait :
    nextIs (exec (.evwaitAny (e 1 2 0 0)) eventful) (fun t => t.sa 1 == 6 && t.my.pc == 1) = true := by decide +kernel
/-- R183: MRECV.TEST of an empty mailbox answers 0. -/
theorem test_mrecv_empty :
    nextIs (exec (.mrecvTest (e 2 0 33 0)) eventful) (fun t => t.sa 2 == 0) = true := by decide +kernel
theorem test_mpost :
    nextIs (exec (.mpost (e 1 0 33 0)) eventful) (fun t => t.sa 1 == 0 && t.posts.length == 1) = true := by decide +kernel
/-- A context whose wait for its time is over. -/
def timed : State :=
  let w := { kind := .waittRel, since := 0, limit := 100 : Wait }
  forCore ({ base with clk := 9 }.modMy (fun c => { c with wait := some w, waitt := some (5, 3) })) 0 0
theorem witness_WaittExpiry :
    ((timed.core 0).ctx 0).wait = some { kind := .waittRel, since := 0, limit := 100 } ∧ ((timed.core 0).ctx 0).waitt = some (5, 3) ∧
      5 ≤ timed.clk - 3 := by decide +kernel
/-- R184: WAITT of 0 goes on. -/
theorem test_waitt_zero :
    nextIs (exec (.waitt (e 0 0 0 0)) base) (fun t => t.my.pc == 1 && t.my.wait.isNone) = true := by decide +kernel

/-- A task record at 0x40: PC 0x80, ANY, one range of 8 bytes from window 0 to offset 0x100. -/
def tasked : State :=
  let x := 0x80 + (2 ^ 15 + 2 ^ 16) * 2 ^ 128 + 0x40 * 2 ^ 256 + (0x100 + 8 * 2 ^ 32) * 2 ^ 320
  { eventful with mem := eventful.mem.writeBytes (Config.spLoc 0 0x40) (bytesOfNat 48 x) }
theorem witness_Tasks :
    let x := tasked.spNat 0 0x40 96
    Readable187 tasked 32 96 (tasked.sa 33) ∧ tasked.taskFault (tasked.sa 33) x = none ∧
      Readable187 eventful 32 96 (eventful.sa 33) ∧ ((BitVec.ofNat 64 (x / 2 ^ 128) : Word).extractLsb' 16 3).toNat = 1 ∧
      eventful.me.hodq.length < 8 ∧ tasked.tasks = [] := by unfold Readable187; decide +kernel
/-- R185: TQPUT queues the task and answers a ticket. -/
theorem test_tqput :
    nextIs (exec (.tqput (e 1 33 0 0)) tasked) (fun t => t.tasks.map (fun k => (k.pc, k.target)) == [(0x80, none)]) = true := by
  decide +kernel
theorem test_hodq :
    nextIs (exec (.hodq (e 1 0 33 0)) tasked) (fun t => t.sa 1 == 0 && t.me.hodq.length == 1) = true := by decide +kernel
/-- The task waiting, and the task dispatched to h1. -/
def task1 : Task :=
  { number := 0, gid := 1, block := clusterOf 0, pc := 0x80, arg := 7, target := none, ranges := [], issuer := (0, 0), gone := false, issuePc := 0,
    windows := [], at_ := none, started := false, pins := [] }
theorem witness_Dispatch :
    let s := { forCore eventful 0 0 with tasks := [task1] }
    let s := { s with cur := { s.cur with args := { s.cur.args with index := clusterOf 0 } } }
    (task1.gid = s.cur.args.gid ∧ task1.block = s.cur.args.index ∧ task1.at_ = none) ∧ s.taskPlace task1 = some (0, 1) := by
  decide +kernel
theorem witness_Footprint :
    let k := { task1 with at_ := some (0, 1) }
    let s := { forCore eventful 0 0 with tasks := [k] }
    k.number = s.cur.args.index ∧ k.started = false ∧ k.at_ = some (0, 1) ∧ 1 ≠ 11 ∧ (match s.fetchFootprint k 0 with | .ok _ => true | .error _ => false) = true ∧
      s.me.resil = false := by
  decide +kernel
/-- R186: the task starts in the helper that it was given, its argument in s2. -/
theorem test_task_starts :
    let k := { task1 with at_ := some (0, 1) }
    nextIs (exec .footprintComplete { forCore eventful 0 0 with tasks := [k] }) (fun t =>
      (t.me.ctx 1).live && (t.me.ctx 1).pc == 0x80 && (t.me.ctx 1).sa 2 == 7) = true := by decide +kernel

/-- Cell 1: one F32 element, buffers in the page at 0x0 of the partition. -/
def cell1 : Cell :=
  { buf0 := 0x100, buf1 := 0x140, state := .settled, sel := false, ty := 8, rows := 1, cols := 1, pc := 0, prec := [], chain := [],
    gwm1 := 0, ghm1 := 0, gen := 3, wave := 0, level := 0, wintab := 0, foff := 0, after := none }
/-- A partition with cells, on a page that holds cells. -/
def celled (cs : Table Cell) (ws : List Wave) : State :=
  let s := regs [(33, 1), (34, 0x40), (35, 2)]
  { s with parts := s.parts.setIfInBounds 0 { s.part 0 with cells := cs, waves := ws, next := 1 },
           mem := s.mem.writeBytes 0x5000 (bytesOfNat 8 0x819F) }
/-- An open wave and a sealed one. -/
def wave (n : BitVec 32) (sealed : Bool) (members : List (Nat × Bool)) : Wave :=
  { number := n, sealed := sealed, members := members, placed := [], failing := [], staged := [], kept := [] }
theorem witness_Cells :
    let s := celled [(1, cell1)] []
    let w := celled [(1, cell1)] [wave 1 false [(1, true)]]
    let z := celled [(1, cell1)] [wave 1 true [(1, true)]]
    let n := celled [(1, cell1), (2, { cell1 with pc := 0x80, prec := [1], buf0 := 0x180, buf1 := 0x1C0 })] []
    s.guard 0 0 = true ∧ (s.part 0).cell? 1 = some cell1 ∧ (s.part 0).cell? 2 = none ∧ s.me.resil = false ∧
      (s.part 0).openWave = none ∧ (w.part 0).openWave = some (wave 1 false [(1, true)]) ∧
      (∃ q ∈ (n.part 0).cells, q.1 ≠ 1 ∧ 1 ∈ q.2.prec) ∧ (∃ q ∈ (z.part 0).waves, q.sealed = true ∧ ∃ m ∈ q.members, m.1 = 1) ∧
      cell1.pc = 0 ∧ ((n.part 0).cell? 2).map (·.pc) = some 0x80 ∧ (s.part 0).downstream 1 = [] ∧ s.me.dcache = [] ∧
      (s.sa 34).toNat % 32 = 0 ∧ (s.sa 34).toNat + cell1.extent ≤ 131072 := by decide +kernel
theorem witness_CellBuffers :
    let s := celled [(1, cell1)] []
    (match s.enginePlaces 0 cell1.back cell1.extent with | .ok ps => ps.length == cell1.extent | _ => false) = true ∧
    (match s.places 0 0 { am := 6, need := { r := true }, cell := 1, vw := 0 } (offsets 0 0 cell1.extent) with
     | .ok ps => ps.length == 4 && ps.all (fun p => !p.si) | _ => false) = true ∧ s.me.dcache = [] ∧ s.setCore 0 s.me = s := by
  decide +kernel
theorem witness_CellRecords :
    let s := celled [(1, cell1)] []
    Readable187 s 32 32 (s.sa 34) ∧ Readable187 s 32 160 (s.sa 34) ∧ cellShape 0 = none ∧
      (cellShape 0x80101).map (·.extent) = some 4 ∧ (s.part 0).badBinding 1 0 = false ∧ (s.part 0).badBinding 1 1 = true := by
  unfold Readable187; decide +kernel
/-- The record of CELL.DEF at 0x40: buffers at 0x200 and 0x240, one F32 element. -/
def defining : State :=
  let s := celled [(1, cell1)] []
  { s with mem := s.mem.writeBytes (Config.spLoc 0 0x40) (bytesOfNat 24 (0x200 + 0x240 * 2 ^ 64 + 0x80101 * 2 ^ 128)) }
theorem witness_CellDef :
    (match defining.defBytes ((granules 4).map (fun n => 0x200 + BitVec.ofNat 64 n) ++ (granules 4).map (fun n => 0x240 + BitVec.ofNat 64 n)) with
     | .ok qs => qs.length == 2 && qs.all (fun q => (q.2.extractLsb' 60 4).toNat == 0 && q.2.getLsbD 8)
     | _ => false) = true ∧ 0 ∉ (defining.part 0).usedEntries := by decide +kernel
/-- R287: CELL.DEF takes the lowest free id. -/
theorem test_cell_def :
    nextIs (exec (.cellDef (e 1 0 34 0)) defining) (fun t => t.sa 1 == 0 && ((t.part 0).cell? 0).isSome) = true := by decide +kernel
/-- R289: CELL.PUT answers its wave, writes the back buffer, and the cell is RECOMPUTED. -/
theorem test_cell_put :
    nextIs (exec (.cellPut (e 1 33 34 0)) defining) (fun t => t.sa 1 == 1 && t.mem.read 0x8141 == 2 &&
      ((t.part 0).cell? 1).any (fun c => c.state == .recomputed)) = true := by decide +kernel
/-- R292: CELL.STATE answers generation and state. -/
theorem test_cell_state :
    nextIs (exec (.cellState (e 2 33 0 0)) defining) (fun t => t.sa 2 == 0x300000000) = true := by decide +kernel
theorem test_cell_drop_member :
    nextIs (exec (.cellDrop (e 2 33 0 0)) (celled [(1, cell1)] [wave 1 false [(1, true)]])) (fun t => t.sa 2 == 0x8000000000000002) = true := by
  decide +kernel

/-! Queues, waves, launches, saves, power. -/

/-- Queue 0 of partition 0 at IA 0x100, with a packet at its head. -/
def packeted (x : Nat) : State :=
  let k : Queue := { base := 0x100, en := true, tail := 1 }
  { base with queues := base.queues.setIfInBounds 0 k, mem := base.mem.writeBytes 0x8100 (bytesOfNat 64 x) }
/-- The checks that every packet passes first. -/
theorem atHead_of {s : State} {type x : Nat}
    (h : (match s.cmdRead (s.queue s.cur.args.index).part.toNat (s.queue s.cur.args.index).headIa 64 with
      | .ok y => decide (y = x) | .error _ => false) = true)
    (g : s.cur.args.index < 64 ∧ (s.queue s.cur.args.index).en = true ∧ (s.queue s.cur.args.index).err = false ∧
      (s.queue s.cur.args.index).head.toNat < (s.queue s.cur.args.index).tail.toNat ∧
      (s.service.stopped = false ∧ s.service.fatal = false) ∧ packetError x = none ∧ x % 256 = type) : AtHead s type x := by
  obtain ⟨g1, g2, g3, g4, g5, g6, g7⟩ := g
  refine ⟨g1, g2, g3, g4, g5, ?_, g6, g7⟩
  split at h
  · rename_i e; rw [e, of_decide_eq_true h]
  · cases h
/-- CMO_RANGE.ATTR of the page at 0 of the partition, to COH 1. -/
def attr : Nat := 0x7030102 + 4096 * 2 ^ 128 + 2 ^ 192
/-- A DISPATCH of one gang, a CMO range, and the others, with their words of zeros. -/
theorem witness_Packets :
    AtHead (packeted (0x101 + 2 ^ 48)) 1 (0x101 + 2 ^ 48) ∧ AtHead (packeted (0x7000102 + 0x40 * 2 ^ 128)) 2 (0x7000102 + 0x40 * 2 ^ 128) ∧
    AtHead (packeted 0x103) 3 0x103 ∧ AtHead (packeted 0x104) 4 0x104 ∧ AtHead (packeted 0x105) 5 0x105 ∧
    AtHead (packeted 0x106) 6 0x106 ∧ AtHead (packeted 0x107) 7 0x107 ∧ AtHead (packeted 0x108) 8 0x108 ∧
    AtHead (packeted attr) 2 attr :=
  ⟨atHead_of (by decide +kernel) (by decide +kernel), atHead_of (by decide +kernel) (by decide +kernel), atHead_of (by decide +kernel) (by decide +kernel),
   atHead_of (by decide +kernel) (by decide +kernel), atHead_of (by decide +kernel) (by decide +kernel),
   atHead_of (by decide +kernel) (by decide +kernel), atHead_of (by decide +kernel) (by decide +kernel),
   atHead_of (by decide +kernel) (by decide +kernel), atHead_of (by decide +kernel) (by decide +kernel)⟩
theorem witness_Attr :
    let s := packeted attr
    (s.queue 0).part = 0 ∧ attr / 2 ^ 16 % 16 = 3 ∧ attr / 2 ^ 24 % 8 = 7 ∧ s.errs = [] ∧ s.bad = [] ∧ (s.dirs.map (·.1)).Nodup ∧
      s.attrPages 0 (0 + 4096 - 1) (4096 / 4096 + 1) 0 = some [{ part := 0, base := 0, size := 4096, leaf := 0x809F, host := none }] ∧
      s.attrPages 0 (4096 + 4096 - 1) 2 4096 = none := by decide +kernel
theorem witness_Queues :
    let s := packeted 0x103
    (s.queue 0).en = true ∧ (s.queue 1).en = false ∧ (s.queue 0).err = false ∧ (s.queue 0).head.toNat + 2 ^ 6 < 65 ∧
      (s.queue 0).pending.length + (s.queue 0).saved.length < 64 ∧ (s.tracked 0).length < 256 ∧
      (match s.cmdRead 0 0 192 with | .ok _ => true | _ => false) = true ∧
      (match s.cmdWrite? 0 0x10 16 with | .ok ps => ps.length == 16 | _ => false) = true ∧
      (match s.rangePages 0 0x3F 2 0 with | .ok [p] => p.1 == 0 | _ => false) = true ∧
      (leafEntry s.mem 0 5 0 (s.part 0).ptbr.toNat) = some (0x5000, 4) ∧ (s.mem.readWord 0x5000).getLsbD 56 = false ∧
      (∀ q ∈ s.cores, q.2.dcache = []) := by decide +kernel
/-- R267: a TAIL beyond HEAD by more than the ring is error 3. -/
theorem test_doorbell_far :
    nextIs (exec .queueDoorbell { packeted 0x103 with cur := { base.cur with args := { index := 0, word := 65 } } })
      (fun t => (t.queue 0).err && (t.queue 0).ecode == 3) = true := by decide +kernel
/-- R276: EVENT.SET sets the bits of its mask and the packet is consumed. -/
theorem test_event_set :
    nextIs (exec .eventSet (packeted (0x103 + 1 * 2 ^ 64 + 5 * 2 ^ 128))) (fun t => (t.part 0).events.getD 1 0 == 5 &&
      (t.queue 0).head == 1) = true := by decide +kernel
/-- R268: a packet of another version is error 2, and HEAD stays. -/
theorem test_packet_version :
    nextIs (exec .eventSet (packeted 0x203)) (fun t => (t.queue 0).ecode == 2 && (t.queue 0).head == 0) = true := by decide +kernel
/-- R279: INDIRECT enters its buffer. -/
theorem test_indirect :
    nextIs (exec .indirect (packeted (0x105 + 0x200 * 2 ^ 64 + 64 * 2 ^ 128))) (fun t => (t.queue 0).indirect == some (0x200, 64, 0)) = true := by
  decide +kernel

/-- A sealed wave of one member that has been recomputed, and one that failed. -/
def waved (st : CellState) (failing : List Nat) : State :=
  let s := celled [(1, { cell1 with state := st })] [{ wave 1 true [(1, true)] with failing := failing }]
  { s with cur := { s.cur with args := { gid := 1 } } }
theorem witness_Waves :
    let s := waved .recomputed []
    (s.part 0).waves.find? (·.sealed) = some (wave 1 true [(1, true)]) ∧ ([1] : List Nat).Nodup ∧
      ((s.part 0).cell? 1).map (·.state) = some .recomputed ∧ (∀ g ∈ s.gangs, g.formula = none) ∧
      ((waved .pending [1]).part 0).waves.find? (·.sealed) = some { wave 1 true [(1, true)] with failing := [1] } := by decide +kernel
/-- R296: the flip toggles SEL, counts GEN up, and LASTFLIP is the wave's number. -/
theorem test_flip :
    nextIs (exec .waveFlip (waved .recomputed [])) (fun t => ((t.part 0).cell? 1).any (fun c => c.sel && c.gen == 4 && c.state == .settled) &&
      (t.part 0).lastFlip == 1) = true := by decide +kernel
/-- R303: the abort makes the failing cell FAILED. -/
theorem test_abort :
    nextIs (exec .waveAbort (waved .pending [1])) (fun t => ((t.part 0).cell? 1).any (fun c => c.state == .failed && !c.sel) &&
      (t.part 0).lastAbort == 1) = true := by decide +kernel
/-- A wave with a formula cell to be computed, and no gang placed. -/
def formulaic : State :=
  let s := celled [(1, cell1), (2, { cell1 with pc := 0x80, prec := [1], state := .pending, buf0 := 0x180, buf1 := 0x1C0 })]
    [wave 1 true [(1, true), (2, false)]]
  let s := { s with gangs := [], cores := [], mem := s.mem.writeBytes 0x5000 (bytesOfNat 8 0x899F) }
  s.modPart 0 (fun p => { p with cells := Table.set p.cells 1 { cell1 with state := .recomputed, wave := 1 } })
theorem witness_Formula :
    formulaic.service.stopped = false ∧ formulaic.service.fatal = false ∧ formulaic.service.pst ≠ 2 ∧ formulaic.placement = none ∧
      formulaic.errs = [] ∧ formulaic.bad = [] ∧
      (match ((formulaic.part 0).formulaNext).bind (fun e => ((formulaic.part 0).cell? e.2).map (fun c => (e.1, c))) with
       | some (w, c) => match formulaic.readFootprint 0 (coreIn [0] 1 0 0) ((formulaic.part 0).footprintBytes w c) with
         | .ok _ => true
         | .error _ => false
       | none => false) = true ∧ ((formulaic.part 0).formulaNext).map (·.2) = some 2 ∧
      formulaic.findPlace 0 formulaic.heldClusters [0, 1, 2, 3] 1 1 = some (0, [0]) ∧ (coresIn [0] 1 1).Nodup ∧
      (match formulaic.cmdRead 0 0 384 with | .ok _ => true | _ => false) = true ∧ formulaic.cores = [] ∧ formulaic.gangs = [] := by
  decide +kernel
/-- A formula gang whose core has ended. -/
def formulaEnded : State :=
  let s := waved .pending []
  let c := { loadedCore with ctxs := loadedCore.ctxs.setIfInBounds 0 { Context.reset with halted := true } }
  { s with gangs := [{ loadedGang with formula := some (1, 1) }], cores := [(0, c)] }
theorem witness_FormulaEnd :
    (formulaEnded.gang? 1).any (fun g => g.formula == some (1, 1) && g.fate.isNone && g.state == .running && !g.saveDone &&
      g.cores.all (fun n => (formulaEnded.core n).ended)) = true ∧ (formulaEnded.core 0).exit = 0 ∧
      (∀ q ∈ formulaEnded.cores, q.2.dcache = []) := by decide +kernel
/-- R295: exit code 0 makes the cell RECOMPUTED. -/
theorem test_formula_end :
    nextIs (exec .formulaTaskEnd formulaEnded) (fun t => ((t.part 0).cell? 1).any (fun c => c.state == .recomputed) && t.gangs.isEmpty) = true := by
  decide +kernel

/-- A launch of one core in queue 0: its packet and its descriptor. -/
def launch1 : Launch :=
  { queue := 0, part := 0, order := 0, packet := [0x1000000000101, 0, 0, 0, 0, 0, 0, 0], desc := List.replicate 24 0 }
/-- It stands in the pending list, and no gang is placed. -/
def pendingLaunch : State :=
  { base with gangs := [], cores := [], queues := base.queues.setIfInBounds 0 { en := true, pending := [launch1] }, orders := 1 }
theorem witness_Launches :
    let s := pendingLaunch
    s.nextOf (s.queue 0) = some (.launch launch1) ∧ s.refreshQueues.choice = some (0, .launch launch1) ∧
      s.service.stopped = false ∧ s.service.fatal = false ∧ s.placement = none ∧ (s.queue 0).pending = [launch1] ∧
      s.refreshQueues.launchGroup launch1 = [launch1] ∧ s.refreshQueues.findPlaces [launch1] s.heldClusters = some [(0, [0])] ∧
      (coresIn [0] launch1.width launch1.height).Nodup ∧ launch1.bad = false ∧
      (match s.refreshQueues.readTables launch1 with | .ok _ => true | _ => false) = true ∧ s.cores = [] ∧ s.gangs = [] ∧
      s.service.pst ≠ 2 ∧ ({ s with gangs := [loadedGang] } : State).refreshQueues.findPlaces [launch1] loadedGang.clusters = none := by
  decide +kernel
/-- A gang of that launch in a state, with its core halted under an exit code. -/
def launched (st : GangState) (halted : Bool) : State :=
  let g := { loadedGang with launch := some launch1, state := st, started := st == .running }
  let x := { Context.reset with live := !halted, halted := halted }
  let c := { loadedCore with exit := 7, ctxs := loadedCore.ctxs.setIfInBounds 0 x }
  { base with gangs := [g], cores := [(0, c)], cur := { base.cur with args := { gid := 1 } } }
theorem witness_GangStarts :
    let s := launched .starting false
    (s.gang? 1).any (fun g => s.groupOf g == [g] && g.state == .starting && !g.started && !g.stopping && !g.saveDone) = true ∧ loadedGang.cores.Nodup ∧ s.serving = true ∧
      launch1.stime = false ∧ (s.core 0).resil = false := by decide +kernel
theorem witness_GangEnds :
    let s := launched .running true
    (s.gang? 1).any (fun g => g.launch == some launch1 && g.cores.all (fun n => (s.core n).ended)) = true ∧ launch1.cmpl = false ∧
      s.serving = true ∧ s.completions = [] ∧ s.errs = [] ∧ s.bad = [] ∧ (s.core 0).dcache = [] ∧
      (match (s.dropGang loadedGang).cmdWrite? 0 0x10 16 with | .ok ps => ps.length == 16 | _ => false) = true := by decide +kernel
/-- R275: a gang whose cores have ended gives up its clusters. -/
theorem test_gang_end :
    nextIs (exec .gangEnd (launched .running true)) (fun t => t.gangs.isEmpty && !(t.core 0).placed) = true := by decide +kernel

/-- The gang of `launched`, changed, in a partition with a save area of two slots. -/
def savable (f : Gang → Gang) (c : Core := loadedCore) : State :=
  let s := launched .running false
  { s with gangs := s.gangs.map f, cores := [(0, c)],
           parts := s.parts.setIfInBounds 0 { s.part 0 with savebase := 0x100000, savecap := 2 } }
theorem witness_Preemption :
    let s := savable (fun g => { g with drain := some 0, stopping := true })
    (s.gang? 1).any (fun g => s.groupOf g == [g] && g.state != .saved && !g.saveDone && g.rollback.isEmpty && !s.gangEnded g) = true ∧
      1 ≤ (s.part 0).savecap.toNat - (s.part 0).slots.length ∧ s.okPa ((s.part 0).savebase.toNat + (s.part 0).savecap.toNat * 0x33000 - 1) = true ∧
      s.stoppedAll { loadedGang with launch := some launch1, drain := some 0, stopping := true } = true ∧
      (s.core 0).phase ≠ .openPhase ∧ (s.part 0).slots.Nodup := by decide +kernel
/-- R340: the drain limit of 2,000 µs applies from the request. -/
theorem test_preemption :
    nextIs (exec .preemptionRequest (savable id)) (fun t => t.gangs.all (fun g => g.drain == some 2100000)) = true := by decide +kernel
/-- A core whose context waits under a limit it has exceeded. -/
def waiting : State :=
  let w := { kind := .hjoin, since := 0, limit := 5 : Wait }
  let s := savable id { loadedCore with ctxs := loadedCore.ctxs.setIfInBounds 0 { Context.reset with live := true, wait := some w } }
  forCore { s with clk := 6 } 0 0
theorem witness_Swap :
    ((waiting.core 0).ctx 0).wait = some { kind := .hjoin, since := 0, limit := 5 } ∧ 5 < waiting.waited 0 0 ∧
      WaitKind.hjoin.wakeOf 0 0 = some .interval ∧
      (waiting.gangOf 0).any (fun g => g.wake.isNone && g.state == .running && !g.saveDone && g.rollback.isEmpty && !waiting.gangEnded g) = true ∧ ((waiting.core 0).ctx 0).stop = none := by
  decide +kernel
/-- A gang that has been saved, with what wakes it. -/
def savedGang (w : Option WakeCondition) (st : GangState) : State := savable (fun g =>
  { g with saveDone := true, state := st, wake := w, slots := [0], saves := [loadedCore] })
theorem witness_Saved :
    let s := savedGang (some (.waittAbs 0)) .saved
    (s.gang? 1).any (fun g => g.saveDone && g.state == .saved && g.wake == some (.waittAbs 0)) = true ∧ (0 : Word).toNat ≤ s.tbase.toNat ∧
      ((savedGang none .running).gang? 1).any (fun g => g.saveDone && g.state != .saved) = true := by decide +kernel
/-- R341: a gang whose save is complete is back at the front of its queue. -/
theorem test_save_complete :
    nextIs (exec .saveComplete (savedGang none .running)) (fun t => (t.queue 0).saved == [1] && t.gangs.all (fun g => g.state == .saved)) = true := by
  decide +kernel
/-- A saved gang that the distributor takes. -/
def returning : State :=
  let s := savedGang none .saved
  { s with cores := [], gangs := s.gangs.map (fun g => { g with eligible := true }),
           queues := s.queues.setIfInBounds 0 { en := true, saved := [1] } }
theorem witness_Restore :
    let s := returning
    s.placing = true ∧ s.placement = none ∧ s.refreshQueues.choice = some (0, .restore 1) ∧
      (s.gang? 1).any (fun g => (s.groupOf g).filter (fun h => h.state == .saved) == [g] && g.eligible && g.fate.isNone &&
        s.refreshQueues.findRestores [g] s.heldClusters == some [(0, [0])] &&
        (match s.refreshQueues.readPlan g with | .ok _ => true | _ => false)) = true ∧ s.cores = [] := by decide +kernel
/-- A saved gang of a formula task, ready to return, its record in memory or not. -/
def formulaReturning (m : Memory) : State :=
  let s := savedGang none .saved
  { s with cores := [], mem := m, gangs := s.gangs.map (fun g => { g with eligible := true, launch := none, formula := some (1, 1) }) }
/-- The record of slot 0, with its check value. -/
def sealedRecord : Memory := Memory.writeBytes [] (0x100000 + 0x32FC0)
  (bytesOfNat 64 (Config.checkValue (Memory.readBytes [] 0x100000 0x32FC0)).toNat)
theorem natOfBytes_bytesOfNat (n x : Nat) : natOfBytes (bytesOfNat n x) = x % 256 ^ n := by
  induction n generalizing x with
  | zero => simp [bytesOfNat, natOfBytes, Nat.mod_one]
  | succ n ih =>
    have e : (256 : Nat) ^ (n + 1) = 256 * 256 ^ n := Nat.pow_succ'
    rw [bytesOfNat, natOfBytes, ih, BitVec.toNat_ofNat, e, Nat.mod_mul]
theorem length_bytesOfNat (n x : Nat) : (bytesOfNat n x).length = n := by
  induction n generalizing x with
  | zero => rfl
  | succ n ih => rw [bytesOfNat, List.length_cons, ih]
/-- What is written reads back, and what lies below it as before. -/
theorem readNat_writeBytes (m : Memory) (a n x : Nat) (h : m.wf = true) :
    (m.writeBytes a (bytesOfNat n x)).readNat a n = x % 256 ^ n := by
  have e : (m.writeBytes a (bytesOfNat n x)).readBytes a n = bytesOfNat n x := by
    unfold Memory.readBytes
    refine List.ext_getElem (by simp [length_bytesOfNat]) fun i _ h2 => ?_
    rw [List.getElem_map, List.getElem_range, Memory.read_writeBytes _ _ _ _ h h2]
  rw [Memory.readNat, e, natOfBytes_bytesOfNat]
theorem readBytes_writeBytes_above (m : Memory) (a b n : Nat) (bs : List Byte) (h : a + n ≤ b) :
    (m.writeBytes b bs).readBytes a n = m.readBytes a n :=
  List.map_congr_left fun i hi => Memory.read_writeBytes_ne _ _ _ _ (.inl (by have := List.mem_range.mp hi; omega))
theorem witness_GoodRecord :
    BitVec.ofNat 512 (sealedRecord.readNat (0x100000 + 0x32FC0) 64) =
      Config.checkValue (sealedRecord.readBytes 0x100000 0x32FC0) := by
  rw [sealedRecord, readBytes_writeBytes_above _ _ _ _ _ (Nat.le_refl _), readNat_writeBytes _ _ _ _ (by decide),
    show (256 : Nat) ^ 64 = 2 ^ 512 from by decide +kernel, Nat.mod_eq_of_lt (BitVec.isLt _), BitVec.ofNat_toNat, BitVec.setWidth_eq]
theorem witness_Returns :
    let s := formulaReturning sealedRecord
    s.placing = true ∧ s.placement = none ∧ (s.part 0).savebase = 0x100000 ∧ s.cores = [] ∧ s.monitors = [] ∧ s.sysc = [] ∧
      (s.gang? 1).any (fun g => (s.groupOf g).filter (fun h => h.state == .saved) == [g] && g.eligible && g.fate.isNone &&
        g.launch.isNone && g.state == .saved && s.refreshQueues.findRestores [g] s.heldClusters == some [(0, [0])] &&
        (match s.refreshQueues.readPlan g with | .ok _ => true | _ => false) && coresIn [0] g.w g.h == [0] &&
        g.saves.length == 1 && g.slots == [0] && decide (0 < (s.part 0).savecap.toNat)) = true := by decide +kernel
theorem witness_Power :
    let s := { base with cur := { base.cur with args := { count := 761 } } }
    (s.service.trip = true ∨ 760 < s.cur.args.count) ∧ ¬ (base.service.trip = true ∨ 760 < base.cur.args.count) ∧
      base.cur.args.index = base.service.pwrq.toNat ∧ base.service.pst = 0 ∧ (∀ g ∈ base.gangs, g.throttle = none) := by decide +kernel


/-! Power, firmware, registers, owners, errors, shootdowns, translation, the directory. -/

/-- A power state in a package, with its clock; the event carries a number. -/
def powered (pst : BitVec 3) (mhz count : Nat) (sv : Service → Service := id) : State :=
  { base with service := sv { base.service with pst := pst, mhz := mhz }, cur := { base.cur with args := { count := count } } }
theorem witness_PowerRange :
    (powered 1 500 1000).service.cap = 3200 ∧ (powered 1 1050 3200).service.pst = 1 ∧ (powered 1 1050 0).service.stopped = false ∧
      (powered 1 1050 0).service.fatal = false ∧ 1050 % 25 = 0 ∧ 500 % 25 = 0 ∧ (3199 < (3200#16).toNat) ∧
      (powered 0 1050 839).cur.args.count < 840 ∧ 840 ≤ (powered 0 1050 840).cur.args.count := by decide +kernel
/-- A queue's power packet asks for state 1 and a cap of 1000 W: queue 0 is PWRQ at reset. -/
theorem witness_PowerPacket :
    AtHead (packeted (0x108 + (1 + 1000 * 2 ^ 12) * 2 ^ 64)) 8 (0x108 + (1 + 1000 * 2 ^ 12) * 2 ^ 64) :=
  atHead_of (by decide +kernel) (by decide +kernel)
/-- R384: a trip stops the clocks, and the firmware update that ran ends with status 4. -/
theorem test_trip :
    nextIs (exec .thermalTrip (powered 0 1050 840 (fun k => { k with go := true }))) (fun t =>
      t.service.stopped && t.service.trip && t.service.tmax == 840 && t.service.fwst == 4 && !t.service.go) = true := by decide +kernel
/-- R379: at the cap the clock falls by 25 MHz at least, and above 500 MHz only. -/
theorem test_cap :
    nextIs (exec .capWindow (powered 1 500 3200)) (fun t => t.service.mhz == 500 && t.notices == [.capExcess 3200]) = true := by decide +kernel

/-- The service tile with a request of the host. -/
def asked (f : Service → Service) : State := { base with service := f base.service }
theorem witness_ServiceTile :
    (base.service.ereq = false ∨ base.service.ekind ≠ 0) ∧ (asked (fun k => { k with ereq := true, ekind := 0, epart := 16 })).service.epart.toNat ≤ 16 ∧
      (asked (fun k => { k with ereq := true, ekind := 1 })).service.ekind = 1 ∧ base.service.sbok = true ∧
      (asked (fun k => { k with sbok := false })).service.sbok = false ∧ (asked (fun k => { k with go := true })).service.go = true ∧
      base.service.go = false := by decide +kernel
/-- A sample whose shared energy is split by weight, and one whose host energy is split by bytes. -/
theorem witness_Energy :
    let m : EnergyMeters := { core := [5, 0], shared := 10, events := [[1], [2]] }
    let h : EnergyMeters := { host := 10, bytes := [1, 2] }
    m.static = 0 ∧ m.host = 0 ∧ 0 < ((List.range 17).map (fun q => (List.range 7).foldl (fun a k =>
        a + (m.events.getD q []).getD k 0 * base.service.weights.getD k 0) 0)).foldl (· + ·) 0 ∧
      h.static = 0 ∧ h.shared = 0 ∧ 0 < ((List.range 17).map (fun q => h.bytes.getD q 0)).foldl (· + ·) 0 := by decide +kernel
theorem witness_Failed :
    let s := { base with failed := [(0, 3, 9)], cur := { base.cur with args := { die := 0, index := 3 } } }
    (∃ f ∈ s.failed, f.1 = s.cur.args.die ∧ f.2.1 = s.cur.args.index) ∧
      ¬ (∃ f ∈ base.failed, f.1 = base.cur.args.die ∧ f.2.1 = base.cur.args.index) := by decide +kernel
/-- R376: a takeover changes the active complex. -/
theorem test_takeover :
    nextIs (exec .watchdogTakeover base) (fun t => t.service.act == 1 && t.notices == [.takeover]) = true := by decide +kernel
/-- R383: a sample keeps all the energy it is given. -/
theorem test_sample :
    nextIs (exec .energySample { base with cur := { base.cur with args := { meters := { core := [5], shared := 10, events := [[1], [2]], bytes := [1] } } } })
      (fun t => t.service.energy.toList.foldl (· + ·) 0 == 15 && t.service.seq == 1) = true := by decide +kernel

theorem witness_InFieldTest :
    let free := { base with gangs := [] }
    let held := { base with service := { base.service with testing := some 0 } }
    let placing := { base with placement := some (.restore 1, []) }
    placing.placement ≠ none ∧ placing.service.testing = none ∧ free.placement = none ∧ held.service.testing = some 0 ∧ (∃ g ∈ held.gangs, g.state ≠ .saved ∧ 0 ∈ g.clusters) ∧ free.service.testing = none ∧
      free.nextCluster = some 0 ∧ ¬ (∃ g ∈ free.gangs, g.state ≠ .saved ∧ 0 ∈ g.clusters) ∧ free.service.stopped = false ∧
      free.service.fatal = false ∧ free.service.dlen = 0 ∧ (asked (fun k => { k with dlen := 1 })).service.dlen ≠ 0 ∧
      (asked (fun k => { k with dumpDone := true })).service.dumpDone = true ∧ base.service.dumpDone = false := by decide +kernel
/-- R370: a cluster that fails is retired and leaves its partition. -/
theorem test_retired :
    nextIs (exec .inFieldTest { base with gangs := [] }) (fun t => t.service.ret.getD 0 0 == 1 && (t.part 0).clu.getD 0 1 == 0 &&
      !(t.core 0).placed) = true := by decide +kernel
/-- R4: a reset of the device begins a reset epoch and forgets the cores. -/
theorem test_device_reset :
    nextIs (exec .deviceReset base) (fun t => t.cores.isEmpty && t.service.epoch == 1 && (t.part 0).owner == 0) = true := by decide +kernel

/-- The host writes a register. -/
def writing (a : Nat) (v : Word) : State := { base with cur := { base.cur with args := { addr := a, word := v } } }
theorem witness_Registers :
    let far := writing (0x100000 + 64 * 63 + 0x28) 0
    let part := writing (0x200000 + 256 * 15 + 0x50) 0
    let own := writing (0x300000 + 64 * 15 + 0x38) 0
    far.cur.args.addr = 0x100FE8 ∧ part.cur.args.addr = 0x200F50 ∧ own.cur.args.addr = 0x3003F8 ∧ (far.queue 63).en = false ∧
      (base.part 0).go = false ∧ (base.part 0).st ≠ 2 ∧ 0x3C0000 + 8 * 48 = 0x3C0180 ∧ 0x3D0000 ≤ 0x3D1FFF := by decide +kernel
/-- R372: a write of PTBR keeps the bits of a frame. -/
theorem test_ptbr :
    nextIs (exec .registerWrite (writing 0x200100 0xFFFFFFFFFFFFFFFF)) (fun t => (t.part 1).ptbr == 0x0000FFFFFFFFF800) = true := by decide +kernel
/-- R339: WTMAX is 1024 at least. -/
theorem test_wtmax :
    nextIs (exec .registerWrite (writing 0x300038 0x100000003)) (fun t => (t.part 0).savecap == 3 && (t.part 0).wtmax == 1024) = true := by
  decide +kernel
/-- R328: a shootdown's KIND 3 is kind 0, and START begins it. -/
theorem test_shootdown_start :
    nextIs (exec .registerWrite (writing 0x200020 0x8000000000000003)) (fun t => (t.part 0).go && (t.part 0).kind == 0) = true := by decide +kernel

/-- The event names a partition, a die and a word. -/
def forPart (s : State) (part die : Nat) (w : Word) : State := { s with cur := { s.cur with args := { part := part, die := die, word := w } } }
theorem witness_Owners :
    let s := forPart base 0 0 2
    (s.part 0).st ≠ 2 ∧ (s.part 0).owner ≠ 2 ∧ (s.part 0).owner = 1 ∧ (∀ q ∈ s.cores, q.2.dcache = []) ∧
      (s.part 0).savebase.toNat < 2 ^ 48 ∧ (s.part 0).pool = [] ∧ (∀ q, q < 16 → q ≠ 0 → (s.part q).clu.getD 0 0 &&& 2 = 0) ∧
      2 &&& ~~~(s.service.live.getD 0 0) = 0 ∧ ((forPart base 1 0 1).part 0).clu.getD 0 0 &&& 1 ≠ 0 := by decide +kernel
/-- R349: a change of owner ends the partition's gangs. -/
theorem test_owner :
    nextIs (exec .partitionOwnerWrite { forPart base 0 0 2 with parts := base.parts.setIfInBounds 0 { base.part 0 with ptbr := 0 } }) (fun t =>
      (t.part 0).owner == 2 && t.gangs.isEmpty && !(t.core 0).placed) = true := by decide +kernel
/-- R339: a write of CLU that names another partition's cluster is ignored. -/
theorem test_foreign_cluster :
    nextIs (exec .partitionClusterWrite (forPart base 1 0 1)) (fun t => (t.part 1).clu.getD 0 0 == 0) = true := by decide +kernel
theorem witness_HostAccess :
    (match base.cmdWrite? 0 0x10 8 with | .ok ps => ps.length == 8 | _ => false) = true ∧
    (match base.cmdWrite? 0 0x1000 8 with | .error (.stop _) => false | .error _ => true | _ => false) = true ∧
    (match base.cmdPlaces 0 false 8 0x10 with | .ok ps => ps.length == 8 && ps.all (fun p => (base.uceAt p).isNone) | _ => false) = true ∧
    (match base.cmdPlaces 0 false 8 0x1000 with | .error (.stop _) => false | .error _ => true | _ => false) = true ∧
    base.okPa 0x8040 = true ∧ base.cellFrame 0x8040 = false ∧ base.okPa (2 ^ 45) = false ∧ base.errs = [] ∧ base.bad = [] ∧
    (celled [(1, cell1)] []).cellFrame 0x8100 = true := by decide +kernel

/-- A core whose block has ended: SIGIX 5, computed 7, and what `.sig` holds. -/
def checked (want : Option (BitVec 16)) : State :=
  { base with cores := [(0, { loadedCore with checker := { ended := [(5, 7, want, 0x40)] } })] }
theorem witness_Signatures :
    ((checked (some 7)).core 0).checker.ended = [(5, 7, some 7, 0x40)] ∧ (some 8 : Option (BitVec 16)) ≠ some 7 ∧
      (checked (some 8)).gang? ((checked (some 8)).core 0).gid = some loadedGang ∧ (base.core 0).checker.ended = [] ∧
      ((checked none).core 0).resil = false := by decide +kernel
/-- R357: a mismatch is SIGMISMATCH with the operand of its block, and ends the gang. -/
theorem test_mismatch :
    nextIs (exec .signatureCheck (checked (some 8))) (fun t => t.me.fltrec.w0.extractLsb' 16 8 == 16 && t.me.fltrec.w2 == 0x000500070008 &&
      t.me.fltrec.w1 == 0x40 && t.gangs.all (fun g => g.fate == some 1)) = true := by decide +kernel
/-- A gang that is to go back, with a log that holds the a registers' word 0x33 in a1 and one line of the scratchpad. -/
def rolling (bad : Bool) : State :=
  let m := base.mem.writeBytes (Config.spLoc 0 0x1C000) (bytesOfNat 24 (1 + 9 * 2 ^ 64 + 8 * 2 ^ 128))
  let m := m.writeBytes (Config.spLoc 0 0x1C140) (bytesOfNat 8 0x33)
  let m := m.writeBytes (Config.spLoc 0 0x1C1C0) (bytesOfNat 2 2)
  let m := m.writeBytes (Config.spLoc 0 0x1C400) (bytesOfNat 8 0x44)
  { base with mem := m, gangs := [{ loadedGang with rollback := [0] }], cores := [(0, { loadedCore with resil := true })],
              cur := { base.cur with args := { gid := 1 } }, bad := if bad then [(Config.spLoc 0 0x1C400, (true, 0))] else [] }
theorem witness_Rollback :
    let s := rolling false
    let ready := fun (s : State) => (s.gang? 1).any (fun g => g.rollback == [0] && g.fate.isNone && s.readyToRoll g && g.cores == [0])
    ready s = true ∧ ready (rolling true) = true ∧ (∀ q ∈ s.cores, q.2.dcache = []) ∧ (s.core 0).resil = true ∧
      (logAt s 0 0x1C000).toNat % 256 = 1 ∧ s.mem.readNat (Config.spLoc 0 0x1C1C0) 2 = 2 := by decide +kernel
/-- R364: rollback restores registers and lines, and counts RETRY. -/
theorem test_rollback :
    nextIs (exec .rollback (rolling false)) (fun t => t.sa 33 == 0x33 && t.my.pc == 8 && t.mem.readWord (Config.spLoc 0 128) == 0x44 &&
      logAt t 0 0x1C000 == 0x10001 && t.gangs.all (fun g => g.rollback.isEmpty)) = true := by decide +kernel

/-- The event names the control context of core 0, whose PC stands somewhere. -/
def fetching (w : IWord) (pc : Word) : State :=
  let s := State.reset.withFetchWord 96 w.toNat
  { s with cores := [(0, { loadedCore with ctxs := loadedCore.ctxs.setIfInBounds 0 { Context.reset with live := true, pc := pc } })] }
theorem witness_Fetches :
    let u := (fetching 0 0).turnTo 0 0 none
    let away := (fetching 0 0x1000).turnTo 0 0 none
    let ok := (fetching (0x0040#16 ++ 0#80) 0).turnTo 0 0 none
    (fetching 0 0).mayIssue 0 0 = true ∧ (fetching 0 0).leader 0 = none ∧
      okPc ((fetching 0 5).turnTo 0 0 none).my.pc = false ∧
      (match u.fetch 0 0 u.my.pc u.my.entryCheck with | .bad cls _ _ => cls == .illegal | _ => false) = true ∧
      (match away.fetch 0 0 away.my.pc away.my.entryCheck with | .trap (.stop _) => false | .trap _ => true | _ => false) = true ∧
      (match ok.fetch 0 0 ok.my.pc ok.my.entryCheck with | .ok _ _ _ _ _ => true | _ => false) = true ∧
      (inCtx 1).mayIssue 0 1 = false := by decide +kernel
/-- R53: a malformed PC is BADTARGET with code 1. -/
theorem test_bad_pc :
    nextIs (exec .fetchFault (fetching 0 5)) (fun t => t.me.fltrec.w0.extractLsb' 0 32 == 0x00020001 && t.me.fltrec.w1 == 5) = true := by
  decide +kernel

/-- A shootdown of a kind over the page at 0, to a frame at 0x10000. -/
def shooting (kind : BitVec 2) : State :=
  { base with parts := base.parts.setIfInBounds 0 { base.part 0 with go := true, kind := kind, shlen := 0x1000, dest := 0x10000 } }
theorem witness_Shootdowns :
    (∀ kind : BitVec 2, ((shooting kind).part 0).go = true ∧ ((shooting kind).part 0).kind = kind) ∧ (shooting 2).tasks = [] ∧
      (shooting 2).engineOwns 0 0 4096 = false ∧ (∀ q ∈ base.cores, q.2.dcache = []) ∧ movable 0 0x809F = true ∧ (shooting 2).okPa 0x10000 = true ∧
      { shooting 2 with parts := (shooting 2).parts.setIfInBounds 0 { (shooting 2).part 0 with dest := 0x200000000000 } }.okPa 0x200000000000 = false ∧
      base.errs = [] ∧ base.bad = [] := by
  decide +kernel
theorem witness_LeafList : base.leaves 0 = [(0, 4096, 0x809F)] := by decide +kernel
theorem witness_Walks :
    (base.walk 0 0x40 = .leaf 0 4096 0x809F) ∧ ¬ (∃ b z e, base.walk 0 0x1000 = .leaf b z e) := by
  refine ⟨by decide +kernel, ?_⟩
  rintro ⟨b, z, e, h⟩
  have : (match base.walk 0 0x1000 with | .leaf _ _ _ => true | _ => false) = false := by decide +kernel
  rw [h] at this; cases this
theorem witness_MovesApart : MovesApart base 0 0 4096 0x809F 0x10000 0x5000 := by
  refine ⟨⟨4, by decide +kernel, fun _ => by decide +kernel⟩, by decide, by decide, by decide, by decide +kernel, by decide +kernel,
    ⟨by decide +kernel, by decide +kernel⟩, ?_⟩
  intro n
  unfold State.core
  cases e : Table.find base.cores n with
  | none => rfl
  | some c =>
    have h : base.cores = [(0, loadedCore)] := by decide +kernel
    rw [h] at e
    unfold Table.find at e
    split at e
    · cases e; decide +kernel
    · cases e
/-- A task of helper 1 holds a pin of the page, and a shootdown that waits for it began at clock 0. -/
def pinnedPage (clk : Nat) : State :=
  { shooting 1 with tasks := [{ task1 with at_ := some (0, 1), pins := [(0, 0)] }], clk := clk }
theorem witness_Pins :
    let s := pinnedPage 1050000
    s.pinSince 0 0 = some 0 ∧ (s.tasks.find? (fun k => k.pins.contains (0, 0))).isSome = true ∧
      0 + (s.part 0).pinto.toNat * 1050 ≤ s.clk ∧ ¬ (0 + ((pinnedPage 0).part 0).pinto.toNat * 1050 ≤ (pinnedPage 0).clk) ∧
      base.pinSince 0 0 = none ∧ s.errs = [] ∧ s.bad = [] ∧ (s.core 0).dcache = [] := by decide +kernel
/-- R332: a pin that outlasts PINTO is revoked, and REVOKED counts it. -/
theorem test_revoked :
    nextIs (exec .pintoExpiry (pinnedPage 1050000)) (fun t => (t.part 0).revoked == 1 && t.me.fltrec.w0.extractLsb' 16 8 == 18) = true := by
  decide +kernel
/-- A pool of partition 0 with a frame on die 1. -/
def pooled (moves : List Nat) : State :=
  let p := { base.part 0 with pool := [(12, 0x40000001009F)], stats := [(0, { settledUntil := none, moves := moves, counts := [0, 1024, 0, 0] })] }
  { base with parts := base.parts.setIfInBounds 0 p, cur := { base.cur with args := { addr := 0x40, die := 1 } } }
theorem witness_Migration :
    let s := pooled []
    (s.part 0).mth ≠ 0 ∧ (s.part 0).mth.toNat ≤ ((s.part 0).stat 0).counts.getD 1 0 ∧ movable 0 0x809F = true ∧ leafFrame 0x809F / 2 ^ 46 ≠ 1 ∧ (s.part 0).poolFrame 4096 1 = some (12, 0x40000001009F) ∧
      s.engineOwns 0 0 4096 = false ∧ 4 ≤ [0, 0, 0, 0].length ∧ (pooled [0, 0, 0, 0]).clk < 0 + 2 ^ 24 ∧ (base.part 0).poolFrame 4096 1 = none := by
  decide +kernel
/-- R338: the fourth move within 2^24 clocks settles the page for 2^26. -/
theorem test_settled :
    nextIs (exec .migrationTrigger (pooled [0, 0, 0, 0])) (fun t => (t.part 0).stats == [(0, { settledUntil := some 67108864, moves := [0, 0, 0, 0], counts := [0, 1024, 0, 0] })])
      = true := by decide +kernel

/-- The host has been asked for page 3 of PASID 5, which is partition 0's. -/
def translating (r : List PageRequest) (yes : Bool) : State :=
  { base with parts := base.parts.setIfInBounds 0 { base.part 0 with hpasid := 5 }, hostAsked := [(0, 5, 3)], pageRequests := r,
              cur := { base.cur with args := { addr := 3, pasid := some 5, yes := yes, also := false } } }
theorem witness_Translation :
    let s := translating [] false
    (s.cur.args.die, s.cur.args.pasid.getD 0, s.cur.args.addr) ∈ s.hostAsked ∧ (s.part 0).hpasid = 5 ∧
      (∀ q : Fin 16, q.val ≠ 0 → (s.part q.val).hpasid ≠ 5) ∧
      (∃ r ∈ (translating [{ part := 0, page := 0, host := some 3 }] false).pageRequests, r.part = 0 ∧ r.page = 0 ∧ r.host = some 3) ∧
      (0, (0 : BitVec 20), 0) ∉ base.hostAsked := by decide +kernel
/-- R331: a page without permission is asked for with a page request. -/
theorem test_page_request :
    nextIs (exec .translationCompletion (translating [] false)) (fun t => t.notices == [.pageRequest 5 3] && t.hostAsked.isEmpty &&
      t.pageRequests == [{ part := 0, page := 0, host := some 3 }]) = true := by decide +kernel
/-- A page that the host answers for, and a context that waits for it. -/
def pageAsked (waits : Bool) : State :=
  let w := if waits then some { kind := .page 0 0x1040, since := 0, limit := 5 : Wait } else none
  let x := { Context.reset with live := true, wait := w }
  { base with pageRequests := [{ part := 0, page := 0x1000, host := none }],
              cores := [(0, { loadedCore with ctxs := loadedCore.ctxs.setIfInBounds 0 x })],
              cur := { base.cur with args := { part := 0, addr := 0x1040 } } }
theorem witness_PageGroup :
    (pageAsked true).pageWaiters 0 0x1000 false = [(0, 0, 0x1040)] ∧ (pageAsked false).pageWaiters 0 0x1000 false = [] ∧
      base.pageRequests = [] := by decide +kernel
/-- The request is one that the host has been sent, whatever the spare requests. -/
theorem witness_PageAsked (n : Nat) :
    ∃ r ∈ (pageAsked true).pageRequests.take (n + 1), (r.part == 0 && r.page == 0x1000 && r.host.isNone) = true :=
  ⟨{ part := 0, page := 0x1000, host := none }, by simp [pageAsked], by decide⟩
/-- A queue's head stands in a page that is not there. -/
theorem witness_EngineAsks :
    let k : Queue := { base := 0x1000, en := true, tail := 1 }
    ({ pageAsked false with queues := base.queues.setIfInBounds 0 k } : State).engineAsks 0 0x1000 false = true := by decide +kernel
/-- R331: a declined page is PAGE with code 0 against the address. -/
theorem test_declined :
    nextIs (exec .pageGroupResponse (pageAsked true)) (fun t => t.me.fltrec.w0.extractLsb' 16 8 == 6 && t.me.fltrec.w2 == 0x1040) = true := by
  decide +kernel

/-- A page that the directory tracks, on die 0, and a request of core 0 for a line of it. -/
def coherent (es : List DirEntry) (yes : Bool) (leaf : Nat := 0x8007) : State :=
  { base with mem := base.mem.writeBytes 0x5000 (bytesOfNat 8 leaf), dirs := if es.isEmpty then [] else [(1, es)],
              cur := { base.cur with args := { addr := 0x40, yes := yes } } }
/-- An entry of the span of a page. -/
def dirEntry (st : BitVec 2) (holders : List Nat) (ovf : Bool := false) (base : Nat := 0) : DirEntry :=
  { part := 0, span := 12, base := base, st := st, holders := holders, ovf := ovf, rdie := 0, qt := 0, asked := 0 }
/-- The place of a tracked address, found by evaluation. -/
theorem tracked_of {s : State} {n part ia home slice loc : Nat} {gang : Bool}
    (h : (match s.translate n 0 part ia {} 0 false with
      | .ok p => match s.homeOf n p with
        | some k => p.tracked && decide (k.part = part ∧ k.ia = ia ∧ gang = (k.gran == 2) ∧ home = k.loc / 2 ^ 46 ∧ loc = k.loc / 64 * 64)
        | none => false
      | .error _ => false) = true)
    (g : (n = s.cur.args.core ∧ (s.core n).placed = true ∧ part = (s.core n).part.toNat) ∧ (ia = s.cur.args.addr ∧ ia < 2 ^ 56) ∧
      slice = s.homeSlice home ia ∧ s.engineHolds (s.core n).part ia = false ∧ s.errs = [] ∧ s.bad = []) :
    Tracked s n part ia home slice loc gang := by
  obtain ⟨g1, g2, g3, g4, g5, g6⟩ := g
  refine ⟨g1, g2, ?_, g3, g4, ⟨g5, g6⟩⟩
  split at h
  · rename_i p e
    split at h
    · rename_i k e2
      simp only [Bool.and_eq_true, decide_eq_true_eq] at h
      exact ⟨p, k, e, h.1, e2, h.2.1, h.2.2.1, h.2.2.2.1, h.2.2.2.2.1, h.2.2.2.2.2⟩
    · cases h
  · cases h
theorem witness_Tracked : Tracked (coherent [] false) 0 0 0x40 0 1 0x8040 false :=
  tracked_of (by decide +kernel) (by decide +kernel)
theorem witness_Directory :
    let s := coherent [] false
    dieOf 0 = 0 ∧ clusterOf 0 = 0 ∧ (s.slice 1).length < 16384 ∧ entryOf s 1 0 0x40 = none ∧
      entryOf (coherent [dirEntry 1 [0]] true) 1 0 0x40 = some (dirEntry 1 [0]) ∧ entryOf (coherent [dirEntry 2 [0]] true) 1 0 0x40 = some (dirEntry 2 [0]) ∧
      entryOf (coherent [dirEntry 2 [3]] false) 1 0 0x40 = some (dirEntry 2 [3]) ∧ entryOf (coherent [dirEntry 0 []] false) 1 0 0x40 = some (dirEntry 0 []) ∧
      ¬ ((dirEntry 1 [1, 2, 3, 4]).ovf = true ∨ ¬ (4 ≤ (dirEntry 1 [1, 2, 3, 4]).holders.length ∧ 0 ∉ (dirEntry 1 [1, 2, 3, 4]).holders)) ∧
      ((coherent [dirEntry 1 [1]] true).core 9).placed = false := by decide +kernel
/-- R319: a line that a page of another die holds: the frame stands on die 1. -/
theorem witness_Away : Tracked (coherent [] true 0x400000008007) 0 0 0x40 1 65 0x400000008040 false ∧ dieOf 0 ≠ 1 :=
  ⟨tracked_of (by decide +kernel) (by decide +kernel), by decide⟩
/-- R317: a write makes its cluster the only holder. -/
theorem test_write_holder :
    nextIs (exec .directoryRequest (coherent [dirEntry 1 [3, 4]] true)) (fun t => (entryOf t 1 0 0x40).any (fun e => e.st == 2 && e.holders == [0]))
      = true := by decide +kernel
/-- R317: a fifth holder sets OVF. -/
theorem test_overflow :
    nextIs (exec .directoryRequest (coherent [dirEntry 1 [1, 2, 3, 4]] false)) (fun t => (entryOf t 1 0 0x40).any (fun e => e.st == 1 && e.ovf))
      = true := by decide +kernel
/-- Two quiet halves of slice 1. -/
def halves (st : BitVec 2) (clk : Nat) : State :=
  { base with dirs := [(1, [dirEntry st [2], dirEntry 1 [2] false 4096])], clk := clk, cur := { base.cur with args := { index := 1, addr := 0 } } }
theorem witness_Halves :
    let l := (halves 1 1048576).slice 1
    l.find? (fun e => e.part == 0 && e.base == 0) = some (dirEntry 1 [2]) ∧
      l.find? (fun e => e.part == 0 && e.base == 0 + 2 ^ 12 && e.span == 12) = some (dirEntry 1 [2] false 4096) ∧
      (halves 1 0).service.quiet = 1048576 ∧ (dirEntry 1 [2]).asked ≠ (halves 1 1048576).clk ∧
      (dirEntry 1 [2]).qt + 1048576 ≤ (halves 1 1048576).clk ∧ ¬ ((dirEntry 1 [2]).qt + 1048576 ≤ (halves 1 1048575).clk) ∧
      (∀ e ∈ (coherent [dirEntry 1 [2]] false).slice 1, ¬ (e.part = 0 ∧ e.base = 0 + 2 ^ 12 ∧ e.span = 12)) := by decide +kernel
/-- R318: they merge to one entry of twice the span. -/
theorem test_merge :
    nextIs (exec .directoryMerge (halves 1 1048576)) (fun t => t.slice 1 == [{ dirEntry 1 [2] with span := 13 }]) = true := by decide +kernel
theorem test_not_quiet :
    nextIs (exec .directoryMerge (halves 1 1048575)) (fun t => (t.slice 1).length == 2) = true := by decide +kernel
/-- Core 0's array slept at a tag, and the counter has gone on. -/
def slept (was now : Nat) : State := { base with asleep := [(0, was)], tagsIssued := now, cur := { base.cur with args := { index := 0 } } }
theorem witness_Wakes :
    Table.find (slept 5 6).asleep 0 = some 5 ∧ 6 / 4096 - 5 / 4096 = 0 ∧ 4096 / 4096 - 5 / 4096 = 1 ∧ 1 < 8192 / 4096 - 5 / 4096 ∧
      Table.find base.asleep 0 = none := by decide +kernel
/-! The clauses that the machine's ends and middles add: forms, times and places at which a hypothesis changes its answer. -/

/-- R131: of the sector of STSEC at 0x1FFE0, bytes 0 and 31. -/
theorem witness_SectorStore :
    (∃ ps, reaches pointing (mem 64 34 3 1 6 0xFFFFFFE8) { w := true } (offsets 0 (plain120 pointing (mem 64 34 3 1 6 0xFFFFFFE8)) 32) ps) ∧
    (plain120 pointing (mem 64 34 3 1 6 0xFFFFFFE8)).toNat % 32 = 0 ∧ (plain120 pointing (mem 64 34 3 1 6)).toNat % 32 ≠ 0 ∧
    legalStsec (mem 64 34 3 1 6 0xFFFFFFE8) = true ∧ pointing.isControl = true ∧ pointing.guard 0 0 = true :=
  ⟨reaches_of (by decide +kernel), by decide +kernel⟩
theorem test_stsec :
    let s := (pointing.setSA 3 0x80000001).modMe (fun c => { c with v := c.v.setIfInBounds 0 (Vector.replicate 64 0x44332211) })
    nextIs (exec (.stsec (mem 64 34 3 1 6 0xFFFFFFE8)) s) (fun t => t.mem.read (Config.spLoc 0 0x1FFE0) == 0x11 &&
      t.mem.read (Config.spLoc 0 0x1FFE1) == 0 && t.mem.read (Config.spLoc 0 0x1FFFF) == 0x44 && t.my.pc == 1) = true := by decide +kernel
/-- R94, R206: FENCE.I in the header of a course, and in its stretcher. -/
theorem witness_FencesInCourses :
    let f : Forward := { next := 1, taken := false, guard := true }
    let header := { pair with cur := { pair.cur with forwarded := some f } }
    let follows := { pair with cur := { pair.cur with core := 1, forwarded := some f } }
    header.me.mode = .attached ∧ header.me.vx = 0 ∧ header.cur.forwarded.isSome = true ∧ follows.me.mode = .attached ∧ follows.me.vx ≠ 0 ∧
      follows.cur.forwarded.isSome = true ∧ header.guard 0 0 = true ∧ follows.guard 0 0 = true := by decide +kernel
/-- R139: the wait whose monitor has been hit, and one whose line was evicted. -/
theorem witness_MonitorHits :
    let w := { kind := .monitor, since := 0, limit := 9 : Wait }
    let s := (watching true).modMy (fun x => { x with wait := some w })
    let u := { watching false with monitors := (watching false).monitors.map (fun m : Monitor => { m with evicted := true }) }
    s.my.wait = some w ∧ (s.monitorOf 0 0).any (·.hit) = true ∧ s.monitors.length = 1 ∧ s.guard 0 0 = true ∧
      (u.monitorOf 0 0).any (·.evicted) = true := by decide +kernel
/-- R133: the reply of an atomic. -/
theorem witness_AtomicReply :
    ((replying (.atomic 5 9)).core 0).ctx 0 = { ((base.core 0).ctx 0) with replies := [.atomic 5 9] } ∧
      Reply.atomic 5 9 ∈ ((replying (.atomic 5 9)).my).replies := by decide +kernel
theorem test_atomic_reply :
    nextIs (exec .memoryReply (replying (.atomic 5 9))) (fun t => t.sa 5 == 9 && t.my.replies.isEmpty) = true := by decide +kernel
/-- R147: a gang that is being stopped, whose core 0 stands one step further than core 1 of its segment. -/
def uneven : State :=
  let q : Sequencer := { Core.reset.seq with instr := some (.tmma (ti 98 96 97 8 8 8)), busy := true, guard := true, total := 4, step := 1 }
  { forCore pair 0 0 with
    gangs := [{ loadedGang with w := 2, cores := [0, 1], stopping := true }]
    cores := [(0, { loadedCore with gwm1 := 1, seq := q }), (1, { loadedCore with vx := 1, gwm1 := 1, seq := { q with step := 0 } })] }
theorem witness_Uneven :
    uneven.segment 0 = [0, 1] ∧ (uneven.core 0).seq.busy = true ∧ (uneven.core 0).seq.joining = false ∧ (uneven.core 0).seq.since ≤ uneven.clk ∧
      (uneven.gangOf 0).any (·.stopping) = true ∧ (uneven.core 1).seq.busy = true ∧ (uneven.core 1).seq.product?.isSome = true ∧
      (uneven.core 1).seq.step < (uneven.core 0).seq.step ∧ (pair.gangOf 0).all (fun g => !g.stopping) = true := by decide +kernel
theorem test_uneven : nextIs (exec .sequencerStep uneven) (· == uneven) = true := by decide +kernel
/-- R153, R358: a core whose arrival a TRET has left counted takes no part in the join. -/
theorem witness_JoinArrived :
    let s := uneven
    let left := s.modCore 1 (fun c => { c with seq := { c.seq with instr := none, busy := false, arrived := true } })
    let j := left.modCore 0 (fun c => { c with seq := { c.seq with joining := true, step := 0 } })
    (∃ n ∈ j.segment j.cur.args.core, (j.core n).seq.joining = true ∧ (j.core n).seq.arrived = false) ∧
      (∀ n ∈ j.segment j.cur.args.core, (j.core n).seq.joining = true ∨ (j.core n).seq.arrived = true ∨ (j.core n).parked = true ∨
        ((j.core n).ctx 0).stop ≠ none ∨ ((j.core n).ctx 0).halted = true) ∧ (j.core 1).seq.arrived = true := by decide +kernel
/-- R172: both participants have arrived, and one waits longer than BTO before the clock of completion. -/
def lateCompletion : State :=
  { overdue with cores := overdue.cores.map (fun e =>
      (e.1, { e.2 with bars := e.2.bars.setIfInBounds 2 { count := 1, pending := true, number := 3 } })) }
theorem witness_LateCompletion :
    let s := lateCompletion
    let x := (s.core 0).ctx 0
    [0, 1].filter (fun n => !((s.core n).bars.getD 2 {}).pending && !((s.core n).ctx 0).halted) = [] ∧ s.participants 0 3 = [0, 1] ∧
      x.stop = none ∧ x.halted = false ∧ x.afterGissue = false ∧ (s.core 0).parked = false ∧ (s.core 0).seq.joining = false ∧ s.isHeld 0 = false ∧
      (s.barrierGangs 0 3).all (fun g => g.state != .saved) = true ∧ ((s.core 0).bars.getD 2 {}).raised = false ∧
      x.wait = some { kind := .barDone 3 none, since := 0, limit := 10 } ∧ 10 < s.clk - 0 := by decide +kernel
theorem test_late_completion :
    nextIs (exec .btoExpiry lateCompletion) (fun t => t.me.fltrec.w0.extractLsb' 16 8 == 15 && t.me.fltrec.w2 == 0xFFFF1F3F00000383) = true := by
  decide +kernel
/-- XEND at LEN: nothing may collide and the captures are done, or one is still to come. -/
theorem witness_Xend :
    let s := phased .openPhase 20
    let late := s.modMe (fun c => { c with captures := [{ reg := 5, wire := 3, phaseClk := 30, pc := 0 }] })
    s.mayCollide 0 = false ∧ (∀ k ∈ s.me.captures, k.phaseClk ≤ s.phaseClock 0) ∧ s.collided 0 = none ∧
      (∃ k ∈ late.me.captures, late.phaseClock 0 < k.phaseClk) ∧ late.collided 0 = none ∧ late.my.wait = none ∧
      Table.find capturing.bad (Config.wireLoc 0 3) = none ∧ colliding.me.fltAt.1 ≠ colliding.clk := by decide +kernel
/-- R357: a fault record stands on its own clock's first place. -/
theorem witness_FaultClocks :
    let k := { copy5 with src := 0x20000 }
    let s := { copying k with clk := 1 }
    s.me.fltAt.1 ≠ s.clk ∧ (match s.copyTrap 0 k with | some (.fault .prot 4 _) => true | _ => false) = true ∧
      ({ checked (some 8) with clk := 1 } : State).me.fltAt.1 ≠ 1 ∧ ({ rolling true with clk := 1 } : State).me.fltAt.1 ≠ 1 ∧
      (pinnedPage 1050000).me.fltAt.1 ≠ 1050000 ∧ ((pinnedPage 1050000).gang? task1.gid).any (fun g => !g.saveDone) = true := by decide +kernel
/-- R368: a block that has ended while its last slot is still to complete. -/
theorem witness_Closing :
    let s := (checked (some 7)).modMe (fun c => { c with checker := { c.checker with closing := true } })
    s.me.checker.closing = true ∧ s.me.checker.ended.length = 1 ∧ (checked (some 7)).me.checker.closing = false := by decide +kernel
/-- R220: a sum lands from the count that its group has come to. -/
theorem witness_SumCount :
    summing.sumCount [(0, 0, 0)] { contributing with sent := true } = 31 := by decide +kernel
/-- R359: a footprint whose page is not mapped faults. -/
theorem witness_FootprintFault :
    let k := { task1 with at_ := some (0, 1), ranges := [(0x9000000, 32)], windows := base.me.windows }
    let s := { forCore eventful 0 0 with tasks := [k] }
    (match s.fetchFootprint k 0 with | .error (.fault _ _ _) => true | _ => false) = true := by decide +kernel
/-- R297: a read that waits holds the buffer that a PUT would write. -/
theorem witness_PutHeld :
    let s := celled [(1, cell1)] []
    let w := { kind := .page 0 0, since := 0, limit := 9 : Wait }
    let r := s.modMe (fun c => c.modCtx 1 (fun x => { x with
      wait := some w, cellSel := some { id := 1, extent := 4, buf := cell1.back, state := .settled } }))
    (∃ e ∈ r.cores, e.2.part = r.me.part ∧ ∃ x ∈ e.2.ctxs.toList, x.wait ≠ none ∧ ∃ y, x.cellSel = some y ∧
      y.buf = cell1.back ∧ y.state ≠ .circular ∧ y.state ≠ .blocked ∧ y.state ≠ .failed) ∧
      r.my.wait = none ∧ r.me.resil = false ∧
      ¬ (∃ e ∈ s.cores, e.2.part = s.me.part ∧ ∃ x ∈ e.2.ctxs.toList, x.wait ≠ none) := by
  decide +kernel
theorem test_put_held :
    let w := { kind := .page 0 0, since := 0, limit := 9 : Wait }
    let r := defining.modMe (fun c => c.modCtx 1 (fun x => { x with
      wait := some w, cellSel := some { id := 1, extent := 4, buf := cell1.back, state := .settled } }))
    nextIs (exec (.cellPut (e 1 33 34 0)) r) (fun t => t.my.wait.isSome && t.my.pc == 0) = true := by decide +kernel
/-- R268, Table 16-2: a DISPATCH with a reserved bit set (bit 12 of word 0 and bit 0 of word 7), and one with none. -/
theorem witness_ReservedBit :
    (1 : Nat) ≤ 0x1101 % 256 ∧ 0x1101 % 256 ≤ 8 ∧ 0x1101 / 256 % 16 = 1 ∧
      fieldBit 1 0 12 = false ∧ (0x1101 / 2 ^ (64 * 0)).testBit 12 = true ∧
      fieldBit 1 7 0 = false ∧ ((0x101 + 2 ^ 448) / 2 ^ (64 * 7)).testBit 0 = true ∧
      (∀ n, n < 8 → ∀ bit, bit < 64 → fieldBit 6 n bit = false → (0x106 / 2 ^ (64 * n)).testBit bit = false) := by decide +kernel
theorem test_reserved_bit :
    nextIs (exec .timestamp (packeted (0x106 + 2 ^ 20))) (fun t => (t.queue 0).ecode == 2 && (t.queue 0).head == 0) = true ∧
    nextIs (exec .dispatch (packeted (0x101 + 2 ^ 448))) (fun t => (t.queue 0).ecode == 2) = true := by decide +kernel
/-- R282: the one launch finds no clusters while a gang of class 3 holds them, and may take them from it: its queue is of class 1. -/
def contending : State :=
  let old := { launch1 with queue := 1 }
  let s := savable (fun g => { g with launch := some old })
  { s with service := { s.service with live := (Vector.replicate 4 0).setIfInBounds 0 1 }
           queues := s.queues.setIfInBounds 0 { en := true, cls := 1, pending := [launch1] }, orders := 1 }
theorem witness_Victims :
    let s := contending
    let fits := fun (vs : List Gang) => (s.refreshQueues.findPlaces (s.refreshQueues.launchGroup launch1)
      (s.heldClusters.filter (fun c => !vs.any (fun g => g.clusters.contains c)))).isSome
    s.refreshQueues.choice = some (0, .launch launch1) ∧ s.placement = none ∧ s.service.stopped = false ∧ s.service.pst ≠ 2 ∧
      s.refreshQueues.findPlaces (s.refreshQueues.launchGroup launch1) s.heldClusters = none ∧ fits s.gangs = true ∧ fits [] = false ∧
      s.gangs.all (fun g => g.part == 0 && g.state != .saved && g.launch.isSome && s.groupOf g == [g] && g.cores.length ≤ 2) = true ∧
      (s.queue 0).cls.toNat < (s.queue 1).cls.toNat := by decide +kernel
theorem test_victims :
    nextIs (exec .launchPlacement contending) (fun t => t.gangs.all (fun g => g.drain == some 2100000)) = true := by decide +kernel
/-- R341, R342, R352: a gang asked to give way, alone in its group; its slots and its area; one without slots. -/
theorem witness_Drains :
    let s := savable (fun g => { g with drain := some 0 })
    let few := { s with parts := s.parts.setIfInBounds 0 { s.part 0 with savecap := 0 } }
    let far := { s with parts := s.parts.setIfInBounds 0 { s.part 0 with savebase := 0x1DCD64F000 } }
    (s.gang? 1).any (fun g => (s.groupOf g).filter (fun h => h.drain.isSome && h.state != .saved && !h.saveDone && h.rollback.isEmpty &&
        !s.gangEnded h) == [g] && g.drain.any (· ≤ s.clk) && s.stoppedAll g &&
        !({ s with cores := [(0, loadedCore.modCtx 0 (fun x => { x with replies := [.word 5 9] }))] } : State).stoppedAll g) = true ∧
      (slots342 (s.part 0)).length = 2 ∧ s.okPa (0x100000 + 0 * 0x33000 + 0x33000 - 1) = true ∧ (slots342 (s.part 0)).take 1 = [0] ∧
      (slots342 (few.part 0)).length < 1 ∧ far.okPa (0x1DCD64F000 + 0x33000 - 1) = false ∧ (s.gangs.map (·.gid)).Nodup ∧
      (s.part 0).slots.Nodup := by decide +kernel
/-- R283: the first of the turns of a swap notes the wake condition. -/
theorem test_swap_noted :
    nextIs (exec .longWaitSwap { waiting with cur := { waiting.cur with args := { waiting.cur.args with index := 1 } } })
      (fun t => t.gangs.all (fun g => g.wake == some .interval && !g.stopping)) = true := by decide +kernel
/-- R346: the group of a gang that returns is settled, and one of its gangs is not yet. -/
theorem witness_Settled :
    let s := returning
    (s.gang? 1).any (fun g => (s.groupOf g).all (fun h => h.state == .saved || h.drain.isNone && !h.stopping && !h.saveDone) &&
      (s.groupOf g).filter (fun h => h.state == .saved && (h.gid == g.gid || h.eligible || h.swappedAt == g.swappedAt &&
        (h.wake.isNone || g.wake.isNone))) == [g]) = true := by decide +kernel
/-- R388: a power packet and an update before the trip of their clock, and with none. -/
theorem witness_TripDue :
    tripDue [.event .thermalTrip { count := 840 }] = true ∧ tripDue [] = false ∧ base.placement = none ∧
      (∀ q ∈ base.queues.toList, q.en = true → q.err = false → q.head.toNat < q.tail.toNat → q.indirect = none) ∧
      ((asked (fun k => { k with go := true })).queues.toList.all (fun q => q.indirect.isNone)) = true := by decide +kernel
/-- R4, R372: a device reset after a dump, and one with no dump since the last. -/
theorem witness_Dumped :
    (asked (fun k => { k with dumpDone := true, dumped := true })).service.dumped = true ∧ base.service.dumped = false := by decide +kernel
/-- R382, R388: a cluster that has changed its owner in this clock, and a partition that has. -/
theorem witness_Outgoing :
    let s := asked (fun k => { k with outgoing := [(0, 3, 0)], exOwners := [(2, 7, 0)] })
    core383 s { core := [(0, 5)], zeroing := [(0, 2)], work := [(3, 1)] } 3 = 8 ∧ core383 base { core := [(0, 5)] } 0 = 5 ∧
      Table.find s.service.exOwners 2 = some (7, 0) ∧ Table.find base.service.exOwners 0 = none ∧ counter382 base 200 = 16 := by decide +kernel
/-- R332: a pin of a gang that stands saved. -/
theorem witness_SavedPin :
    let s := pinnedPage 1050000
    let u := { s with gangs := s.gangs.map (fun g : Gang => { g with saveDone := true, saves := [loadedCore] }) }
    (u.gang? task1.gid).any (fun g => g.saveDone && g.cores.idxOf? 0 == some 0 && decide (0 < g.saves.length) &&
      (g.saves.getD 0 Core.reset).fltAt.1 != u.clk) = true ∧ u.gangs.length = 1 := by decide +kernel
/-- R331: the host declines the page of a context that has a load in flight, and of one that has none. -/
theorem witness_Declines :
    let s := { pageAsked true with clk := 1 }
    let busy := s.modCore 0 (fun c => c.modCtx 0 (fun x => { x with replies := [.word 5 9] }))
    let done := fun (u : State) => ((u.core 0).ctx 0).replies = [] ∧ (u.core 0).seq.busy = false ∧ (u.core 0).gathers = []
    s.pageWaiters 0 0x1000 false = [(0, 0, 0x1040)] ∧ done s ∧ (s.core 0).fltAt.1 ≠ s.clk ∧
      busy.pageWaiters 0 0x1000 false = [(0, 0, 0x1040)] ∧ ¬ done busy := by decide +kernel
theorem test_declined_later :
    nextIs (exec .pageGroupResponse ((pageAsked true).modCore 0 (fun c => c.modCtx 0 (fun x => { x with replies := [.word 5 9] }))))
      (fun t => ((t.core 0).ctx 0).stop.isNone && (((t.core 0).ctx 0).wait.map (·.kind)) == some (.declined 0x1040)) = true := by decide +kernel
/-- R317, R319: an entry whose line another die has read, and the write of the home's cluster. -/
theorem witness_Rdie :
    let e := { dirEntry 2 [0] with rdie := 2 }
    entryOf (coherent [e] true) 1 0 0x40 = some e ∧ ¬ (e.st = 2 ∧ e.holders = [0] ∧ e.rdie = 0) ∧
      (dirEntry 2 [0]).rdie = 0 := by decide +kernel
/-- R152: what follows a GISSUE and is no product is ILLEGAL at its fetch. -/
theorem witness_Raised :
    let s := State.reset.withFetchWord 96 (0x0040#16 ++ 0#80).toNat
    let u := ({ s with agenda := [] } : State).modMy (fun x => { x with afterGissue := true })
    (match u.prepare 0 0 with | .raised i _ _ => i == .nop (q 0 0 0) | _ => false) = true := by decide +kernel


/-! Decoding, steps, and the check of the fields. -/

/-- A turn of the control context, whose slot holds NOP; and a turn of an event. -/
theorem witness_Turns :
    let s := State.reset.withFetchWord 96 (0x0040#16 ++ 0#80).toNat
    s.agenda = [.issue 0 0] ∧ (match ({ s with agenda := [] } : State).prepare 0 0 with | .run i _ => i == .nop (q 0 0 0) | _ => false) = true ∧
      s.mayIssue 0 0 = true ∧ s.leader 0 = none ∧ (s.core 0).heldBack (.nop (q 0 0 0)) = false ∧ ((s.core 0).ctx 0).issued = false ∧
      s.withheld 0 (.nop (q 0 0 0)) = false ∧ ((s.core 0).ctx 1).awaits (.nop (q 0 0 0)) = false ∧ s.errs = [] ∧ s.bad = [] ∧
      (match s.fetch 0 0 ((s.core 0).ctx 0).pc ((s.core 0).ctx 0).entryCheck with | .ok i _ _ _ _ => i == .nop (q 0 0 0) | _ => false) = true ∧ ((s.core 0).ctx 0).afterGissue = false ∧ (s.core 0).resil = false ∧
      encode .tbaseDiscipline = none ∧ ({ s with agenda := [.event .tbaseDiscipline {}] } : State).admits .tbaseDiscipline = true := by
  decide +kernel
/-- R52, R70: a step of NOP moves the PC to the next slot. -/
theorem test_step_nop :
    nextIs (step (State.reset.withFetchWord 96 (0x0040#16 ++ 0#80).toNat)) (fun t => (t.me.ctx 0).pc == 1) = true := by decide +kernel
theorem witness_Decoding :
    encode (.nop (q 0 0 0)) = some (0x0040#16 ++ 0#80) ∧ Instr.wf (.nop (q 0 0 0)) = true ∧ decode (0x0040#16 ++ 0#80) = .ok (.nop (q 0 0 0)) := by
  decide +kernel
theorem witness_Kept : State.reset.mem.wf = true ∧ nextIs (step State.reset) (fun t => t.mem.wf) = true := by decide +kernel
theorem witness_Registers0 : okSA 47 = true ∧ (47 : BitVec 8) ≠ 0 ∧ okSA 48 = false := by decide

/-! Terms that the check of the fields refuses. -/

theorem smoke_registers :
    [Instr.add (q 48 1 2), .add (q 3 1 48), .sel (q 3 1 2 1), .cmp (q 3 1 2), .mov (q 64 1 0), .aadd (q 3 33 1), .pand (q 48 3 50),
     .vadd (v 1 65 66), .kmov (v 65 1 0), .tset (im 0 0 0 0), .wmset (e 96 0 0 0), .stv (mem 1 34 0 1 3), .ldk (mem 65 34 0 1 3),
     .ld (mem 4 5 0 0 3), .jr (q 33 1 0), .br (br 56 0 0 0 0)].all (fun i => !i.wf) = true := by decide +kernel
theorem smoke_reserved :
    [Instr.nop (q 0 0 0 1), .add (q 3 1 2 0 9), .add (q 3 1 2 0 0 1), .mulh (q 3 1 2 0 0 0 1), .addi (im 3 1 0 5 0x40), .andi (im 3 1 0 5 1),
     .bfx (im 3 1 0 40 30), .bfi (im 3 1 0 64), .shli (im 3 1 0 64), .mfc (im 3 0 0 0x1000), .cmp (q 48 1 2 0 5 10), .br (br 5 10 0 0 0),
     .loop (br 5 1 0 0 0), .trap (im 0 1 0 0), .vadd (v 65 66 67 0 7), .tmma (ti 98 96 104 9 9 8), .barw (e 0 0 0 0 0 7),
     .barw (e 0 0 0 0 1 3)].all (fun i => !i.wf) = true := by decide +kernel
/-- R17: no word is an event. -/
theorem smoke_events : [Instr.deviceReset, .gangEnd, .indirect].all (fun i => !i.wf && (encode i).isNone) = true := by decide +kernel

/-! Words that the spec works out, with the fields it gives them. -/

/-- Table 3-15. -/
theorem test_decode_j :
    decode 0x10D300000000000000000000 = .ok (.j { g := 2, gn := 0, var := 3, c := 0, cc := 0, l := 0, tslot := 0, dline := 0 }) := by
  decide +kernel
/-- Table 4-6, and Table 15-3 under p3. -/
theorem test_decode_chk :
    decode 0x11D8000B0000360300000008 = .ok (.chk { im 0 11 0 8 3 3 6 with g := 3 }) := by decide +kernel
/-- Table 5-5. -/
theorem test_decode_vector :
    decode 0x20C041424344800000000000 = .ok (.vfma (v 65 66 67 68 8)) ∧
    decode 0x20024545000080003F800000 = .ok (.vadd (v 69 69 0 0 8 0 2 0x3F800000)) ∧
    decode 0x2B40073A0000000000000000 = .ok (.kfirst (v 7 58 0)) ∧
    decode 0x2CC200410000000000000000 = .ok (.vnsend (v 0 65 0 0 0 0 2)) := by decide +kernel
/-- Table 6-9. -/
theorem test_decode_memory :
    decode 0x45800623090C400000000008 = .ok (.amocas (mem 6 35 9 0 3 8 (scp := 4))) ∧
    decode 0x460100000000000000000405 = .ok (.fenceSs (im 0 0 0 0x405 (var := 1))) := by decide +kernel
/-- Table 7-4. -/
theorem test_decode_tiles :
    decode 0x580060000000000000092040 = .ok (.tset (im 96 0 0 0x92040)) ∧
    decode 0x588060210020000000000000 = .ok (.tld (mem 96 33 0 1 0)) ∧
    decode 0x598000000000000000000000 = .ok (.gissue (e 0 0 0 0)) := by decide +kernel
/-- Table 8-7. -/
theorem test_decode_engines :
    decode 0x74C068000000000000000005 = .ok (.wmset (e 104 0 0 0 5)) ∧
    decode 0x770000000000000000000003 = .ok (.evset (e 0 0 0 0 3)) ∧
    decode 0x71C000000000030000000000 = .ok (.barw (e 0 0 0 0 0 3)) ∧
    decode 0x700001000000020B00000001 = .ok (.hstart (e 1 0 0 0 1 2 11)) := by decide +kernel
/-- Table 9-7. -/
theorem test_decode_program :
    decode 0x0DC004000000000000000003 = .ok (.li (im 4 0 0 3)) ∧ decode 0x128000000000000000000000 = .ok (.halt (im 0 0 0 0)) ∧
    decode 0x114104000000000000000000 = .ok (.loop { br 4 0 0 0 0 with var := 1 }) := by decide +kernel
/-- Table 10-5. -/
theorem test_decode_bonds :
    decode 0x710001000000000000000002 = .ok (.gdetach (e 1 0 0 0 2)) ∧
    decode 0x710101000000000000000000 = .ok (.gdetachJoin (e 1 0 0 0 0 0 0 1)) ∧
    decode 0x714001000000000000000007 = .ok (.gattach (e 1 0 0 0 7)) ∧
    decode 0x718000000000000000000007 = .ok (.gmerge (e 0 0 0 0 7)) := by decide +kernel
/-- Table 12-4. -/
theorem test_decode_exchange :
    decode 0x728000000000000000000000 = .ok (.xph (e 0 0 0 0)) ∧
    decode 0x731004000000000100000005 = .ok (.xmux { e 4 0 0 0 5 0 1 with g := 2 }) ∧
    decode 0x734000000000000000000000 = .ok (.xend (e 0 0 0 0)) := by decide +kernel
/-- Tables 14-1, 15-3 and 22-2. -/
theorem test_decode_programs :
    decode 0x708000000000000000000002 = .ok (.hjoin (e 0 0 0 0 2)) ∧
    decode 0x42C0112400A8400000000000 = .ok (.strl (mem 17 36 0 5 2 (scp := 4))) ∧
    decode 0x46C1072506A8000000000000 = .ok (.waitmCmp (mem 7 37 6 5 2 (var := 1))) ∧
    decode 0x42003925002C000000000000 = .ok (.ldk (mem 57 37 0 1 3)) ∧
    decode 0x1081350000000001FFFFFFF7 = .ok (.br { br 53 0 0 1 0xFFFFFFF7 with var := 1 }) ∧
    decode 0x40400A25004C000000000400 = .ok (.st (mem 10 37 0 2 3 0x400)) := by decide +kernel
/-- Tables 17-4, 18-1 and 23-3. -/
theorem test_decode_cells :
    decode 0x7A4003000000000000000000 = .ok (.cellCommit (e 3 0 0 0)) ∧
    decode 0x798007052400000000000000 = .ok (.cellBind (e 7 5 36 0)) ∧
    decode 0x7A0101002600000000000000 = .ok (.cellGet (e 1 0 38 0 0 0 0 1)) ∧
    decode 0x40C0432200D0000000000000 = .ok (.stv (mem 67 34 0 6 4)) ∧
    decode 0x2C82380000000000FFFFFF00 = .ok (.kmov (v 56 0 0 (var := 2) (imm := 0xFFFFFF00))) ∧
    decode 0x123800000000000000000002 = .ok (.sysc { im 0 0 0 2 with g := 7 }) := by decide +kernel
/-- Table 3-4: ADD's word, bit by bit: OPC 0x010, G 0, D 3, A 1, B 2. -/
theorem test_decode_add :
    decode (0x010#10 ++ 0#3 ++ 0#1 ++ 0#2 ++ 3#8 ++ 1#8 ++ 2#8 ++ 0#56) = .ok (.add (q 3 1 2)) := by decide +kernel
end Sys2Proof.Tests
end

section
/-! SUPPORT. Integer facts of R75 and R77, and what a register form writes when its guard is true. -/

namespace Sys2Proof.Machine

/-- A guarded meaning whose guard is true. -/
theorem guarded_on {g gn s k} (h : s.guard g gn = true) : guarded g gn s k = k s := if_pos h

/-- A register form under a true guard writes its result to D and nothing else. -/
theorem binary_runs {i : Instr} {f : FQ} {s : State} {op : Word → Word → Word} (hi : exec i s = binary f s op)
    (h : s.guard f.g f.gn = true) : Runs i s (WritesSA s · f.d (op (s.sa f.a) (s.sa f.b))) :=
  ⟨_, hi.trans (guarded_on h), writesSA_advance s f.d _⟩

/-- R77: the remainder of a truncated division takes the sign of the dividend. -/
theorem tmod_eq_zero_or_neg_iff (a b : Int) : a.tmod b = 0 ∨ (a.tmod b < 0 ↔ a < 0) := by
  by_cases hd : b ∣ a
  · exact .inl (Int.tmod_eq_zero_of_dvd hd)
  · have hs : (a.tmod b).sign = a.sign := by rw [Int.sign_tmod, if_neg hd]
    exact .inr (by rw [← Int.sign_eq_neg_one_iff_neg, hs, Int.sign_eq_neg_one_iff_neg])

/-- R77: quotient and remainder of a signed division by a divisor that is not zero. -/
theorem truncated_division (a b : Word) (hb : b ≠ 0) :
    a.toInt = b.toInt * a.toInt.tdiv b.toInt + a.toInt.tmod b.toInt ∧
      (a.toInt.tmod b.toInt).natAbs < b.toInt.natAbs ∧
      (a.toInt.tmod b.toInt = 0 ∨ (a.toInt.tmod b.toInt < 0 ↔ a.toInt < 0)) := by
  have hb' : b.toInt ≠ 0 := fun h => hb (BitVec.toInt_inj.1 (by simpa using h))
  refine ⟨(Int.mul_tdiv_add_tmod ..).symm, ?_, tmod_eq_zero_or_neg_iff _ _⟩
  rw [Int.natAbs_tmod]
  exact Nat.mod_lt _ (Int.natAbs_pos.2 hb')

/-- R77: quotient and remainder of an unsigned division by a divisor that is not zero. -/
theorem unsigned_division (a b : Word) (hb : b ≠ 0) :
    a.toNat = b.toNat * (BitVec.ofNat 64 (a.toNat / b.toNat)).toNat + (BitVec.ofNat 64 (a.toNat % b.toNat)).toNat ∧
      (BitVec.ofNat 64 (a.toNat % b.toNat)).toNat < b.toNat := by
  have hpos : 0 < b.toNat := Nat.pos_of_ne_zero fun h => hb (BitVec.eq_of_toNat_eq h)
  have hlt := Nat.mod_lt a.toNat hpos
  have hq : (BitVec.ofNat 64 (a.toNat / b.toNat)).toNat = a.toNat / b.toNat :=
    (BitVec.toNat_ofNat _ _).trans <| Nat.mod_eq_of_lt (Nat.lt_of_le_of_lt (Nat.div_le_self _ _) a.isLt)
  have hr : (BitVec.ofNat 64 (a.toNat % b.toNat)).toNat = a.toNat % b.toNat :=
    (BitVec.toNat_ofNat _ _).trans <| Nat.mod_eq_of_lt (hlt.trans b.isLt)
  rw [hq, hr]
  exact ⟨(Nat.div_add_mod ..).symm, hlt⟩

/-- R75: the low product of MUL is the product of the signed values modulo 2^64. -/
theorem toNat_mul_eq_toInt_emod (a b : Word) : ((a * b).toNat : Int) = a.toInt * b.toInt % 2 ^ 64 := by
  have h : a * b = BitVec.ofInt 64 (a.toInt * b.toInt) := by simp [BitVec.ofInt_mul]
  rw [h, BitVec.toNat_ofInt]
  exact Int.toNat_of_nonneg (Int.emod_nonneg _ (by decide))

/-- R75: the signed high product completes the low one. -/
theorem high_product_signed (a b : Word) :
    a.toInt * b.toInt = 2 ^ 64 * (BitVec.ofInt 64 (a.toInt * b.toInt / 2 ^ 64)).toInt + (a * b).toNat := by
  have hle : (a.toInt * b.toInt).natAbs ≤ 2 ^ 63 * 2 ^ 63 := by
    rw [Int.natAbs_mul]
    have := a.le_two_mul_toInt; have := a.two_mul_toInt_lt
    have := b.le_two_mul_toInt; have := b.two_mul_toInt_lt
    exact Nat.mul_le_mul (by omega) (by omega)
  have hh : (BitVec.ofInt 64 (a.toInt * b.toInt / 2 ^ 64)).toInt = a.toInt * b.toInt / 2 ^ 64 :=
    BitVec.toInt_ofInt_eq_self (by omega) (by omega) (by omega)
  rw [hh, toNat_mul_eq_toInt_emod]
  exact (Int.mul_ediv_add_emod ..).symm

/-- R75: the unsigned high product completes the low one. -/
theorem high_product_unsigned (a b : Word) :
    a.toNat * b.toNat = 2 ^ 64 * (BitVec.ofNat 64 (a.toNat * b.toNat / 2 ^ 64)).toNat + (a * b).toNat := by
  have hlt : a.toNat * b.toNat < 2 ^ 64 * 2 ^ 64 := Nat.mul_lt_mul'' a.isLt b.isLt
  have hh : (BitVec.ofNat 64 (a.toNat * b.toNat / 2 ^ 64)).toNat = a.toNat * b.toNat / 2 ^ 64 :=
    (BitVec.toNat_ofNat _ _).trans <| Nat.mod_eq_of_lt (Nat.div_lt_of_lt_mul hlt)
  rw [hh, BitVec.toNat_mul]
  exact (Nat.div_add_mod ..).symm

/-- R77: DIV and REM under a true guard. -/
theorem div_rem_truncate (f : FQ) (s : State) (h : s.guard f.g f.gn = true) :
    ∃ q r : Word, Runs (.div f) s (WritesSA s · f.d q) ∧ Runs (.rem f) s (WritesSA s · f.d r) ∧
      (s.sa f.b = 0 → q.toNat = 2 ^ 64 - 1 ∧ r = s.sa f.a) ∧
      (s.sa f.b ≠ 0 → ∃ qi ri : Int, (s.sa f.a).toInt = (s.sa f.b).toInt * qi + ri ∧
        ri.natAbs < (s.sa f.b).toInt.natAbs ∧ (ri = 0 ∨ (ri < 0 ↔ (s.sa f.a).toInt < 0)) ∧
        q = BitVec.ofInt 64 qi ∧ r = BitVec.ofInt 64 ri) := by
  refine ⟨_, _, binary_runs (exec_div f s) h, binary_runs (exec_rem f s) h, fun hb => ?_, fun hb => ?_⟩
  · exact ⟨by rw [if_pos hb]; decide, if_pos hb⟩
  · obtain ⟨heq, hlt, hsign⟩ := truncated_division (s.sa f.a) (s.sa f.b) hb
    exact ⟨_, _, heq, hlt, hsign, if_neg hb, if_neg hb⟩

/-- R77: DIVU and REMU under a true guard. -/
theorem divu_remu_truncate (f : FQ) (s : State) (h : s.guard f.g f.gn = true) :
    ∃ q r : Word, Runs (.divu f) s (WritesSA s · f.d q) ∧ Runs (.remu f) s (WritesSA s · f.d r) ∧
      (s.sa f.b = 0 → q.toNat = 2 ^ 64 - 1 ∧ r = s.sa f.a) ∧
      (s.sa f.b ≠ 0 → (s.sa f.a).toNat = (s.sa f.b).toNat * q.toNat + r.toNat ∧ r.toNat < (s.sa f.b).toNat) := by
  refine ⟨_, _, binary_runs (exec_divu f s) h, binary_runs (exec_remu f s) h, fun hb => ?_, fun hb => ?_⟩
  · exact ⟨by rw [if_pos hb]; decide, if_pos hb⟩
  · simp only [if_neg hb]
    exact unsigned_division _ _ hb

/-- Settles O2: each form writes the value of its operator, and the operators are those of truncated division (R77)
and of the exact product (R75). -/
theorem divisionAndHighProductAreExact : Obligations.DivisionAndHighProductAreExact := by
  intro f s h
  exact ⟨div_rem_truncate f s h, divu_remu_truncate f s h,
    ⟨_, high_product_signed _ _, binary_runs (exec_mulh f s) h⟩,
    ⟨_, high_product_unsigned _ _, binary_runs (exec_mulhu f s) h⟩⟩

end Sys2Proof.Machine
end

section
/-! SUPPORT. Taking a precise fault (R354 to R357): its record, its delivery, and what it leaves as it was. -/

namespace Sys2Proof.Machine

/-- Words that have no one bit in common piece by piece have none. -/
theorem append_and_append_eq_zero {v w : Nat} {x x' : BitVec v} {y y' : BitVec w} (hx : x &&& x' = 0#v)
    (hy : y &&& y' = 0#w) : (x ++ y) &&& (x' ++ y') = 0#(v + w) := by
  rw [BitVec.and_append, hx, hy, BitVec.zero_append_zero]

/-- Table 24-1: the record of a precise fault. -/
theorem preciseRecord_faultRecord (fatal : Bool) (part : BitVec 4) (ctx : Nat) (vy : BitVec 5) (vx : BitVec 6)
    (i : FaultInfo) (ha : i.async = false) (hx : i.idx = 0x7FFF) :
    PreciseRecord (faultRecord fatal part ctx vy vx i) part ctx vx vy i.cls i.code i.operand i.pc := by
  constructor
  case zero =>
    have hm : (0x70F0E0C0FF000000 : Word) =
        0#1 ++ 7#3 ++ 0#4 ++ 15#4 ++ 0#4 ++ 7#3 ++ 0#5 ++ 3#2 ++ 0#6 ++ 255#8 ++ 0#8 ++ 0#16 := rfl
    rw [hm]
    unfold faultRecord
    repeat' apply append_and_append_eq_zero
    all_goals simp
  case dpc => simp [faultRecord, ha, hx]
  case pc => rfl
  case operand => rfl
  all_goals
    simp (disch := omega) only [faultRecord, extract_above, extract_within, Nat.reduceSub, BitVec.extractLsb'_eq_self]

/-- Table 24-1: FATAL is the top bit of a record. -/
theorem faultRecord_fatal (fatal : Bool) (part : BitVec 4) (ctx : Nat) (vy : BitVec 5) (vx : BitVec 6) (i : FaultInfo) :
    (faultRecord fatal part ctx vy vx i).w0.getLsbD 63 = fatal := by
  simp only [faultRecord, BitVec.getLsbD_append]
  simp

/-- A record ends the gang that it is delivered to when the gang has no supervisor or computes a formula (R90, R357). -/
def State.endsGang (s : State) (gid : BitVec 16) : Bool :=
  match s.gang? gid with | some g => g.endsOnFault | none => false

theorem State.endsGang_of_some {s : State} {gid : BitVec 16} {g : Gang} (h : s.gang? gid = some g) :
    s.endsGang gid = g.endsOnFault := by simp [State.endsGang, h]
theorem State.endsGang_of_none {s : State} {gid : BitVec 16} (h : s.gang? gid = none) : s.endsGang gid = false := by
  simp [State.endsGang, h]

@[simp] theorem State.gang?_records (s : State) (gid : BitVec 16) (l : List FaultRecord) :
    State.gang? { s with records := l } gid = s.gang? gid := rfl

/-! Delivery of a record, case by case (R90, R357). -/

section Deliver
variable {s : State} {gid : BitVec 16} {g : Gang} (ctx : Nat) (vx : BitVec 6) (vy : BitVec 5) (ends : Bool) (r : FaultRecord)

/-- To firmware when there is no gang. -/
theorem State.deliver_of_none (h : s.gang? gid = none) :
    s.deliver gid ctx vx vy ends r =
      { s with records := (r :: s.records).take 4096, notices := .record r :: s.notices } := by
  simp only [State.deliver, State.gang?_records, h]

/-- To firmware, with the end of the gang. -/
theorem State.deliver_of_ends (h : s.gang? gid = some g) :
    s.deliver gid ctx vx vy true r =
      { s with
        records := (r :: s.records).take 4096, notices := .record r :: s.notices,
        gangs := s.gangs.map (fun g => if g.gid == gid then { g with fate := g.fate.or (some 1) } else g) } := by
  simp only [State.deliver, State.gang?_records, h, State.modGang, if_true]

/-- To the mailbox of the supervisor core. -/
theorem State.deliver_of_supervised {sup : Nat} (h : s.gang? gid = some g) (hs : g.supervisor = some sup)
    (hd : g.saveDone = false) :
    s.deliver gid ctx vx vy false r =
      { s with
        records := (r :: s.records).take 4096
        posts := s.posts ++ [.message sup { kind := 1, ctx := ctx, vx := vx, vy := vy, data := r.bytes }] } := by
  simp only [State.deliver, State.gang?_records, h, hs, hd, Bool.false_eq_true, if_false]

/-- Nothing but the record's own destinations changes. -/
theorem State.deliver_machine : { s.deliver gid ctx vx vy ends r with
    records := s.records, notices := s.notices, gangs := s.gangs, posts := s.posts } = s := by
  unfold State.deliver
  dsimp only
  (repeat' split) <;> rfl

theorem State.deliver_core (n : Nat) : (s.deliver gid ctx vx vy ends r).core n = s.core n := by
  have e := congrArg State.cores (s.deliver_machine (gid := gid) ctx vx vy ends r)
  exact congrArg (fun l => (Table.find l n).getD Core.reset) e

end Deliver

/-- A record whose FATAL says whether it ends the gang is delivered as R357 says; that its core has taken it already
changes nothing in the delivery. -/
theorem delivered_deliver (s : State) (f : Core → Core) (r : FaultRecord)
    (hr : r.w0.getLsbD 63 = s.endsGang s.me.gid) :
    Delivered s ((s.modMe f).deliver s.me.gid s.cur.ctx.val s.me.vx s.me.vy (s.endsGang s.me.gid) r) r where
  supervised g sup hg hs hf hd := by
    have he : s.endsGang s.me.gid = false := by simp [State.endsGang_of_some hg, Gang.endsOnFault, hs, hf]
    rw [he, State.deliver_of_supervised (s := s.modMe f) _ _ _ _ hg hs hd]
    exact ⟨rfl, rfl, rfl, hr.trans he⟩
  ending g hg hs := by
    have he : s.endsGang s.me.gid = true := by
      simpa [State.endsGang_of_some hg, Gang.endsOnFault] using hs
    rw [he, State.deliver_of_ends (s := s.modMe f) _ _ _ _ hg]
    exact ⟨rfl, rfl, rfl, hr.trans he⟩
  gangless hg := by
    rw [State.deliver_of_none (s := s.modMe f) _ _ _ _ _ hg]
    exact ⟨rfl, rfl, rfl, hr.trans (State.endsGang_of_none hg)⟩
  kept := by
    unfold State.deliver
    dsimp only
    (repeat' split) <;> rfl

/-! What a fault that stops its context does to the core. -/

section TakeFault
variable (c : Core) (clk : Nat) (x : Fin 12) (i : FaultInfo) (r : FaultRecord)

/-- Taking a record changes no context. -/
theorem Core.keepRecord_ctxs (n : Nat) : (c.keepRecord clk n r).ctxs = c.ctxs := by unfold Core.keepRecord; split <;> rfl

theorem Core.ctx_takeFault : (c.takeFault clk x.val i true r).ctx x.val =
    { c.ctx x.val with
      stop := some { cls := i.cls, pc := i.pc, wait := (c.ctx x.val).wait.map (·.kind), at_ := clk }, wait := none } := by
  unfold Core.takeFault
  rw [if_pos rfl, Core.ctx_modCtx]
  simp only [Core.ctx, Core.keepRecord_ctxs]

theorem Core.ctx_takeFault_ne {y : Nat} (h : y ≠ x.val) : (c.takeFault clk x.val i true r).ctx y = c.ctx y := by
  unfold Core.takeFault
  rw [if_pos rfl, Core.ctx_modCtx_ne _ _ h]
  simp only [Core.ctx, Core.keepRecord_ctxs]

theorem Core.takeFault_checker : (c.takeFault clk x.val i true r).checker =
    if x.val = 0 then c.checker.reopen else c.checker := by
  simp [Core.takeFault, Core.modCtx, Core.setCtx]

theorem Core.takeFault_rest : { c.takeFault clk x.val i true r with
    ctxs := c.ctxs, fltrec := c.fltrec, fltAt := c.fltAt, parked := c.parked, checker := c.checker } = c := by
  unfold Core.takeFault Core.keepRecord
  split <;> rfl

/-- R25: FLTREC takes a record that no later context of the clock has written before. -/
theorem Core.takeFault_newest (h : c.fltAt.1 ≠ clk ∨ c.fltAt.2 ≤ faultRank x.val) :
    (c.takeFault clk x.val i true r).fltrec = r ∧
      (c.takeFault clk x.val i true r).fltAt = (clk, faultRank x.val) := by
  have hk : c.keepRecord clk x.val r = { c with fltrec := r, fltAt := (clk, faultRank x.val) } :=
    if_neg (by simp; omega)
  simp [Core.takeFault, Core.modCtx, Core.setCtx, hk]

/-- R25: FLTREC keeps the record of a later context of the clock. -/
theorem Core.takeFault_older (h : c.fltAt.1 = clk) (hl : faultRank x.val < c.fltAt.2) :
    (c.takeFault clk x.val i true r).fltrec = c.fltrec ∧ (c.takeFault clk x.val i true r).fltAt = c.fltAt := by
  have hk : c.keepRecord clk x.val r = c := if_pos (by simp [h, hl])
  simp [Core.takeFault, Core.modCtx, Core.setCtx, hk]

end TakeFault

/-! A precise fault of the context whose turn it is (R356). -/

/-- What such a fault reports. -/
def State.faultOf (s : State) (cls : FaultClass) (code : Nat) (operand : Word) : FaultInfo :=
  { cls := cls, code := BitVec.ofNat 16 code, operand := operand, pc := s.my.pc }

/-- The record that it leaves. -/
def State.recordOf (s : State) (i : FaultInfo) : FaultRecord :=
  faultRecord (s.endsGang s.me.gid) s.me.part s.cur.ctx.val s.me.vy s.me.vx i

section Raise
variable (s : State) {cls : FaultClass} (code : Nat) (operand : Word) (h : cls ≠ .uce)
include h

/-- The core takes the record, which is then delivered. -/
theorem State.raise_eq : s.raise cls code operand =
    (s.modMe (fun c => c.takeFault s.clk s.cur.ctx.val (s.faultOf cls code operand) true
      (s.recordOf (s.faultOf cls code operand)))).deliver
      s.me.gid s.cur.ctx.val s.me.vx s.me.vy (s.endsGang s.me.gid) (s.recordOf (s.faultOf cls code operand)) := by
  unfold State.raise
  rw [if_neg h]
  simp only [State.takeFault, Bool.false_or, Bool.not_false, Bool.true_and]
  rfl

theorem State.raise_machine : { s.raise cls code operand with
    cores := s.cores, records := s.records, notices := s.notices, gangs := s.gangs, posts := s.posts } = s := by
  rw [s.raise_eq code operand h]
  exact congrArg (fun t : State => { t with cores := s.cores }) (State.deliver_machine ..)

theorem State.raise_cur : (s.raise cls code operand).cur = s.cur := by
  have e := congrArg State.cur (s.raise_machine code operand h)
  exact e

theorem State.raise_core (n : Nat) (hn : n ≠ s.cur.core) : (s.raise cls code operand).core n = s.core n := by
  rw [s.raise_eq code operand h, State.deliver_core, State.core_modMe_ne _ _ hn]

theorem State.raise_me : (s.raise cls code operand).me =
    s.me.takeFault s.clk s.cur.ctx.val (s.faultOf cls code operand) true (s.recordOf (s.faultOf cls code operand)) := by
  rw [State.me, s.raise_cur code operand h, s.raise_eq code operand h, State.deliver_core]
  exact State.me_modMe s _

theorem State.raise_my : (s.raise cls code operand).my = { s.my with
    stop := some { cls := cls, pc := s.my.pc, wait := s.my.wait.map (·.kind), at_ := s.clk }, wait := none } := by
  rw [State.my, s.raise_cur code operand h, s.raise_me code operand h, Core.ctx_takeFault]
  rfl

/-- R354 to R357: a precise fault other than a UCE has the whole effect of `Faulted`. -/
theorem faulted_raise : Faulted s (s.raise cls code operand) cls (BitVec.ofNat 16 code) operand s.my.pc where
  record := by
    refine ⟨s.recordOf (s.faultOf cls code operand), preciseRecord_faultRecord _ _ _ _ _ _ rfl rfl, ⟨?_, ?_⟩, ?_⟩
    · rw [s.raise_me code operand h]; exact Core.takeFault_newest _ _ _ _ _
    · rw [s.raise_me code operand h]; exact Core.takeFault_older _ _ _ _ _
    · rw [s.raise_eq code operand h]; exact delivered_deliver s _ _ (faultRecord_fatal ..)
  stop := ⟨_, congrArg Context.stop (s.raise_my code operand h), rfl, rfl⟩
  wait := congrArg Context.wait (s.raise_my code operand h)
  pc := by rw [s.raise_my code operand h]
  sa r := congrArg (·.sa r) (s.raise_my code operand h)
  preds n _ := congrArg (·.pred n) (s.raise_my code operand h)
  contexts x hx := by rw [s.raise_me code operand h]; exact Core.ctx_takeFault_ne _ _ _ _ _ hx
  checker := by rw [s.raise_me code operand h, Core.takeFault_checker]
  core := by rw [s.raise_me code operand h]; exact Core.takeFault_rest _ _ _ _ _
  memory a := by rw [State.raise_mem]
  cores := s.raise_core code operand h
  machine := s.raise_machine code operand h

end Raise

end Sys2Proof.Machine
end

section
/-! SUPPORT. TRAP's cell of the opcode map (R70), the comparison of CHK (R80, R88), and what the two do. -/

namespace Sys2Proof

/-- Row 0x04 of the opcode map holds TRAP in column 6. -/
theorem buildRow04_eq_trap {col : Nat} {w : IWord} {f : FI} (h : buildRow04 col w = some (.trap f)) :
    col = 6 ∧ FI.of w = some f := by
  unfold buildRow04 at h
  split at h
  case h_7 => exact ⟨rfl, by simpa using h⟩
  all_goals simp at h

/-- R70: TRAP has one cell of the opcode map. -/
theorem build_eq_trap {w : IWord} {f : FI} (h : build w = some (.trap f)) : wOpc w = 0x046 ∧ FI.of w = some f := by
  unfold build at h
  split at h
  case h_5 hrow =>
    obtain ⟨hcol, hf⟩ := buildRow04_eq_trap h
    exact ⟨BitVec.eq_of_toNat_eq (by simp; omega), hf⟩
  case h_17 => cases h
  all_goals
    simp only [buildRow00, buildRow01, buildRow02, buildRow03, buildRow08, buildRow09, buildRow0A, buildRow0B,
      buildRow10, buildRow11, buildRow16, buildRow17, buildRow1C, buildRow1D, buildRow1E] at h
    (repeat' split at h) <;> simp at h

/-- A word that decodes to an instruction has its fields and keeps its field rule. -/
theorem build_of_decode {w : IWord} {i : Instr} (h : decode w = .ok i) : build w = some i ∧ legal i = true := by
  unfold decode at h
  split at h
  · cases h
  · split at h
    · cases h; exact ⟨‹_›, ‹_›⟩
    · cases h

theorem FI.imm_of {w : IWord} {f : FI} (h : FI.of w = some f) : f.imm = w.extractLsb' 0 32 := by
  unfold FI.of at h
  split at h <;> cases h
  rfl

end Sys2Proof

namespace Sys2Proof.Machine

/-- Table 3-10: the condition codes on two values are the relation on their integers. -/
theorem condInt_eq_relation {n : Nat} (cc : BitVec 4) (a b : BitVec n) (h : cc.toNat ≤ 9) :
    condInt cc a b = relation cc a.toInt b.toInt a.toNat b.toNat := by
  have hc : cc = 0 ∨ cc = 1 ∨ cc = 2 ∨ cc = 3 ∨ cc = 4 ∨ cc = 5 ∨ cc = 6 ∨ cc = 7 ∨ cc = 8 ∨ cc = 9 := by
    revert h; revert cc; decide
  rcases hc with rfl | rfl | rfl | rfl | rfl | rfl | rfl | rfl | rfl | rfl
  all_goals simp [condInt, relation, ← BitVec.toInt_inj, beq_eq_decide, bne]

/-- R80, R88: the comparison of CHK is the relation on the register and the immediate, of 64 bits or of 32. -/
theorem condScalar_eq_relation (t1 cc : BitVec 4) (a : Word) (imm : BitVec 32) (h : okCmp t1 cc = true) :
    condScalar t1 cc a (sextImm imm) =
      if t1 = 3 then relation cc a.toInt imm.toInt a.toNat (BitVec.ofInt 64 imm.toInt).toNat
      else relation cc (a.setWidth 32).toInt imm.toInt (a.toNat % 2 ^ 32) imm.toNat := by
  obtain ⟨ht, hcc⟩ : (t1 = 2 ∨ t1 = 3) ∧ cc.toNat ≤ 9 := by simpa [okCmp] using h
  unfold condScalar
  rcases ht with rfl | rfl
  · have hl : (sextImm imm).extractLsb' 0 32 = imm := by
      ext n hn; simp [sextImm, BitVec.getLsbD_eq_getElem, BitVec.getElem_signExtend, hn, show n < 64 by omega]
    have ha : a.extractLsb' 0 32 = a.setWidth 32 := (BitVec.setWidth_eq_extractLsb' (by omega)).symm
    rw [if_pos rfl, if_neg (by decide), condInt_eq_relation _ _ _ hcc, hl, ha, BitVec.toNat_setWidth]
  · rw [if_neg (by decide), if_pos rfl, condInt_eq_relation _ _ _ hcc, sextImm,
      BitVec.toInt_signExtend_of_le (by omega)]
    rfl

/-- R62, R87: the fields of a word that decodes to TRAP. -/
theorem trap_word {w : IWord} {f : FI} (h : decode w = .ok (.trap f)) :
    w.extractLsb' 86 10 = 0x046 ∧ f.imm = w.extractLsb' 0 32 ∧ f.d = 0 ∧ f.a = 0 ∧
      f.b = 0 ∧ f.t1 = 0 ∧ f.t2 = 0 ∧ f.sh = 0 := by
  obtain ⟨hb, hl⟩ := build_of_decode h
  obtain ⟨hopc, hf⟩ := build_eq_trap hb
  have hz : f.d = 0 ∧ f.a = 0 ∧ f.b = 0 ∧ f.t1 = 0 ∧ f.t2 = 0 ∧ f.sh = 0 := by
    rw [legal_trap] at hl
    simp only [legalTrap, Bool.and_eq_true, beq_iff_eq] at hl
    tauto
  exact ⟨hopc, FI.imm_of hf, hz⟩

/-- R87: TRAP under a true guard. -/
theorem trap_faults (f : FI) (s : State) (h : s.guard f.g f.gn = true) :
    Runs (.trap f) s (Faulted s · .trap 0 (0#32 ++ f.imm) s.my.pc) := by
  have hop : f.imm.zeroExtend 64 = 0#32 ++ f.imm := BitVec.setWidth_eq_append (by omega)
  rw [← hop]
  exact ⟨_, (exec_trap f s).trans (guarded_on h), faulted_raise s 0 _ (by decide)⟩

/-- R88: CHK under a true guard, when its comparison holds. -/
theorem chk_advances (f : FI) (s : State) (h : s.guard f.g f.gn = true)
    (hc : condScalar f.t1 f.t2 (s.sa f.a) (sextImm f.imm) = true) : Runs (.chk f) s (Advances s) :=
  ⟨_, (exec_chk f s).trans ((guarded_on h).trans (if_pos hc)), advances_advance s⟩

/-- R88: CHK under a true guard, when its comparison fails. -/
theorem chk_faults (f : FI) (s : State) (h : s.guard f.g f.gn = true)
    (hc : condScalar f.t1 f.t2 (s.sa f.a) (sextImm f.imm) = false) :
    Runs (.chk f) s
      (Faulted s · .trap 0 (0x01#8 ++ f.sh ++ f.t2 ++ 0#12 ++ (s.sa f.a).setWidth 32) s.my.pc) := by
  rw [BitVec.setWidth_eq_extractLsb' (by omega)]
  exact ⟨_, (exec_chk f s).trans ((guarded_on h).trans (if_neg (by simp [hc]))), faulted_raise s 0 _ (by decide)⟩

/-- Settles O7: TRAP has one cell of the opcode map and one field rule; it and a failed CHK take a precise fault, whose
effect is that of every precise fault; the comparison of CHK is the relation of Table 3-10. -/
theorem trapsAndChecks : Obligations.TrapsAndChecks := by
  refine ⟨fun w f => trap_word, fun f s h => ⟨trap_faults f s h, fun hl => ?_⟩⟩
  have hcmp : okCmp f.t1 f.t2 = true := by
    simp only [legalChk, Bool.and_eq_true] at hl
    exact hl.2
  intro holds
  have hholds : condScalar f.t1 f.t2 (s.sa f.a) (sextImm f.imm) = holds :=
    condScalar_eq_relation f.t1 f.t2 (s.sa f.a) f.imm hcmp
  exact ⟨fun hc => chk_advances f s h (hholds.trans hc), fun hc => chk_faults f s h (hholds.trans hc)⟩

end Sys2Proof.Machine
end
